-- ==== Sys2Proof/Word.lean ====
section
/-! DEFINITION. The words of the ZV448: what the manual counts, adds, masks or sends as bits, and the names of
masters, zones, inputs and steps. Widths follow spec/00_scope.md and R170. -/

namespace Sys2Proof

/-- One byte on a port, or one byte of the store image. -/
abbrev Byte := BitVec 8

/-- A zone value, 0 to 15; bit k is line OUTz.k (00_scope.md, Conventions). -/
abbrev Value := BitVec 4

/-- A value of the 48-bit time count (R86). -/
abbrev TimeCount := BitVec 48

/-- A capture serial, a cursor or a park serial (R140, R141, R23). -/
abbrev Serial := BitVec 32

/-- A zone's epoch (R7). -/
abbrev Epoch := BitVec 16

/-- A queue entry's tag (R89). -/
abbrev Tag := BitVec 16

/-- M0 to M3, and the port of each: master n is the controller on port MPn. -/
abbrev Master := Fin 4

/-- Z0 to Z7. -/
abbrev ZoneId := Fin 8

/-- IN0 to IN7. -/
abbrev InputId := Fin 8

/-- A step index 0 to 15 (R107). -/
abbrev StepIndex := Fin 16

/-- A set of masters, bit n for Mn (R170). -/
abbrev MasterSet := BitVec 4

/-- A set of zones, bit n for Zn (R170). -/
abbrev ZoneSet := BitVec 8

/-- A set of inputs, bit n for INn (R170). -/
abbrev InputSet := BitVec 8

/-- A set of the four lines of a zone, bit k for OUTz.k (R170). -/
abbrev LineSet := BitVec 4

/-- A set of the fifteen flags, bit n for the nth flag of R152's table (R170). -/
abbrev FlagSet := BitVec 15

/-- The level of a line. -/
inductive Level
  | low
  | high
  deriving DecidableEq, Repr

/-- The masters in the order M0 to M3. -/
def allMasters : List Master := [0, 1, 2, 3]

/-- The zones in the order Z0 to Z7, the order in which one event takes several zones (R82, R148). -/
def allZones : List ZoneId := [0, 1, 2, 3, 4, 5, 6, 7]

/-- The inputs in the order IN0 to IN7. -/
def allInputs : List InputId := [0, 1, 2, 3, 4, 5, 6, 7]

end Sys2Proof
end

