-- ==== Sys2Proof/Syntax.lean ====
section
/-! DEFINITION. The commands of the ZV448: one constructor per row of spec/opcode_table.json, in the table's order.
A request row is the moment at which the block that owns the request serves it (R161); it names the port and
carries the operand bytes of the frame (R162, R170). -/

namespace Sys2Proof

/-- The commands the part takes: events at a port, requests served, resets, and the part's own events. -/
inductive Instr
  /-- TRANSACTION_BEGIN: the chip select of a port is asserted (R161). -/
  | transactionBegin (port : Master)
  /-- TRANSACTION_END: the chip select of a port is released, after the whole bytes `received` and `strayBits`
  further bits were clocked (R161, R163). -/
  | transactionEnd (port : Master) (received : List Byte) (strayBits : Nat)
  /-- NOP (R168). -/
  | nop (port : Master) (operands : List Byte)
  /-- STATUS (R176). -/
  | status (port : Master) (operands : List Byte)
  /-- ATTACH: mode code, period code (R35). -/
  | attach (port : Master) (operands : List Byte)
  /-- DETACH (R37). -/
  | detach (port : Master) (operands : List Byte)
  /-- PARK (R38). -/
  | park (port : Master) (operands : List Byte)
  /-- UNPARK (R40). -/
  | unpark (port : Master) (operands : List Byte)
  /-- RENEW (R41). -/
  | renew (port : Master) (operands : List Byte)
  /-- SUPERVISE: mode code, period code (R43). -/
  | supervise (port : Master) (operands : List Byte)
  /-- CLAIM: zone (R14). -/
  | claim (port : Master) (operands : List Byte)
  /-- RELEASE: zone (R17). -/
  | release (port : Master) (operands : List Byte)
  /-- SET OUTPUT: zone, value (R19). -/
  | setOutput (port : Master) (operands : List Byte)
  /-- READ ZONE: zone (R21). -/
  | readZone (port : Master) (operands : List Byte)
  /-- READ ZONE CHANGES (R22). -/
  | readZoneChanges (port : Master) (operands : List Byte)
  /-- CLEAR FAULT: zone (R130). -/
  | clearFault (port : Master) (operands : List Byte)
  /-- REQUEST HANDOVER: zone (R48). -/
  | requestHandover (port : Master) (operands : List Byte)
  /-- WITHDRAW: zone (R55). -/
  | withdraw (port : Master) (operands : List Byte)
  /-- YIELD: zone, requester (R51). -/
  | yield (port : Master) (operands : List Byte)
  /-- REFUSE: zone, requester (R51). -/
  | refuse (port : Master) (operands : List Byte)
  /-- READ TIME (R87). -/
  | readTime (port : Master) (operands : List Byte)
  /-- POST ACTION: zone, due time, value and notify, tag (R93). -/
  | postAction (port : Master) (operands : List Byte)
  /-- POST SEQUENCE: zone, first due time, first step, tag (R112). -/
  | postSequence (port : Master) (operands : List Byte)
  /-- CANCEL TAG: tag (R102). -/
  | cancelTag (port : Master) (operands : List Byte)
  /-- CANCEL ZONE: zone (R103). -/
  | cancelZone (port : Master) (operands : List Byte)
  /-- READ QUEUE: start position (R105). -/
  | readQueue (port : Master) (operands : List Byte)
  /-- WRITE STEPS: first index, 1 to 4 records (R108). -/
  | writeSteps (port : Master) (operands : List Byte)
  /-- READ STEPS: first index, count (R110). -/
  | readSteps (port : Master) (operands : List Byte)
  /-- READ INPUTS (R147). -/
  | readInputs (port : Master) (operands : List Byte)
  /-- READ CAPTURES: n (R145). -/
  | readCaptures (port : Master) (operands : List Byte)
  /-- READ FLAGS (R156). -/
  | readFlags (port : Master) (operands : List Byte)
  /-- ACKNOWLEDGE: flag set (R157). -/
  | acknowledge (port : Master) (operands : List Byte)
  /-- SET ENABLES: flag set, notify mask (R159). -/
  | setEnables (port : Master) (operands : List Byte)
  /-- READ CONFIG: section (R179). -/
  | readConfig (port : Master) (operands : List Byte)
  /-- WRITE ZONE CONFIG (R177). -/
  | writeZoneConfig (port : Master) (operands : List Byte)
  /-- WRITE INPUT CONFIG (R178). -/
  | writeInputConfig (port : Master) (operands : List Byte)
  /-- WRITE MASTER POLICY: master, required strictness (R178). -/
  | writeMasterPolicy (port : Master) (operands : List Byte)
  /-- COMMIT (R180). -/
  | commit (port : Master) (operands : List Byte)
  /-- STORE_WRITE_END: the store write ends; whether the verify matched, and the CFG level that a restart samples
  (R180, R172). -/
  | storeWriteEnd (verified : Bool) (cfg : Level)
  /-- POWER_ON: a power-on reset ends, with CFG sampled at this level (R175, R172). -/
  | powerOn (cfg : Level)
  /-- RESET_PIN: a reset by RESETN ends, with CFG sampled at this level (R175, R172). -/
  | resetPin (cfg : Level)
  /-- START_UP_DECISION: the store read ends (R174). -/
  | startUpDecision
  /-- SUPERVISION_EXPIRY of a master's timer (R25). -/
  | supervisionExpiry (master : Master)
  /-- WINDOW_OPEN: a WINDOW timer passes from CLOSED to OPEN (R26). -/
  | windowOpen (master : Master)
  /-- HANDOVER_TIMEOUT of a zone (R47). -/
  | handoverTimeout (zone : ZoneId)
  /-- SETTLE_EXPIRY of a zone (R76). -/
  | settleExpiry (zone : ZoneId)
  /-- SENSED_VALUE_CHANGE: the sensed levels of a zone's lines become this value (R123, R124). -/
  | sensedValueChange (zone : ZoneId) (sensed : Value)
  /-- READBACK_CHECK_EXPIRY of a zone (R127). -/
  | readbackCheckExpiry (zone : ZoneId)
  /-- DUE_EVENT: the entries due at the present count value are taken (R96). -/
  | dueEvent
  /-- FIRST_RECOGNITION of an ESTABLISHING input (R137). -/
  | firstRecognition (input : InputId)
  /-- RECOGNISED_CHANGE of a TRACKING input (R135). -/
  | recognisedChange (input : InputId)
  /-- RAW_LEVEL_CHANGE: the sample of the present count value shows this level (R134). -/
  | rawLevelChange (input : InputId) (level : Level)
  /-- TIME_COUNT_ADVANCE: the time count advances by one (R86). -/
  | timeCountAdvance
  deriving DecidableEq, Repr

end Sys2Proof
end

