-- ==== Sys2Proof/Config.lean ====
section
/-! DEFINITION. The configuration records of the ZV448 (R2, R133, R33), the defaults of R174, and the sizes and
time units the manual fixes. No value of the manual is left to the implementation, so there is no free constant. -/

namespace Sys2Proof

/-- The supervision modes (R23); also the required strictness of a master (R33). -/
inductive Mode
  | window
  | timeout
  | auto
  | off
  deriving DecidableEq, Repr

/-- The order of strictness of R33: WINDOW strictest, then TIMEOUT, AUTO, OFF. -/
def Mode.laxity : Mode → Nat
  | .window => 0
  | .timeout => 1
  | .auto => 2
  | .off => 3

/-- The eight supervision periods (R23). -/
inductive Period
  | ms2
  | ms5
  | ms10
  | ms20
  | ms50
  | ms100
  | ms200
  | ms500
  deriving DecidableEq, Repr

/-- A period in microseconds (R25). -/
def Period.micros : Period → Nat
  | .ms2 => 2000
  | .ms5 => 5000
  | .ms10 => 10000
  | .ms20 => 20000
  | .ms50 => 50000
  | .ms100 => 100000
  | .ms200 => 200000
  | .ms500 => 500000

/-- A zone's handover policy (R2). -/
inductive HandoverPolicy
  | yieldOnly
  | preempt
  deriving DecidableEq, Repr

/-- Which recognised changes of an input are captured (R133, R139). -/
inductive EdgeMode
  | rising
  | falling
  | both
  deriving DecidableEq, Repr

/-- The configuration of one zone (R2). -/
structure ZoneConfig where
  /-- The masters allowed to hold the zone. -/
  permitted : MasterSet
  /-- The succession list, position 0 first (R70). -/
  succession : List Master
  fallback : Value
  policy : HandoverPolicy
  /-- In units of 10 ms. -/
  handoverTimeout : Byte
  /-- In units of 10 ms. -/
  settleTime : Byte
  /-- In ms; 0 is monitor off. -/
  checkTime : Byte
  deriving DecidableEq, Repr

/-- The configuration of one input (R133). -/
structure InputConfig where
  enabled : Bool
  edge : EdgeMode
  /-- In units of 10 µs. -/
  filterTime : Byte
  interlock : ZoneSet
  forcing : Level
  deriving DecidableEq, Repr

/-- The working configuration: what the store image holds but for mark and check (R173). -/
structure WorkingConfig where
  zones : Vector ZoneConfig 8
  inputs : Vector InputConfig 8
  strictness : Vector Mode 4
  deriving DecidableEq, Repr

/-- The default zone configuration (R174). -/
def ZoneConfig.default : ZoneConfig where
  permitted := 0xF
  succession := []
  fallback := 0
  policy := .yieldOnly
  handoverTimeout := 10
  settleTime := 10
  checkTime := 0

/-- The default input configuration (R174). -/
def InputConfig.default : InputConfig where
  enabled := false
  edge := .both
  filterTime := 0
  interlock := 0
  forcing := .low

/-- The default working configuration (R174). -/
def WorkingConfig.default : WorkingConfig where
  zones := .replicate 8 .default
  inputs := .replicate 8 .default
  strictness := .replicate 4 .auto

/-- The range of a zone's configuration (R2, R177): at most three successors, none twice, all permitted;
timeouts of at least one unit; no readback monitor where no master is permitted. -/
abbrev ZoneConfig.InRange (c : ZoneConfig) : Prop :=
  c.succession.length ≤ 3 ∧ c.succession.Nodup ∧ (∀ m ∈ c.succession, c.permitted.getLsbD m.val = true) ∧
    c.handoverTimeout ≠ 0 ∧ c.settleTime ≠ 0 ∧ (c.permitted = 0 → c.checkTime = 0)

/-- Every zone's configuration is in range; the other fields' types hold nothing out of range. -/
abbrev WorkingConfig.InRange (c : WorkingConfig) : Prop :=
  ∀ z : ZoneId, c.zones[z].InRange

/-- The action queue holds at most 32 entries (R91). -/
def queueCapacity : Nat := 32

/-- At most 16 queue entries are one master's (R91). -/
def queueQuota : Nat := 16

/-- The capture ring holds at most 64 records (R141). -/
def ringCapacity : Nat := 64

/-- The microseconds of one unit of a handover timeout or settle time (R1). -/
def microsPer10ms : Nat := 10000

/-- The microseconds of one unit of a readback check time (R124). -/
def microsPerMs : Nat := 1000

/-- The microseconds of one unit of an input's filter time (R135). -/
def microsPerFilterUnit : Nat := 10

end Sys2Proof
end

