-- ==== Sys2Proof/Machine/State.lean ====
section
/-! DEFINITION. Everything the manual gives the ZV448 to hold, as plain data, and the machine right after reset.
The fields stand by the block that owns them (spec/00_scope.md, Blocks of the ZV448). -/

namespace Sys2Proof.Machine

/-! ### The authority table (R1, R3) -/

/-- The six zone states (R3). -/
inductive ZoneState
  | dark
  | vacant
  | held
  | transfer
  | settling
  | faulted
  deriving DecidableEq, Repr

/-- The pending request of a zone in TRANSFER (R47): the requester and the handover timer, kept as the count value
it started at and its length in units of 10 ms. -/
structure Pending where
  requester : Master
  since : TimeCount
  timeout : Byte
  deriving DecidableEq, Repr

/-- Where a candidate comes from (R1). -/
inductive CandidateOrigin
  | requester
  | list (position : Nat)
  deriving DecidableEq, Repr

/-- The candidate of a zone in SETTLING (R73), with the settle timer kept as the count value it started at and its
length in units of 10 ms. -/
structure Candidate where
  master : Master
  origin : CandidateOrigin
  since : TimeCount
  settle : Byte
  deriving DecidableEq, Repr

/-- A zone's state with the optional fields that exist in it and in no other (R1). -/
inductive Authority
  | dark
  | vacant
  | held (holder : Master)
  | transfer (holder : Master) (pending : Pending)
  | settling (candidate : Candidate)
  | faulted
  deriving DecidableEq, Repr

/-- The driven value and the mismatched lines at the moment a zone faulted (R123). -/
structure FaultRecord where
  driven : Value
  lines : LineSet
  deriving DecidableEq, Repr

/-- The readback monitor with what exists in each of its conditions (R123): the check timer, as the count value it
last started at, and the mismatched lines while CHECKING; the fault record while FAULT. -/
inductive Monitor
  | idle
  | off
  | matching
  | checking (since : TimeCount) (lines : LineSet)
  | fault (record : FaultRecord)
  deriving DecidableEq, Repr

/-- One zone record (R1), with the driven state the output stage holds (R120) and its readback state (R123). -/
structure Zone where
  authority : Authority
  epoch : Epoch
  commanded : Value
  inhibit : InputSet
  /-- The driven value, or none for undriven (R120). -/
  driven : Option Value
  sensed : Value
  monitor : Monitor
  deriving DecidableEq, Repr

/-! ### Sessions (R23) -/

/-- Why a master was revoked (R44). -/
inductive RevokeReason
  | expiry
  | earlyRenewal
  | secondExpiry
  | reconfigure
  deriving DecidableEq, Repr

/-- The session state with what exists in it and in no other: the capture cursor while ATTACHED (R141, R142), the
park serial while PARKED (R23). -/
inductive Standing
  | detached
  | attached (cursor : Serial)
  | parked (parkSerial : Serial)
  | revoked
  deriving DecidableEq, Repr

/-- The supervision timer (R23), running since a count value; CLOSED and OPEN are the halves of WINDOW mode. -/
inductive SupervisionTimer
  | stopped
  | running (since : TimeCount)
  | closed (since : TimeCount)
  | opened (since : TimeCount)
  deriving DecidableEq, Repr

/-- One session record (R23). -/
structure Session where
  standing : Standing
  mode : Mode
  period : Period
  timer : SupervisionTimer
  strike : Bool
  revokeReason : Option RevokeReason
  deriving DecidableEq, Repr

/-! ### Attention (R152 to R154) -/

/-- The fifteen flags, in the order of R152's table. -/
inductive Flag
  | zonesChanged
  | granted
  | lost
  | handoverAsked
  | handoverResult
  | actionDone
  | actionDropped
  | captureAvailable
  | captureGap
  | inhibitChange
  | zoneFault
  | supervisionWarning
  | revoked
  | wakeRequest
  | storeFailed
  deriving DecidableEq, Repr

inductive GrantCause
  | handover
  | preempt
  | succession
  deriving DecidableEq, Repr

inductive LossCause
  | preempted
  | revoked
  | fault
  deriving DecidableEq, Repr

inductive AskedStatus
  | pending
  | withdrawn
  | expired
  deriving DecidableEq, Repr

inductive HandoverOutcome
  | granted
  | denied
  | preemptGranted
  | timedOut
  | succession
  | dropped
  deriving DecidableEq, Repr

inductive DoneKind
  | applied
  | step
  | sequenceEnd
  deriving DecidableEq, Repr

inductive DropReason
  | lostZone
  | inhibited
  | timeEnd
  deriving DecidableEq, Repr

structure GrantRecord where
  zone : ZoneId
  cause : GrantCause
  deriving DecidableEq, Repr

structure LossRecord where
  zone : ZoneId
  cause : LossCause
  deriving DecidableEq, Repr

structure AskedRecord where
  zone : ZoneId
  requester : Master
  status : AskedStatus
  deriving DecidableEq, Repr

structure ResultRecord where
  zone : ZoneId
  outcome : HandoverOutcome
  deriving DecidableEq, Repr

structure DoneRecord where
  tag : Tag
  zone : ZoneId
  kind : DoneKind
  deriving DecidableEq, Repr

structure DroppedRecord where
  tag : Tag
  zone : ZoneId
  reason : DropReason
  deriving DecidableEq, Repr

/-- What the attention unit holds for one master: flags (R152), enables and notify mask (R154), and the seven detail
records, none when clear (R153). -/
structure Attention where
  flags : FlagSet
  enables : FlagSet
  notifyMask : InputSet
  grant : Option GrantRecord
  loss : Option LossRecord
  asked : Option AskedRecord
  result : Option ResultRecord
  done : Option DoneRecord
  dropped : Option DroppedRecord
  revoke : Option RevokeReason
  deriving DecidableEq, Repr

/-! ### Queue and step banks (R89, R107) -/

/-- The fields a queue entry has by its kind (R89). -/
inductive EntryKind
  | single (value : Value) (notify : Bool)
  | sequence (step : StepIndex)
  deriving DecidableEq, Repr

/-- A queue entry (R89). -/
structure Entry where
  poster : Master
  zone : ZoneId
  due : TimeCount
  kind : EntryKind
  tag : Tag
  deriving DecidableEq, Repr

/-- A step record; link none is END (R107). -/
structure Step where
  value : Value
  link : Option StepIndex
  delay : BitVec 24
  notify : Bool
  deriving DecidableEq, Repr

/-! ### Inputs and captures (R134 to R141) -/

/-- An input's live state with recognised level and filter progress (R135 to R137). -/
inductive InputLive
  | disabled
  | establishing (progress : Option (Level × TimeCount))
  | tracking (level : Level) (progress : Option TimeCount)
  deriving DecidableEq, Repr

/-- What the input unit holds for one input (R134, R136). -/
structure Input where
  raw : Level
  live : InputLive
  deriving DecidableEq, Repr

/-- A capture record (R140). -/
structure CaptureRecord where
  serial : Serial
  input : InputId
  level : Level
  time : TimeCount
  deriving DecidableEq, Repr

/-! ### Ports (R161 to R170) -/

/-- The status codes (R169). -/
inductive Status
  | ok
  | frameError
  | unknownCommand
  | wrongState
  | busy
  | notAttached
  | notPermitted
  | strikePending
  | notHolder
  | heldByOther
  | notHeld
  | zoneBusy
  | zoneFaulted
  | noFault
  | inhibited
  | noRequest
  | past
  | queueFull
  | quota
  | range
  | codeError
  | protection
  | policy
  | notFound
  | pendingFlags
  deriving DecidableEq, Repr

/-- The commands a frame can name (R170). -/
inductive Command
  | nop
  | status
  | attach
  | detach
  | park
  | unpark
  | renew
  | supervise
  | claim
  | release
  | setOutput
  | readZone
  | readZoneChanges
  | clearFault
  | requestHandover
  | withdraw
  | yield
  | refuse
  | readTime
  | postAction
  | postSequence
  | cancelTag
  | cancelZone
  | readQueue
  | writeSteps
  | readSteps
  | readInputs
  | readCaptures
  | readFlags
  | acknowledge
  | setEnables
  | readConfig
  | writeZoneConfig
  | writeInputConfig
  | writeMasterPolicy
  | commit
  deriving DecidableEq, Repr

/-- A well-formed request that its block has not served yet (R161, R163); `releasedAt` is the count value at which
chip select was released on it (R167 orders requests by their arrival). -/
structure Request where
  command : Command
  operands : List Byte
  releasedAt : TimeCount
  deriving DecidableEq, Repr

/-- The port state (R161). -/
inductive PortPhase
  | idle
  | shifting
  | waiting (request : Request)
  deriving DecidableEq, Repr

/-- A response (R164); `command` is the identifier answered, FF hex for FRAME_ERROR (R163). -/
structure Response where
  status : Status
  command : Byte
  payload : List Byte
  deriving DecidableEq, Repr

/-- One master port (R161). -/
structure Port where
  /-- The level of the chip select pin: true while it is asserted. -/
  cs : Bool
  phase : PortPhase
  buffer : Response
  /-- What the transaction in progress shifts out before the FF hex fill; none when no transaction is in progress. -/
  out : Option (List Byte)
  /-- The whole bytes shifted out on SDO by the transaction that ended last. -/
  sdo : List Byte
  deriving DecidableEq, Repr

/-! ### Start-up and store (R172 to R176) -/

/-- The device state (R172); STORING holds the committing master and the image taken at the COMMIT (R180). -/
inductive DeviceState
  | starting
  | commissioning
  | operational
  | storing (committer : Master) (image : List Byte)
  | halted
  deriving DecidableEq, Repr

inductive ResetCause
  | powerOn
  | resetPin
  | commitRestart
  deriving DecidableEq, Repr

/-- The class of the store (R173). -/
inductive StoreClass
  | blank
  | valid
  | corrupt
  deriving DecidableEq, Repr

/-- The store state at start-up as STATUS reports it (R174, R176). -/
inductive StartupStore
  | blank
  | valid
  | corrupt
  | strapped
  deriving DecidableEq, Repr

/-- The non-volatile image: its bytes, or invalidated by a store write that has not completed (R173, R180). -/
inductive StoreImage
  | image (bytes : List Byte)
  | invalidated
  deriving DecidableEq, Repr

/-- Where the working configuration came from (R179). -/
inductive ConfigSource
  | store
  | defaults
  deriving DecidableEq, Repr

/-- The length of the store image: 8 zones of 10 bytes, 8 inputs of 5, 4 policies, the mark and the check. -/
def imageLength : Nat := 127

/-! ### The whole part -/

/-- The state of the ZV448 and the queue of commands waiting to be taken. -/
@[ext]
structure State where
  timeCount : TimeCount
  /-- The action queue, in queue order (R90). -/
  queue : List Entry
  /-- The step bank of each master (R107). -/
  banks : Vector (Vector Step 16) 4
  /-- The zone records (R1). -/
  zones : Vector Zone 8
  /-- The zone change set of each master (R9). -/
  changeSets : Vector ZoneSet 4
  /-- The port the authority table controller served last (R167). -/
  lastServed : Master
  /-- The port whose request that controller serves next (R167). -/
  chosen : Option Master
  sessions : Vector Session 4
  attention : Vector Attention 4
  inputs : Vector Input 8
  nextSerial : Serial
  /-- The capture ring, oldest first (R141). -/
  ring : List CaptureRecord
  ports : Vector Port 4
  device : DeviceState
  resetCause : ResetCause
  /-- The CFG level sampled at the last reset (R172). -/
  cfg : Level
  startupStore : Option StartupStore
  presentStore : Option StoreClass
  store : StoreImage
  config : WorkingConfig
  source : ConfigSource
  /-- The commands waiting, first in first out. -/
  pending : List Instr
  deriving DecidableEq, Repr

/-- Why the machine stops with a fault: for no reason. The manual gives every command and event an effect or an
answer, so the type has no constructor (safe: no step can stop). -/
inductive Fault
  deriving DecidableEq, Repr

/-- Why a command is refused. -/
inductive Refusal
  /-- Raised by `exec` for a row that has no meaning yet. No arm of this model uses it (safe: the run stops). -/
  | notModelled (mnemonic : String)
  deriving DecidableEq, Repr

/-- What a step answers. -/
abbrev Result := Host.Outcome State Fault Refusal

/-! ### After reset -/

/-- A zone record after reset (R4, R121, R123); the sensed value is what the pins show. -/
def Zone.afterReset (sensed : Value) : Zone where
  authority := .dark
  epoch := 0
  commanded := 0
  inhibit := 0
  driven := none
  sensed := sensed
  monitor := .idle

/-- A session record after reset (R24), and the one DETACH leaves (R37). -/
def Session.afterReset : Session where
  standing := .detached
  mode := .off
  period := .ms500
  timer := .stopped
  strike := false
  revokeReason := none

/-- A master's flags, enables, mask and records after reset (R152 to R154). -/
def Attention.afterReset : Attention where
  flags := 0
  enables := 0
  notifyMask := 0
  grant := none
  loss := none
  asked := none
  result := none
  done := none
  dropped := none
  revoke := none

/-- A step record after reset (R107). -/
def Step.afterReset : Step where
  value := 0
  link := none
  delay := 0
  notify := false

/-- An input after reset (R134, R136); the raw level is what the pin shows. -/
def Input.afterReset (raw : Level) : Input where
  raw := raw
  live := .disabled

/-- The empty NOP response with status OK (R161). -/
def Response.afterReset : Response where
  status := .ok
  command := 0
  payload := []

/-- A port after reset (R161); the chip select pin keeps its level. -/
def Port.afterReset (cs : Bool) : Port where
  cs := cs
  phase := .idle
  buffer := .afterReset
  out := none
  sdo := []

/-- The part right after a power-on reset, as it leaves the factory: store BLANK (R173). The levels of the pins
(inputs, sensed lines, CFG low, chip selects released) are a DESIGN CHOICE, log 10. -/
def State.reset : State where
  timeCount := 0
  queue := []
  banks := .replicate 4 (.replicate 16 .afterReset)
  zones := .replicate 8 (.afterReset 0)
  changeSets := .replicate 4 0
  lastServed := 3
  chosen := none
  sessions := .replicate 4 .afterReset
  attention := .replicate 4 .afterReset
  inputs := .replicate 8 (.afterReset .low)
  nextSerial := 0
  ring := []
  ports := .replicate 4 (.afterReset false)
  device := .starting
  resetCause := .powerOn
  cfg := .low
  startupStore := none
  presentStore := none
  store := .image (List.replicate imageLength 0xFF)
  config := .default
  source := .defaults
  pending := []

end Sys2Proof.Machine
end

