-- ==== Sys2Proof/Machine/Ops.lean ====
section
/-! DEFINITION. The named operations over the part's registers: one update per field, sets of masters, zones and
inputs, time against the time count, and the computed views (holder, held-zone count, eligibility). -/

namespace Sys2Proof.Machine

/-! ### Updates, one per field -/

def State.withTimeCount (s : State) (t : TimeCount) : State := { s with timeCount := t }

def State.withQueue (s : State) (q : List Entry) : State := { s with queue := q }

def State.withBank (s : State) (m : Master) (b : Vector Step 16) : State := { s with banks := s.banks.set m b }

def State.withZone (s : State) (z : ZoneId) (r : Zone) : State := { s with zones := s.zones.set z r }

def State.withChangeSet (s : State) (m : Master) (c : ZoneSet) : State :=
  { s with changeSets := s.changeSets.set m c }

/-- The round-robin memory of the authority table controller (R167). -/
def State.withService (s : State) (lastServed : Master) (chosen : Option Master) : State :=
  { s with lastServed := lastServed, chosen := chosen }

def State.withSession (s : State) (m : Master) (r : Session) : State := { s with sessions := s.sessions.set m r }

def State.withAttention (s : State) (m : Master) (a : Attention) : State :=
  { s with attention := s.attention.set m a }

def State.withInput (s : State) (i : InputId) (r : Input) : State := { s with inputs := s.inputs.set i r }

/-- The capture ring and the serial of the next record (R140, R141). -/
def State.withCaptures (s : State) (ring : List CaptureRecord) (next : Serial) : State :=
  { s with ring := ring, nextSerial := next }

def State.withPort (s : State) (p : Master) (r : Port) : State := { s with ports := s.ports.set p r }

def State.withDevice (s : State) (d : DeviceState) : State := { s with device := d }

def State.withConfig (s : State) (c : WorkingConfig) : State := { s with config := c }

/-- The store image and its present class (R173). -/
def State.withStore (s : State) (img : StoreImage) (present : Option StoreClass) : State :=
  { s with store := img, presentStore := present }

/-- The configuration of one zone (R177). -/
def State.withZoneConfig (s : State) (z : ZoneId) (c : ZoneConfig) : State :=
  s.withConfig { s.config with zones := s.config.zones.set z c }

/-- The configuration of one input (R178). -/
def State.withInputConfig (s : State) (i : InputId) (c : InputConfig) : State :=
  s.withConfig { s.config with inputs := s.config.inputs.set i c }

/-- The required strictness of one master (R178). -/
def State.withStrictness (s : State) (m : Master) (mode : Mode) : State :=
  s.withConfig { s.config with strictness := s.config.strictness.set m mode }

/-! ### Time (R86) -/

/-- The microseconds since a count value, across the wrap of the count. -/
def State.elapsed (s : State) (since : TimeCount) : Nat := (s.timeCount - since).toNat

/-- A time remaining in whole units, rounded up; a running timer never reads 0 (R21), one whose expiry is due at
the present count value and not yet taken included (DESIGN CHOICE, log 17). -/
def roundedUp (total elapsed unit : Nat) : Nat := Nat.max 1 ((total - elapsed + (unit - 1)) / unit)

/-! ### Sessions -/

/-- The session state is ATTACHED (R23). -/
def Standing.isAttached : Standing → Bool
  | .attached _ => true
  | _ => false

/-- The session state is PARKED (R23). -/
def Standing.isParked : Standing → Bool
  | .parked _ => true
  | _ => false

/-- The master's session state is ATTACHED. -/
def State.isAttached (s : State) (m : Master) : Bool := s.sessions[m].standing.isAttached

/-- The timer a mode starts with a fresh period (R25, R36): WINDOW in CLOSED, TIMEOUT and AUTO running, OFF none. -/
def freshTimer (mode : Mode) (now : TimeCount) : SupervisionTimer :=
  match mode with
  | .window => .closed now
  | .timeout => .running now
  | .auto => .running now
  | .off => .stopped

/-- The timer of a master that holds no zone when its session starts or resumes (R36, R40): AUTO stays stopped. -/
def idleTimer (mode : Mode) (now : TimeCount) : SupervisionTimer :=
  match mode with
  | .auto => .stopped
  | _ => freshTimer mode now

/-- Sets the master's supervision timer. -/
def State.withTimer (s : State) (m : Master) (t : SupervisionTimer) : State :=
  s.withSession m { s.sessions[m] with timer := t }

/-! ### Zones -/

/-- The zone state of R3. -/
def Authority.kind : Authority → ZoneState
  | .dark => .dark
  | .vacant => .vacant
  | .held _ => .held
  | .transfer _ _ => .transfer
  | .settling _ => .settling
  | .faulted => .faulted

/-- The holder: present in HELD and TRANSFER (R5). -/
def Authority.holder : Authority → Option Master
  | .held h => some h
  | .transfer h _ => some h
  | _ => none

/-- The pending request: present in TRANSFER (R47). -/
def Authority.request : Authority → Option Pending
  | .transfer _ r => some r
  | _ => none

/-- The candidate: present in SETTLING (R73). -/
def Authority.candidate : Authority → Option Candidate
  | .settling c => some c
  | _ => none

/-- The master holds the zone. -/
def State.holds (s : State) (m : Master) (z : ZoneId) : Bool := decide (s.zones[z].authority.holder = some m)

/-- The held-zone count of a master (R8). -/
def State.heldCount (s : State) (m : Master) : Nat := allZones.countP (s.holds m)

/-- The master is in the zone's permitted set (R2). -/
def State.permits (s : State) (z : ZoneId) (m : Master) : Bool := s.config.zones[z].permitted.getLsbD m.val

/-- The master is eligible for the zone (R11): ATTACHED, no strike pending, permitted. -/
def State.eligible (s : State) (m : Master) (z : ZoneId) : Bool :=
  s.isAttached m && !s.sessions[m].strike && s.permits z m

/-- The zone's fallback value in the working configuration (R2). -/
def State.fallback (s : State) (z : ZoneId) : Value := s.config.zones[z].fallback

/-- The master is the pending requester of the zone (R47). -/
def State.requests (s : State) (m : Master) (z : ZoneId) : Bool :=
  match s.zones[z].authority with
  | .transfer _ r => decide (r.requester = m)
  | _ => false

/-- The master is the settling candidate of the zone (R73). -/
def State.isCandidate (s : State) (m : Master) (z : ZoneId) : Bool :=
  match s.zones[z].authority with
  | .settling c => decide (c.master = m)
  | _ => false

/-! ### Queue -/

/-- The number of the master's queue entries (R91). -/
def State.entryCount (s : State) (m : Master) : Nat := s.queue.countP (fun e => decide (e.poster = m))

/-- The entry is one the master posted for the zone. -/
def Entry.isOf (m : Master) (z : ZoneId) (e : Entry) : Bool := decide (e.poster = m ∧ e.zone = z)

/-- The insertion of R90: after every entry due no later, before every entry due later. -/
def insertEntry (e : Entry) : List Entry → List Entry
  | [] => [e]
  | h :: t => if h.due ≤ e.due then h :: insertEntry e t else e :: h :: t

/-! ### Device -/

/-- The device is in STORING (R172). -/
def DeviceState.isStoring : DeviceState → Bool
  | .storing _ _ => true
  | _ => false

end Sys2Proof.Machine
end

