-- ==== Sys2Proof/Machine/Flags.lean ====
section
/-! DEFINITION. The flags, the detail records and the ATTN lines (R152 to R155), and the zone change sets that set
ZONES_CHANGED (R9). Every flag of the manual is set by `State.signal`. -/

namespace Sys2Proof.Machine

/-- The place of a flag in R152's table, counted from 0: its bit in a flag set (R170). -/
def Flag.index : Flag → Nat
  | .zonesChanged => 0
  | .granted => 1
  | .lost => 2
  | .handoverAsked => 3
  | .handoverResult => 4
  | .actionDone => 5
  | .actionDropped => 6
  | .captureAvailable => 7
  | .captureGap => 8
  | .inhibitChange => 9
  | .zoneFault => 10
  | .supervisionWarning => 11
  | .revoked => 12
  | .wakeRequest => 13
  | .storeFailed => 14

/-- The flag set that holds this flag alone. -/
def Flag.bit (f : Flag) : FlagSet := BitVec.twoPow 15 f.index

/-- The flag is in the set. -/
def Flag.mem (f : Flag) (fs : FlagSet) : Bool := fs.getLsbD f.index

/-- An event of R152's table for one master, with the content of the detail record it writes (R153). -/
inductive Signal
  | zonesChanged
  | granted (zone : ZoneId) (cause : GrantCause)
  | lost (zone : ZoneId) (cause : LossCause)
  | handoverAsked (zone : ZoneId) (requester : Master) (status : AskedStatus)
  | handoverResult (zone : ZoneId) (outcome : HandoverOutcome)
  | actionDone (tag : Tag) (zone : ZoneId) (kind : DoneKind)
  | actionDropped (tag : Tag) (zone : ZoneId) (reason : DropReason)
  | captureAvailable
  | captureGap
  | inhibitChange
  | zoneFault
  | supervisionWarning
  | revoked (reason : RevokeReason)
  | wakeRequest
  | storeFailed
  deriving DecidableEq, Repr

/-- The flag an event sets. -/
def Signal.flag : Signal → Flag
  | .zonesChanged => .zonesChanged
  | .granted _ _ => .granted
  | .lost _ _ => .lost
  | .handoverAsked _ _ _ => .handoverAsked
  | .handoverResult _ _ => .handoverResult
  | .actionDone _ _ _ => .actionDone
  | .actionDropped _ _ _ => .actionDropped
  | .captureAvailable => .captureAvailable
  | .captureGap => .captureGap
  | .inhibitChange => .inhibitChange
  | .zoneFault => .zoneFault
  | .supervisionWarning => .supervisionWarning
  | .revoked _ => .revoked
  | .wakeRequest => .wakeRequest
  | .storeFailed => .storeFailed

/-- The detail record an event writes, overwriting what it held (R153); eight kinds have none. -/
def Signal.record (e : Signal) (a : Attention) : Attention :=
  match e with
  | .granted z c => { a with grant := some ⟨z, c⟩ }
  | .lost z c => { a with loss := some ⟨z, c⟩ }
  | .handoverAsked z r st => { a with asked := some ⟨z, r, st⟩ }
  | .handoverResult z o => { a with result := some ⟨z, o⟩ }
  | .actionDone t z k => { a with done := some ⟨t, z, k⟩ }
  | .actionDropped t z r => { a with dropped := some ⟨t, z, r⟩ }
  | .revoked r => { a with revoke := some r }
  | .zonesChanged => a
  | .captureAvailable => a
  | .captureGap => a
  | .inhibitChange => a
  | .zoneFault => a
  | .supervisionWarning => a
  | .wakeRequest => a
  | .storeFailed => a

/-- The attention state after an event: its flag set, its record written. -/
def Attention.after (a : Attention) (e : Signal) : Attention :=
  e.record { a with flags := a.flags ||| e.flag.bit }

/-- An event sets its flag and writes its record for a master; for a DETACHED master it sets nothing (R152). -/
def State.signal (s : State) (m : Master) (e : Signal) : State :=
  match s.sessions[m].standing with
  | .detached => s
  | _ => s.withAttention m (s.attention[m].after e)

/-- The level of ATTNn (R155): asserted when the master is not PARKED and an enabled flag is set, or is PARKED and
WAKE_REQUEST is set. -/
def State.attn (s : State) (m : Master) : Bool :=
  if s.sessions[m].standing.isParked then Flag.wakeRequest.mem s.attention[m].flags
  else decide (s.attention[m].flags &&& s.attention[m].enables ≠ 0)

/-- A master's flags, enables and mask kept or cleared as ATTACH does (R36): flags and records cleared. -/
def Attention.cleared (a : Attention) : Attention :=
  { Attention.afterReset with enables := a.enables, notifyMask := a.notifyMask }

/-- A change of a zone reaches one master (R9): if ATTACHED, the zone joins its change set, and ZONES_CHANGED is set
if the set was empty. -/
def State.noteFor (z : ZoneId) (s : State) (m : Master) : State :=
  if s.isAttached m then
    (if s.changeSets[m] = 0 then s.signal m .zonesChanged else s).withChangeSet m
      (s.changeSets[m] ||| BitVec.twoPow 8 z.val)
  else s

/-- A change of a zone's state or holder is added to the change set of every ATTACHED master (R9). -/
def State.noteChange (s : State) (z : ZoneId) : State := allMasters.foldl (State.noteFor z) s

end Sys2Proof.Machine
end

