-- ==== Sys2Proof/Machine/Operands.lean ====
section
/-! DEFINITION. How operands and payloads are encoded (R170, R171): bytes to items and items to bytes, most
significant byte first, with the code tables of R170. -/

namespace Sys2Proof

/-- The sparse mode codes (R170). -/
def Mode.code : Mode → Byte
  | .window => 0xA5
  | .timeout => 0x5A
  | .auto => 0xC3
  | .off => 0x3C

/-- The sparse period codes (R170). -/
def Period.code : Period → Byte
  | .ms2 => 0x11
  | .ms5 => 0x22
  | .ms10 => 0x44
  | .ms20 => 0x88
  | .ms50 => 0x33
  | .ms100 => 0x66
  | .ms200 => 0xCC
  | .ms500 => 0x99

/-- The handover policy codes (R170). -/
def HandoverPolicy.code : HandoverPolicy → Byte
  | .yieldOnly => 0
  | .preempt => 1

/-- The edge mode codes (R170). -/
def EdgeMode.code : EdgeMode → Byte
  | .rising => 0
  | .falling => 1
  | .both => 2

/-- The level codes (R170). -/
def Level.code : Level → Byte
  | .low => 0
  | .high => 1

end Sys2Proof

namespace Sys2Proof.Machine

/-! ### Numbers -/

/-- A number as `n` bytes, most significant first (R170). -/
def bytesOf (n w : Nat) : List Byte :=
  (List.range n).reverse.map (fun k => BitVec.ofNat 8 (w >>> (8 * k)))

/-- The number that bytes spell, most significant first (R170). -/
def numberOf (b : List Byte) : Nat := b.foldl (fun acc x => acc * 256 + x.toNat) 0

/-- One byte holding a small number. -/
def byteOf (w : Nat) : Byte := BitVec.ofNat 8 w

/-- Yes or no (R170). -/
def yesNo (b : Bool) : Byte := if b then 1 else 0

/-! ### Operands to items: none where the byte lies outside the item's range (R170) -/

def zoneOf (b : Byte) : Option ZoneId := if h : b.toNat < 8 then some ⟨b.toNat, h⟩ else none

def inputOf (b : Byte) : Option InputId := if h : b.toNat < 8 then some ⟨b.toNat, h⟩ else none

def masterOf (b : Byte) : Option Master := if h : b.toNat < 4 then some ⟨b.toNat, h⟩ else none

def stepIndexOf (b : Byte) : Option StepIndex := if h : b.toNat < 16 then some ⟨b.toNat, h⟩ else none

def valueOf (b : Byte) : Option Value := if b.toNat < 16 then some (b.setWidth 4) else none

/-- The value of a "value and notify" byte: bits 6 to 0 (R170). -/
def valueOfNotifyByte (b : Byte) : Option Value := valueOf (b &&& 0x7F)

/-- The notify mark of a "value and notify" byte: bit 7 (R170). -/
def notifyOf (b : Byte) : Bool := b.getLsbD 7

/-- A step link: an index, or FF hex for END (R170). The outer none is a link out of range. -/
def linkOf (b : Byte) : Option (Option StepIndex) :=
  if b = 0xFF then some none else (stepIndexOf b).map some

/-- The sparse mode codes (R170). -/
def modeOf (b : Byte) : Option Mode :=
  if b = 0xA5 then some .window
  else if b = 0x5A then some .timeout
  else if b = 0xC3 then some .auto
  else if b = 0x3C then some .off
  else none

/-- The sparse period codes (R170). -/
def periodOf (b : Byte) : Option Period :=
  if b = 0x11 then some .ms2
  else if b = 0x22 then some .ms5
  else if b = 0x44 then some .ms10
  else if b = 0x88 then some .ms20
  else if b = 0x33 then some .ms50
  else if b = 0x66 then some .ms100
  else if b = 0xCC then some .ms200
  else if b = 0x99 then some .ms500
  else none

def policyOf (b : Byte) : Option HandoverPolicy :=
  if b = 0 then some .yieldOnly else if b = 1 then some .preempt else none

def edgeOf (b : Byte) : Option EdgeMode :=
  if b = 0 then some .rising else if b = 1 then some .falling else if b = 2 then some .both else none

def levelOf (b : Byte) : Option Level := if b = 0 then some .low else if b = 1 then some .high else none

def boolOf (b : Byte) : Option Bool := if b = 0 then some false else if b = 1 then some true else none

/-- A flag set of two bytes; bit 15 set names something other than the fifteen flags (R157, R170). -/
def flagSetOf (hi lo : Byte) : Option FlagSet :=
  if hi.getLsbD 7 then none else some ((hi ++ lo).setWidth 15)

/-! ### Items to bytes -/

def ZoneState.code : ZoneState → Byte
  | .dark => 0
  | .vacant => 1
  | .held => 2
  | .transfer => 3
  | .settling => 4
  | .faulted => 5

def Standing.code : Standing → Byte
  | .detached => 0
  | .attached _ => 1
  | .parked _ => 2
  | .revoked => 3

def SupervisionTimer.code : SupervisionTimer → Byte
  | .stopped => 0
  | .running _ => 1
  | .closed _ => 2
  | .opened _ => 3

def RevokeReason.code : RevokeReason → Byte
  | .expiry => 0
  | .earlyRenewal => 1
  | .secondExpiry => 2
  | .reconfigure => 3

def DeviceState.code : DeviceState → Byte
  | .starting => 0
  | .commissioning => 1
  | .operational => 2
  | .storing _ _ => 3
  | .halted => 4

def ResetCause.code : ResetCause → Byte
  | .powerOn => 0
  | .resetPin => 1
  | .commitRestart => 2

def StoreClass.code : StoreClass → Byte
  | .blank => 0
  | .valid => 1
  | .corrupt => 2

def StartupStore.code : StartupStore → Byte
  | .blank => 0
  | .valid => 1
  | .corrupt => 2
  | .strapped => 3

def ConfigSource.code : ConfigSource → Byte
  | .store => 0
  | .defaults => 1

def Monitor.code : Monitor → Byte
  | .idle => 0
  | .off => 1
  | .matching => 2
  | .checking _ _ => 3
  | .fault _ => 4

def InputLive.code : InputLive → Byte
  | .disabled => 0
  | .establishing _ => 1
  | .tracking _ _ => 2

def GrantCause.code : GrantCause → Byte
  | .handover => 0
  | .preempt => 1
  | .succession => 2

def LossCause.code : LossCause → Byte
  | .preempted => 0
  | .revoked => 1
  | .fault => 2

def AskedStatus.code : AskedStatus → Byte
  | .pending => 0
  | .withdrawn => 1
  | .expired => 2

def HandoverOutcome.code : HandoverOutcome → Byte
  | .granted => 0
  | .denied => 1
  | .preemptGranted => 2
  | .timedOut => 3
  | .succession => 4
  | .dropped => 5

def DoneKind.code : DoneKind → Byte
  | .applied => 0
  | .step => 1
  | .sequenceEnd => 2

def DropReason.code : DropReason → Byte
  | .lostZone => 0
  | .inhibited => 1
  | .timeEnd => 2

/-- The status codes (R169). -/
def Status.code : Status → Byte
  | .ok => 0x00
  | .frameError => 0x01
  | .unknownCommand => 0x02
  | .wrongState => 0x03
  | .busy => 0x04
  | .notAttached => 0x05
  | .notPermitted => 0x06
  | .strikePending => 0x07
  | .notHolder => 0x08
  | .heldByOther => 0x09
  | .notHeld => 0x0A
  | .zoneBusy => 0x0B
  | .zoneFaulted => 0x0C
  | .noFault => 0x0D
  | .inhibited => 0x0E
  | .noRequest => 0x0F
  | .past => 0x10
  | .queueFull => 0x11
  | .quota => 0x12
  | .range => 0x13
  | .codeError => 0x14
  | .protection => 0x15
  | .policy => 0x16
  | .notFound => 0x17
  | .pendingFlags => 0x18

/-- An absent optional item: every byte FF hex (R170). -/
def absent (n : Nat) : List Byte := List.replicate n 0xFF

def encodeZone (z : ZoneId) : Byte := byteOf z.val

def encodeMaster (m : Master) : Byte := byteOf m.val

def encodeStepIndex (i : StepIndex) : Byte := byteOf i.val

/-- A master, or FF hex for none (R170). -/
def encodeMaster? : Option Master → Byte
  | some m => encodeMaster m
  | none => 0xFF

def encodeValue (v : Value) : Byte := v.setWidth 8

def encodeValueNotify (v : Value) (notify : Bool) : Byte := (if notify then 0x80 else 0) ||| encodeValue v

def encodeLines (l : LineSet) : Byte := l.setWidth 8

def encodeLink : Option StepIndex → Byte
  | some i => encodeStepIndex i
  | none => 0xFF

def encodeEpoch (e : Epoch) : List Byte := bytesOf 2 e.toNat

def encodeTag (t : Tag) : List Byte := bytesOf 2 t.toNat

def encodeDelay (d : BitVec 24) : List Byte := bytesOf 3 d.toNat

def encodeSerial (n : Serial) : List Byte := bytesOf 4 n.toNat

def encodeTime (t : TimeCount) : List Byte := bytesOf 6 t.toNat

/-- A flag set: two bytes, bit 15 clear (R170). -/
def encodeFlags (f : FlagSet) : List Byte := bytesOf 2 f.toNat

/-- The driven state: the value, or 10 hex for undriven (R170). -/
def encodeDriven : Option Value → Byte
  | some v => encodeValue v
  | none => 0x10

/-! ### The configuration sections (R170, R177, R178) -/

/-- The items of a zone's configuration in the order of WRITE ZONE CONFIG's operands after the zone: 10 bytes. -/
def encodeZoneConfig (c : ZoneConfig) : List Byte :=
  [c.permitted.setWidth 8, byteOf c.succession.length] ++
    ((c.succession.map encodeMaster) ++ absent 3).take 3 ++
    [encodeValue c.fallback, c.policy.code, c.handoverTimeout, c.settleTime, c.checkTime]

/-- The succession list of a count and three entries: counted entries name masters, uncounted ones are FF hex. -/
def successionOf (count : Byte) (e0 e1 e2 : Byte) : Option (List Master) :=
  if count.toNat ≤ 3 ∧ ([e0, e1, e2].drop count.toNat).all (fun b => b = 0xFF) then
    ([e0, e1, e2].take count.toNat).mapM masterOf
  else none

/-- The zone configuration that ten bytes spell, none where the contents are out of range (R177, check 4). -/
def zoneConfigOf : List Byte → Option ZoneConfig
  | [perm, count, e0, e1, e2, fb, pol, hto, settle, check] =>
    match successionOf count e0 e1 e2, valueOf fb, policyOf pol with
    | some list, some fallback, some policy =>
      let c : ZoneConfig :=
        { permitted := perm.setWidth 4, succession := list, fallback := fallback, policy := policy,
          handoverTimeout := hto, settleTime := settle, checkTime := check }
      if perm.toNat < 16 ∧ c.InRange then some c else none
    | _, _, _ => none
  | _ => none

/-- The items of an input's configuration in the order of WRITE INPUT CONFIG's operands after the input: 5 bytes. -/
def encodeInputConfig (c : InputConfig) : List Byte :=
  [yesNo c.enabled, c.edge.code, c.filterTime, c.interlock, c.forcing.code]

/-- The input configuration that five bytes spell, none where a field is outside its listed values (R178). -/
def inputConfigOf : List Byte → Option InputConfig
  | [enabled, edge, filter, zones, forcing] =>
    match boolOf enabled, edgeOf edge, levelOf forcing with
    | some en, some ed, some f =>
      some { enabled := en, edge := ed, filterTime := filter, interlock := zones, forcing := f }
    | _, _, _ => none
  | _ => none

/-! ### Step records (R170, R171) -/

/-- The step record that five operand bytes spell: value and notify, link, delay (R108, checks 4 to 6). -/
def stepOf (vn link d2 d1 d0 : Byte) : Option Step :=
  match valueOfNotifyByte vn, linkOf link with
  | some v, some l =>
    let delay : BitVec 24 := d2 ++ d1 ++ d0
    if l.isSome ∧ delay = 0 then none else some { value := v, link := l, delay := delay, notify := notifyOf vn }
  | _, _ => none

/-- The step records that operand bytes spell, five bytes each, none where one is out of range. -/
def stepsOf : List Byte → Option (List Step)
  | [] => some []
  | vn :: link :: d2 :: d1 :: d0 :: rest =>
    match stepOf vn link d2 d1 d0, stepsOf rest with
    | some r, some rs => some (r :: rs)
    | _, _ => none
  | _ => none

/-- A step record as five bytes: value and notify, link, delay. -/
def encodeStep (r : Step) : List Byte :=
  [encodeValueNotify r.value r.notify, encodeLink r.link] ++ encodeDelay r.delay

/-! ### Views -/

/-- The time left until a timer's expiry, 1 to the full period (R46). -/
def SupervisionTimer.left (s : State) (p : Period) : SupervisionTimer → Nat
  | .stopped => 0
  | .running t => roundedUp p.micros (s.elapsed t) 1
  | .closed t => roundedUp p.micros (s.elapsed t) 1
  | .opened t => roundedUp p.micros (s.elapsed t) 1

/-- A revoke reason, FF hex for none (R170). -/
def encodeReason : Option RevokeReason → Byte
  | some r => r.code
  | none => 0xFF

/-- The session view (R46): state, mode, period, timer, time to expiry, strike, revoke reason; 9 bytes. -/
def State.sessionView (s : State) (m : Master) : List Byte :=
  let r := s.sessions[m]
  [r.standing.code, r.mode.code, r.period.code, r.timer.code] ++ bytesOf 3 (r.timer.left s r.period) ++
    [yesNo r.strike, encodeReason r.revokeReason]

/-- The readback state (R123): monitor, sensed value, mismatched lines, check time remaining, fault record; 6 bytes. -/
def State.readbackView (s : State) (z : ZoneId) : List Byte :=
  let r := s.zones[z]
  [r.monitor.code, encodeValue r.sensed] ++
    match r.monitor with
    | .checking t l =>
      [encodeLines l, byteOf (roundedUp (s.config.zones[z].checkTime.toNat * microsPerMs) (s.elapsed t) microsPerMs)] ++
        absent 2
    | .fault f => [0] ++ absent 1 ++ [encodeValue f.driven, encodeLines f.lines]
    | _ => [0] ++ absent 3

/-- The handover time remaining in units of 10 ms, 0 when no request is pending (R21). -/
def State.handoverLeft (s : State) (z : ZoneId) : Nat :=
  match s.zones[z].authority.request with
  | some r => roundedUp (r.timeout.toNat * microsPer10ms) (s.elapsed r.since) microsPer10ms
  | none => 0

/-- The settle time remaining in units of 10 ms, 0 when there is no candidate (R21). -/
def State.settleLeft (s : State) (z : ZoneId) : Nat :=
  match s.zones[z].authority.candidate with
  | some c => roundedUp (c.settle.toNat * microsPer10ms) (s.elapsed c.since) microsPer10ms
  | none => 0

/-- A candidate's origin: the list position, or 03 hex for REQUESTER (R170); FF hex when there is no candidate. -/
def encodeOrigin : Option Candidate → Byte
  | some c =>
    match c.origin with
    | .list p => byteOf p
    | .requester => 0x03
  | none => 0xFF

/-- The record of one zone as READ ZONE returns it (R21, R171): 18 bytes. -/
def State.zoneView (s : State) (z : ZoneId) : List Byte :=
  let r := s.zones[z]
  let a := r.authority
  [a.kind.code, encodeMaster? a.holder] ++ encodeEpoch r.epoch ++
    [encodeValue r.commanded, encodeDriven r.driven, r.inhibit, encodeMaster? (a.request.map (·.requester)),
      byteOf (s.handoverLeft z), encodeMaster? (a.candidate.map (·.master)), encodeOrigin a.candidate,
      byteOf (s.settleLeft z)] ++ s.readbackView z

/-- One zone's state, holder and epoch, as READ ZONE CHANGES gives them for all eight zones (R22). -/
def State.zoneSummary (s : State) (z : ZoneId) : List Byte :=
  [s.zones[z].authority.kind.code, encodeMaster? s.zones[z].authority.holder] ++ encodeEpoch s.zones[z].epoch

/-- The view of a queue entry at a position among its poster's entries (R171): 13 bytes. -/
def encodeEntry (position : Nat) (e : Entry) : List Byte :=
  [byteOf position, encodeZone e.zone] ++ encodeTime e.due ++
    match e.kind with
    | .single v n => [0, encodeValue v] ++ encodeTag e.tag ++ [yesNo n]
    | .sequence k => [1, encodeStepIndex k] ++ encodeTag e.tag ++ absent 1

/-- A capture record (R171): 12 bytes. -/
def encodeCapture (r : CaptureRecord) : List Byte :=
  encodeSerial r.serial ++ [byteOf r.input.val, r.level.code] ++ encodeTime r.time

/-- The seven detail records in the order of R153's table (R171), a clear one as FF hex. -/
def encodeRecords (a : Attention) : List Byte :=
  (match a.grant with
    | some r => [encodeZone r.zone, r.cause.code]
    | none => absent 2) ++
  (match a.loss with
    | some r => [encodeZone r.zone, r.cause.code]
    | none => absent 2) ++
  (match a.asked with
    | some r => [encodeZone r.zone, encodeMaster r.requester, r.status.code]
    | none => absent 3) ++
  (match a.result with
    | some r => [encodeZone r.zone, r.outcome.code]
    | none => absent 2) ++
  (match a.done with
    | some r => encodeTag r.tag ++ [encodeZone r.zone, r.kind.code]
    | none => absent 4) ++
  (match a.dropped with
    | some r => encodeTag r.tag ++ [encodeZone r.zone, r.reason.code]
    | none => absent 4) ++
  [encodeReason a.revoke]

end Sys2Proof.Machine
end

