-- ==== Sys2Proof/Machine/Frames.lean ====
section
/-! DEFINITION. Request and response frames with their check byte (R162, R164), the command identifiers and operand
lengths (R170), the gating of a request (R166), the round-robin service of the authority table controller (R167), and
`serve`, the taking of a request by the block that owns it (R161). -/

namespace Sys2Proof.Machine

/-! ### The check byte (R162) -/

/-- `n` bits of the CRC-8 with polynomial 07 hex, most significant bit first. -/
def crc8Bits : Nat → Byte → Byte
  | 0, r => r
  | n + 1, r => crc8Bits n (if r.msb then (r <<< 1) ^^^ 0x07 else r <<< 1)

/-- The CRC-8 over bytes: the register starts at FF hex, no final inversion (R162). -/
def crc8 (b : List Byte) : Byte := b.foldl (fun r x => crc8Bits 8 (r ^^^ x)) 0xFF

/-! ### Commands (R170) -/

/-- The command identifiers (R170). -/
def Command.id : Command → Byte
  | .nop => 0x00
  | .status => 0x01
  | .attach => 0x10
  | .detach => 0x11
  | .park => 0x12
  | .unpark => 0x13
  | .renew => 0x14
  | .supervise => 0x15
  | .claim => 0x20
  | .release => 0x21
  | .setOutput => 0x22
  | .readZone => 0x23
  | .readZoneChanges => 0x24
  | .clearFault => 0x25
  | .requestHandover => 0x28
  | .withdraw => 0x29
  | .yield => 0x2A
  | .refuse => 0x2B
  | .readTime => 0x30
  | .postAction => 0x31
  | .postSequence => 0x32
  | .cancelTag => 0x33
  | .cancelZone => 0x34
  | .readQueue => 0x35
  | .writeSteps => 0x38
  | .readSteps => 0x39
  | .readInputs => 0x40
  | .readCaptures => 0x41
  | .readFlags => 0x48
  | .acknowledge => 0x49
  | .setEnables => 0x4A
  | .readConfig => 0x50
  | .writeZoneConfig => 0x51
  | .writeInputConfig => 0x52
  | .writeMasterPolicy => 0x53
  | .commit => 0x54

/-- Every command of R170's table. -/
def allCommands : List Command :=
  [.nop, .status, .attach, .detach, .park, .unpark, .renew, .supervise, .claim, .release, .setOutput, .readZone,
    .readZoneChanges, .clearFault, .requestHandover, .withdraw, .yield, .refuse, .readTime, .postAction,
    .postSequence, .cancelTag, .cancelZone, .readQueue, .writeSteps, .readSteps, .readInputs, .readCaptures,
    .readFlags, .acknowledge, .setEnables, .readConfig, .writeZoneConfig, .writeInputConfig, .writeMasterPolicy,
    .commit]

/-- The command an identifier names, if any (R163, check 5). -/
def commandOfId (b : Byte) : Option Command := allCommands.find? (fun c => decide (c.id = b))

/-- The operand lengths a command's layout allows (R166, step 3; R170). -/
def Command.lengthOk (n : Nat) : Command → Bool
  | .nop | .status | .detach | .park | .unpark | .renew => decide (n = 0)
  | .readZoneChanges | .readTime | .readInputs | .readFlags | .commit => decide (n = 0)
  | .attach | .supervise | .setOutput | .yield | .refuse => decide (n = 2)
  | .claim | .release | .readZone | .clearFault | .requestHandover | .withdraw => decide (n = 1)
  | .cancelZone | .readQueue | .readCaptures | .readConfig => decide (n = 1)
  | .postAction | .postSequence => decide (n = 10)
  | .cancelTag | .readSteps | .acknowledge | .writeMasterPolicy => decide (n = 2)
  | .writeSteps => decide (n = 6 ∨ n = 11 ∨ n = 16 ∨ n = 21)
  | .setEnables => decide (n = 3)
  | .writeZoneConfig => decide (n = 11)
  | .writeInputConfig => decide (n = 6)

/-- The commands served in a device state before their own checks (R166, step 1). -/
def Command.servedIn (d : DeviceState) (c : Command) : Bool :=
  match d with
  | .starting => decide (c = .status ∨ c = .nop)
  | .halted => decide (c = .status ∨ c = .readConfig ∨ c = .nop)
  | _ => true

/-- The commands that pass in a session state (R166, step 2). -/
def Command.allowedIn (st : Standing) (c : Command) : Bool :=
  match st with
  | .attached _ => true
  | .parked _ =>
    match c with
    | .status | .readFlags | .acknowledge | .setEnables | .unpark | .detach | .nop | .attach | .park => true
    | _ => false
  | .revoked =>
    match c with
    | .status | .readFlags | .acknowledge | .setEnables | .attach | .detach | .nop => true
    | _ => false
  | .detached =>
    match c with
    | .status | .readConfig | .attach | .detach | .nop => true
    | _ => false

/-- The commands the authority table controller serves, one at a time (R167). -/
def Command.atTable : Command → Bool
  | .claim | .release | .setOutput | .readZone | .readZoneChanges => true
  | .clearFault | .requestHandover | .withdraw | .yield | .refuse => true
  | _ => false

/-! ### Frames -/

/-- A request frame: length, identifier, operands, check byte (R162). -/
def encodeRequest (c : Command) (operands : List Byte) : List Byte :=
  let body := byteOf operands.length :: c.id :: operands
  body ++ [crc8 body]

/-- What the port makes of the bytes received (R163). -/
inductive FrameCheck
  | frameError
  | unknownCommand (id : Byte)
  | request (command : Command) (operands : List Byte)
  deriving DecidableEq, Repr

/-- The checks at the release of chip select, in R163's order. -/
def checkFrame (received : List Byte) (strayBits : Nat) : FrameCheck :=
  if strayBits ≠ 0 then .frameError
  else
    match received with
    | len :: id :: rest =>
      if rest = [] then .frameError
      else if 24 < len.toNat ∨ received.length < len.toNat + 3 then .frameError
      else
        let operands := rest.take len.toNat
        if (rest.drop len.toNat).head? ≠ some (crc8 (len :: id :: operands)) then .frameError
        else
          match commandOfId id with
          | some c => .request c operands
          | none => .unknownCommand id
    | _ => .frameError

/-- A response frame: status, identifier, payload length, payload, check byte (R164). -/
def encodeResponse (r : Response) : List Byte :=
  let body := r.status.code :: r.command :: byteOf r.payload.length :: r.payload
  body ++ [crc8 body]

/-! ### Gating (R166) -/

/-- The first gate a request fails, if any: device state, session state, operand length. -/
def State.gate (s : State) (m : Master) (c : Command) (operands : List Byte) : Option Status :=
  if !c.servedIn s.device then some .wrongState
  else if !c.allowedIn s.sessions[m].standing then some .notAttached
  else if !c.lengthOk operands.length then some .range
  else none

/-! ### Answers -/

/-- What the block that owns a request makes of it: the state after, and the response's status and payload. -/
structure Answer where
  state : State
  status : Status
  payload : List Byte
  deriving DecidableEq, Repr

/-- A refusal: the status code, no payload, nothing changed (R13, R164). -/
def State.refuse (s : State) (st : Status) : Answer := ⟨s, st, []⟩

/-- A request that is taken: OK with its payload (R164). -/
def State.reply (s : State) (payload : List Byte) : Answer := ⟨s, .ok, payload⟩

/-- The zone named by a zone operand, or RANGE (R13). -/
def State.onZone (s : State) (b : Byte) (k : ZoneId → Answer) : Answer :=
  match zoneOf b with
  | some z => k z
  | none => s.refuse .range

/-! ### Service (R161, R167) -/

/-- The request that waits at a port. -/
def Port.request (p : Port) : Option Request :=
  match p.phase with
  | .waiting r => some r
  | _ => none

/-- A request for the authority table controller waits at the port. -/
def State.waitsAtTable (s : State) (p : Master) : Bool :=
  match s.ports[p].request with
  | some r => r.command.atTable
  | none => false

/-- The first port after `last`, counting upward and round, at which a request for the authority table waits. -/
def State.nextInTurn (s : State) (last : Master) : Option Master :=
  [last + 1, last + 2, last + 3, last].find? s.waitsAtTable

/-- The request `c` with these operands waits at port `m`, and it is its turn to be served (R161, R167). -/
def State.ready (s : State) (m : Master) (c : Command) (operands : List Byte) : Bool :=
  match s.ports[m].request with
  | some r =>
    decide (r.command = c ∧ r.operands = operands) && (!c.atTable || decide (s.chosen = some m))
  | none => false

/-- The block loads the buffer with the response and the port returns to IDLE (R163). -/
def State.respond (s : State) (m : Master) (r : Response) : State :=
  s.withPort m { s.ports[m] with phase := .idle, buffer := r }

/-- The authority table controller has served port `m` and takes the next in turn (R167). -/
def State.passTurn (s : State) (m : Master) : State := s.withService m (s.nextInTurn m)

/-- The end of a service: the response loaded, the port IDLE, the turn passed on. -/
def State.finish (c : Command) (m : Master) (a : Answer) : State :=
  let t := a.state.respond m ⟨a.status, c.id, a.payload⟩
  if c.atTable then t.passTurn m else t

/-- The taking of a request (R161): gating, the command's own checks and its effects at one moment. Where no such
request waits, or it is another port's turn, there is no such event and nothing changes (DESIGN CHOICE, log 1). That a
request for the authority table which the gating refuses waits its turn and counts as served there is the model's choice
(log 30). -/
def serve (c : Command) (m : Master) (operands : List Byte) (body : State → Answer) (s : State) : Result :=
  if s.ready m c operands then
    .next (State.finish c m
      (match s.gate m c operands with
      | some st => s.refuse st
      | none => body s))
  else .next s

end Sys2Proof.Machine
end

