-- ==== Sys2Proof/Machine/Attention.lean ====
section
/-! DEFINITION. The requests of the attention unit (R156 to R160): READ FLAGS, ACKNOWLEDGE and SET ENABLES. -/

namespace Sys2Proof.Machine

/-- READ FLAGS (R156, R171): flags, enables, notify mask, the seven records, the ATTN level; 24 bytes. -/
def readFlagsAnswer (m : Master) (_ : List Byte) (s : State) : Answer :=
  let a := s.attention[m]
  s.reply (encodeFlags a.flags ++ encodeFlags a.enables ++ [a.notifyMask] ++ encodeRecords a ++ [yesNo (s.attn m)])

/-- READ FLAGS (R156). -/
def execReadFlags (m : Master) (operands : List Byte) (s : State) : Result :=
  serve .readFlags m operands (readFlagsAnswer m operands) s

/-- ACKNOWLEDGE when taken (R157): the flags named are cleared, and with SUPERVISION_WARNING a pending strike (R31). -/
def State.acknowledge (s : State) (m : Master) (named : FlagSet) : State :=
  let t := s.withAttention m { s.attention[m] with flags := s.attention[m].flags &&& ~~~ named }
  if Flag.supervisionWarning.mem named then t.withSession m { t.sessions[m] with strike := false } else t

def acknowledgeAnswer (m : Master) (operands : List Byte) (s : State) : Answer :=
  match operands with
  | [hi, lo] =>
    match flagSetOf hi lo with
    | none => s.refuse .range
    | some named => (s.acknowledge m named).reply (encodeFlags (s.acknowledge m named).attention[m].flags)
  | _ => s.refuse .range

/-- ACKNOWLEDGE (R157). -/
def execAcknowledge (m : Master) (operands : List Byte) (s : State) : Result :=
  serve .acknowledge m operands (acknowledgeAnswer m operands) s

/-- SET ENABLES when taken (R159). -/
def State.setEnables (s : State) (m : Master) (enables : FlagSet) (mask : InputSet) : State :=
  s.withAttention m { s.attention[m] with enables := enables, notifyMask := mask }

def setEnablesAnswer (m : Master) (operands : List Byte) (s : State) : Answer :=
  match operands with
  | [hi, lo, mask] =>
    match flagSetOf hi lo with
    | none => s.refuse .range
    | some enables =>
      (s.setEnables m enables mask).reply
        (encodeFlags enables ++ [mask, yesNo ((s.setEnables m enables mask).attn m)])
  | _ => s.refuse .range

/-- SET ENABLES (R159). -/
def execSetEnables (m : Master) (operands : List Byte) (s : State) : Result :=
  serve .setEnables m operands (setEnablesAnswer m operands) s

end Sys2Proof.Machine
end

