-- ==== Sys2Proof/Machine/Table.lean ====
section
/-! DEFINITION. The shared operations of the authority table controller and the output stage: driving a zone's lines
(R120, R125), changing a zone's authority with epoch, change sets and AUTO timers (R7, R8, R9, R28), its commanded
value (R6) and its inhibit set (R149, R150), and removing queue entries when a master stops holding it (R100). -/

namespace Sys2Proof.Machine

/-! ### Driving and readback -/

/-- The law of driving (R120). -/
def drivenBy (a : Authority) (commanded fallback : Value) (inhibit : InputSet) : Option Value :=
  match a.kind with
  | .dark | .faulted => none
  | .vacant | .settling => some fallback
  | .held | .transfer => if inhibit = 0 then some commanded else some fallback

/-- The monitor when driving starts, and when a new check time is set (R125, R126): OFF for a check time of 0, else
MATCH with the first comparison deciding at once. -/
def freshMonitor (checkTime : Byte) (now : TimeCount) (driven sensed : Value) : Monitor :=
  if checkTime = 0 then .off
  else if sensed = driven then .matching
  else .checking now (sensed ^^^ driven)

/-- The comparison of one sensing (R124). -/
def Monitor.compare (now : TimeCount) (driven sensed : Value) : Monitor → Monitor
  | .matching => if sensed = driven then .matching else .checking now (sensed ^^^ driven)
  | .checking t _ => if sensed = driven then .matching else .checking t (sensed ^^^ driven)
  | m => m

/-- The monitor's response to a change of the driven value (R125): a running timer restarts or stops, a stopped one
waits for the next comparison. -/
def Monitor.driveChanged (now : TimeCount) (driven sensed : Value) : Monitor → Monitor
  | .checking _ _ => if sensed = driven then .matching else .checking now (sensed ^^^ driven)
  | m => m

/-- The mismatched lines: empty unless CHECKING (R123). -/
def Monitor.lines : Monitor → LineSet
  | .checking _ l => l
  | _ => 0

/-- The output stage takes up what the law of driving gives for the record, and the monitor responds (R120, R122,
R125). From driven to undriven is entry into FAULTED, whose fault record holds the driven value and the mismatched
lines of that moment (R127). -/
def Zone.drive (fallback : Value) (checkTime : Byte) (now : TimeCount) (r : Zone) : Zone :=
  match r.driven, drivenBy r.authority r.commanded fallback r.inhibit with
  | none, none => r
  | none, some v => { r with driven := some v, monitor := freshMonitor checkTime now v r.sensed }
  | some v, none => { r with driven := none, monitor := .fault ⟨v, r.monitor.lines⟩ }
  | some u, some v =>
    if u = v then r else { r with driven := some v, monitor := r.monitor.driveChanged now v r.sensed }

/-- Writes a zone record and drives its lines by it. -/
def State.putZone (s : State) (z : ZoneId) (r : Zone) : State :=
  s.withZone z (r.drive s.config.zones[z].fallback s.config.zones[z].checkTime s.timeCount)

/-- One sensing of a zone's lines (R124): compared while driven with a check time of 1 ms or more. -/
def Zone.sense (checkTime : Byte) (now : TimeCount) (r : Zone) : Zone :=
  match r.driven with
  | some v => if checkTime = 0 then r else { r with monitor := r.monitor.compare now v r.sensed }
  | none => r

/-! ### AUTO timers (R8, R28) -/

/-- A change of an AUTO master's held-zone count from 0 to 1 starts its timer, from 1 to 0 stops it (R28). -/
def State.autoTimer (before : State) (s : State) (m : Master) : State :=
  if s.sessions[m].mode = .auto then
    if before.heldCount m = 0 ∧ s.heldCount m ≠ 0 then s.withTimer m (.running s.timeCount)
    else if before.heldCount m ≠ 0 ∧ s.heldCount m = 0 then s.withTimer m .stopped
    else s
  else s

/-! ### Authority -/

/-- The zone record after a change of authority (R1, R7): the epoch steps by one exactly when the holder changes. -/
def Zone.reassign (a : Authority) (commanded : Value) (r : Zone) : Zone :=
  { r with
    authority := a, commanded := commanded,
    epoch := if r.authority.holder = a.holder then r.epoch else r.epoch + 1 }

/-- The zone's state or its holder differs (R9). -/
def Authority.moves (a b : Authority) : Bool := decide (a.kind ≠ b.kind ∨ a.holder ≠ b.holder)

/-- Changes a zone's authority and commanded value as one event: the record and its lines, every ATTACHED master's
change set where state or holder changed, and the AUTO timers of the masters whose count changed. Every change of a
zone's state, holder, request or candidate is made by this operation. -/
def State.setAuthority (s : State) (z : ZoneId) (a : Authority) (commanded : Value) : State :=
  let t := s.putZone z (s.zones[z].reassign a commanded)
  let u := if s.zones[z].authority.moves a then t.noteChange z else t
  allMasters.foldl (State.autoTimer s) u

/-- Sets the commanded value of a zone, and its lines by the law of driving (R6, R20). -/
def State.setCommanded (s : State) (z : ZoneId) (v : Value) : State :=
  s.putZone z { s.zones[z] with commanded := v }

/-! ### Inhibit sets (R148 to R150) -/

/-- INHIBIT_CHANGE for the holder of a zone, if it has one (R149, R150). -/
def State.tellHolderInhibit (s : State) (z : ZoneId) : State :=
  match s.zones[z].authority.holder with
  | some h => s.signal h .inhibitChange
  | none => s

/-- The inhibit set of a zone becomes `new`. From empty to non-empty the inhibit starts: the commanded value becomes
the fallback value and the holder is told (R149). From non-empty to empty it ends: the holder is told and the lines
stay (R150). -/
def State.setInhibit (s : State) (z : ZoneId) (new : InputSet) : State :=
  let r := s.zones[z]
  if r.inhibit = 0 ∧ new ≠ 0 then
    (s.putZone z { r with inhibit := new, commanded := s.fallback z }).tellHolderInhibit z
  else if r.inhibit ≠ 0 ∧ new = 0 then (s.putZone z { r with inhibit := new }).tellHolderInhibit z
  else s.putZone z { r with inhibit := new }

/-! ### Queue entries of a master that stops holding a zone (R100, R101) -/

/-- Takes the entries that satisfy `p` out of the queue, silently, and leaves the others in their order (R90). -/
def State.removeEntries (s : State) (p : Entry → Bool) : State :=
  s.withQueue (s.queue.filter (fun e => !p e))

/-- The poster of a removed entry is told: ACTION_DROPPED with reason LOST_ZONE (R101). -/
def State.tellLostEntry (s : State) (e : Entry) : State :=
  s.signal e.poster (.actionDropped e.tag e.zone .lostZone)

/-- Takes the entries that satisfy `p` out of the queue in queue order, each reported with LOST_ZONE (R101). -/
def State.dropEntries (s : State) (p : Entry → Bool) : State :=
  (s.queue.filter p).foldl State.tellLostEntry (s.removeEntries p)

/-- How many of a master's entries are for the zone. -/
def State.entriesFor (s : State) (m : Master) (z : ZoneId) : Nat := s.queue.countP (Entry.isOf m z)

end Sys2Proof.Machine
end

