-- ==== Sys2Proof/Machine/Captures.lean ====
section
/-! DEFINITION. The capture ring and its cursors: freeing, overflow, appending (R139 to R144), and READ CAPTURES
(R145). -/

namespace Sys2Proof.Machine

/-- The distance of a serial from the oldest held serial, counted upward modulo 2^32 (R141). -/
def serialDistance (oldest x : Serial) : Nat := (x - oldest).toNat

/-- The master's cursor, while it is ATTACHED (R141). -/
def Standing.cursor : Standing → Option Serial
  | .attached c => some c
  | _ => none

/-- An ATTACHED master's cursor is at or before the record with this serial (R141). -/
def State.cursorNeeds (s : State) (oldest serial : Serial) (m : Master) : Bool :=
  match s.sessions[m].standing.cursor with
  | some c => decide (serialDistance oldest c ≤ serialDistance oldest serial)
  | none => false

/-- Some ATTACHED master still needs the record (R141). -/
def State.needs (s : State) (oldest serial : Serial) : Bool := allMasters.any (s.cursorNeeds oldest serial)

/-- The ring frees, from the oldest end, every record that no ATTACHED master's cursor is at or before (R141). -/
def State.freeRing (s : State) : State :=
  match s.ring with
  | [] => s
  | r :: rest => s.withCaptures ((r :: rest).dropWhile (fun x => !s.needs r.serial x.serial)) s.nextSerial

/-- An overflow reaches one master (R143): an ATTACHED master whose cursor is at the removed record has it moved to
the next record, and CAPTURE_GAP set. -/
def State.overflowFor (removed : Serial) (s : State) (m : Master) : State :=
  if s.sessions[m].standing = .attached removed then
    (s.withSession m { s.sessions[m] with standing := .attached (removed + 1) }).signal m .captureGap
  else s

/-- Room for one more record: a full ring loses its oldest (R143). -/
def State.makeRoom (s : State) : State :=
  match s.ring with
  | [] => s
  | r :: rest =>
    if ringCapacity ≤ (r :: rest).length then
      allMasters.foldl (State.overflowFor r.serial) (s.withCaptures rest s.nextSerial)
    else s

/-- CAPTURE_AVAILABLE for one master, if ATTACHED with the input in its notify mask (R144). -/
def State.availableFor (i : InputId) (s : State) (m : Master) : State :=
  if s.isAttached m && s.attention[m].notifyMask.getLsbD i.val then s.signal m .captureAvailable else s

/-- A record is appended with the next serial and the present count value (R140, R143, R144). -/
def State.appendCapture (s : State) (i : InputId) (level : Level) : State :=
  let t := s.makeRoom
  let u := t.withCaptures (t.ring ++ [⟨t.nextSerial, i, level, t.timeCount⟩]) (t.nextSerial + 1)
  allMasters.foldl (State.availableFor i) u

/-- The records the cursor has not passed, in serial order (R141, R145). -/
def State.unread (s : State) (cursor : Serial) : List CaptureRecord :=
  match s.ring with
  | [] => []
  | r :: rest =>
    (r :: rest).dropWhile (fun x => decide (serialDistance r.serial x.serial < serialDistance r.serial cursor))

/-- The cursor after reading records: one past the last of them, unmoved if there is none (R145). -/
def cursorPast (cursor : Serial) (read : List CaptureRecord) : Serial :=
  match read.getLast? with
  | some r => r.serial + 1
  | none => cursor

/-- READ CAPTURES when taken from a master with this cursor (R145). -/
def State.readCaptures (s : State) (m : Master) (cursor : Serial) (n : Nat) : Answer :=
  let read := (s.unread cursor).take n
  let left := (s.unread cursor).drop n
  let t := s.withSession m { s.sessions[m] with standing := .attached (cursorPast cursor read) }
  t.freeRing.reply (read.flatMap encodeCapture ++ encodeSerial (cursorPast cursor read) ++ [byteOf left.length])

/-- READ CAPTURES: n from 1 to 4, else RANGE (R145). -/
def readCapturesAnswer (m : Master) (operands : List Byte) (s : State) : Answer :=
  match operands with
  | [n] =>
    if n.toNat < 1 ∨ 4 < n.toNat then s.refuse .range
    else
      match s.sessions[m].standing.cursor with
      | some c => s.readCaptures m c n.toNat
      | none => s.refuse .notAttached
  | _ => s.refuse .range

/-- READ CAPTURES (R145). -/
def execReadCaptures (m : Master) (operands : List Byte) (s : State) : Result :=
  serve .readCaptures m operands (readCapturesAnswer m operands) s

end Sys2Proof.Machine
end

