-- ==== Sys2Proof/Machine/Succession.lean ====
section
/-! DEFINITION. Loss of authority and succession: the choice of a candidate (R71, R78), loss at a session end (R68,
R69), dropped requests and candidacies (R60, R78, R79), strikes (R30), revocation (R44), the session end (R45), and the
grant at the end of settling (R76). -/

namespace Sys2Proof.Machine

/-! ### Candidates -/

/-- The first eligible master of a list, with its position (R71). -/
def State.walk (s : State) (z : ZoneId) : List Master → Nat → Option (Master × Nat)
  | [], _ => none
  | m :: rest, position => if s.eligible m z then some (m, position) else s.walk z rest (position + 1)

/-- A choice from the zone's succession list at the positions from `start` on, with a full settle time (R71, R78). -/
def State.choose (s : State) (z : ZoneId) (start : Nat) : Option Candidate :=
  match s.walk z (s.config.zones[z].succession.drop start) start with
  | some (m, position) => some ⟨m, .list position, s.timeCount, s.config.zones[z].settleTime⟩
  | none => none

/-- SETTLING with the candidate chosen, or VACANT if there is none (R68, R79). -/
def settledBy : Option Candidate → Authority
  | some c => .settling c
  | none => .vacant

/-- The position from which a walk goes on after a candidate of this origin is dropped (R78). -/
def CandidateOrigin.resume : CandidateOrigin → Nat
  | .requester => 0
  | .list p => p + 1

/-- A candidacy is dropped: the next choice is made, or the zone falls to VACANT (R78, R79). -/
def State.dropCandidacy (s : State) (z : ZoneId) (c : Candidate) : State :=
  s.setAuthority z (settledBy (s.choose z c.origin.resume)) (s.fallback z)

/-! ### Dropped requests -/

/-- The pending request of a zone ends because the requester lost eligibility (R60): back to HELD, the holder is told
WITHDRAWN, the requester DROPPED. -/
def State.dropRequest (s : State) (z : ZoneId) (holder requester : Master) : State :=
  ((s.setAuthority z (.held holder) s.zones[z].commanded).signal holder
    (.handoverAsked z requester .withdrawn)).signal requester (.handoverResult z .dropped)

/-- What a master's lost eligibility does at one zone: its request or candidacy there is dropped (R12). -/
def State.loseEligibilityAt (m : Master) (s : State) (z : ZoneId) : State :=
  match s.zones[z].authority with
  | .transfer h r => if r.requester = m then s.dropRequest z h m else s
  | .settling c => if c.master = m then s.dropCandidacy z c else s
  | _ => s

/-- A strike is recorded (R30): the mark, SUPERVISION_WARNING, then the master's requests and candidacies (R12, R60), in the
order Z0 to Z7, which R78 gives for candidacies and which for requests is the model's choice (log 28). -/
def State.recordStrike (s : State) (m : Master) : State :=
  allZones.foldl (State.loseEligibilityAt m)
    ((s.withSession m { s.sessions[m] with strike := true }).signal m .supervisionWarning)

/-! ### Loss -/

/-- WAKE_REQUEST for a master named in the list, if it is PARKED (R83). -/
def State.wakeIfParked (s : State) (m : Master) : State :=
  if s.sessions[m].standing.isParked then s.signal m .wakeRequest else s

/-- Loss of a zone from HELD or TRANSFER at its holder's session end (R68, R69, R61, R72, R83). Where it changes the
driven value, a check timer that has just expired is restarted or stopped with it, so that no fault comes at that
expiry: the model's choice (log 32). -/
def State.lose (s : State) (z : ZoneId) (holder : Master) (request : Option Pending) : State :=
  let next : Option Candidate :=
    match request with
    | some r => some ⟨r.requester, .requester, s.timeCount, s.config.zones[z].settleTime⟩
    | none => s.choose z 0
  let t := s.setAuthority z (settledBy next) (s.fallback z)
  let u :=
    match request with
    | some r => t.signal r.requester (.handoverResult z .succession)
    | none => t
  let v := (u.dropEntries (Entry.isOf holder z)).signal holder (.lost z .revoked)
  s.config.zones[z].succession.foldl State.wakeIfParked v

/-- What a session end does at one zone: the master is its holder, its requester, its candidate, or nothing (R82). -/
def State.endSessionAt (m : Master) (s : State) (z : ZoneId) : State :=
  match s.zones[z].authority with
  | .held h => if h = m then s.lose z m none else s
  | .transfer h r => if h = m then s.lose z m (some r) else s.loseEligibilityAt m z
  | .settling _ => s.loseEligibilityAt m z
  | _ => s

/-- A session end in every block but the session record (R45): the zones Z0 to Z7, any entry left, the ring. -/
def State.endSession (s : State) (m : Master) : State :=
  ((allZones.foldl (State.endSessionAt m) s).dropEntries (fun e => decide (e.poster = m))).freeRing

/-- Revocation of a master (R44): the session record first, then the flag and record, then the session end. -/
def State.revoke (s : State) (m : Master) (reason : RevokeReason) : State :=
  let t := s.withSession m
    { s.sessions[m] with standing := .revoked, timer := .stopped, revokeReason := some reason }
  (t.signal m (.revoked reason)).endSession m

/-! ### Grant at the end of settling -/

/-- The settle timer has reached its settle time (R73). -/
def State.settleDue (s : State) (c : Candidate) : Bool :=
  decide (c.settle.toNat * microsPer10ms ≤ s.elapsed c.since)

/-- The grant of a zone to its candidate (R76). -/
def State.grant (s : State) (z : ZoneId) (m : Master) : State :=
  (s.setAuthority z (.held m) (s.fallback z)).signal m (.granted z .succession)

/-- The settle expiry of a zone, if its settle timer is due; else there is no such event. -/
def State.settleExpiry (s : State) (z : ZoneId) : State :=
  match s.zones[z].authority with
  | .settling c => if s.settleDue c then s.grant z c.master else s
  | _ => s

/-- SETTLE_EXPIRY (R76). -/
def execSettleExpiry (z : ZoneId) (s : State) : Result := .next (s.settleExpiry z)

end Sys2Proof.Machine
end

