-- ==== Sys2Proof/Machine/Handover.lean ====
section
/-! DEFINITION. Handing over a zone (R47 to R66): REQUEST HANDOVER, YIELD, REFUSE, WITHDRAW and the handover timeout,
over one bumpless transfer (R52, R53). -/

namespace Sys2Proof.Machine

/-! ### The transfer and the end of a request -/

/-- Steps 1 to 6 of a YIELD (R52): the requester becomes holder at the commanded value the old holder left (R53). -/
def State.transferTo (s : State) (z : ZoneId) (requester : Master) : State :=
  s.setAuthority z (.held requester) s.zones[z].commanded

/-- The request ends and the holder keeps the zone (R54, R55, R57). -/
def State.endRequest (s : State) (z : ZoneId) (holder : Master) : State :=
  s.setAuthority z (.held holder) s.zones[z].commanded

/-- The new holder is told the outcome of its request and the cause of its grant (R52, R56, R59). -/
def State.tellGranted (s : State) (z : ZoneId) (m : Master) (o : HandoverOutcome) (c : GrantCause) : State :=
  (s.signal m (.handoverResult z o)).signal m (.granted z c)

/-! ### REQUEST HANDOVER (R48, R49) -/

/-- REQUEST HANDOVER when taken from a zone HELD by `holder` (R49). -/
def State.requestHandover (s : State) (z : ZoneId) (holder requester : Master) : State :=
  (s.setAuthority z (.transfer holder ⟨requester, s.timeCount, s.config.zones[z].handoverTimeout⟩)
    s.zones[z].commanded).signal holder (.handoverAsked z requester .pending)

/-- The checks of REQUEST HANDOVER in R48's order. -/
def requestHandoverAnswer (m : Master) (operands : List Byte) (s : State) : Answer :=
  match operands with
  | [zb] =>
    if s.device.isStoring then s.refuse .busy
    else
      s.onZone zb fun z =>
        if !s.permits z m then s.refuse .notPermitted
        else if s.sessions[m].strike then s.refuse .strikePending
        else
          match s.zones[z].authority with
          | .dark => s.refuse .wrongState
          | .vacant => s.refuse .notHeld
          | .faulted => s.refuse .zoneFaulted
          | .transfer _ _ => s.refuse .zoneBusy
          | .settling _ => s.refuse .zoneBusy
          | .held h =>
            if h = m then s.refuse .wrongState
            else
              (s.requestHandover z h m).reply
                (encodeEpoch s.zones[z].epoch ++
                  [s.config.zones[z].policy.code, s.config.zones[z].handoverTimeout])
  | _ => s.refuse .range

/-- REQUEST HANDOVER (R48). -/
def execRequestHandover (m : Master) (operands : List Byte) (s : State) : Result :=
  serve .requestHandover m operands (requestHandoverAnswer m operands) s

/-! ### YIELD and REFUSE (R51, R52, R54) -/

/-- The checks that YIELD and REFUSE share, in R51's order; the rest is done for the zone, its holder and requester. -/
def answering (m : Master) (operands : List Byte) (s : State) (k : ZoneId → Master → Answer) : Answer :=
  match operands with
  | [zb, rb] =>
    s.onZone zb fun z =>
      match masterOf rb with
      | none => s.refuse .range
      | some r =>
        match s.zones[z].authority with
        | .transfer h p =>
          if p.requester ≠ r then s.refuse .noRequest
          else if h ≠ m then s.refuse .notHolder
          else k z r
        | _ => s.refuse .noRequest
  | _ => s.refuse .range

/-- YIELD when taken (R52). -/
def State.yieldZone (s : State) (z : ZoneId) (holder requester : Master) : State :=
  ((s.transferTo z requester).dropEntries (Entry.isOf holder z)).tellGranted z requester .granted .handover

def yieldAnswer (m : Master) (operands : List Byte) (s : State) : Answer :=
  answering m operands s fun z r =>
    let t := s.yieldZone z m r
    t.reply (encodeEpoch t.zones[z].epoch ++ [byteOf (s.entriesFor m z)])

/-- YIELD (R51, R52). -/
def execYield (m : Master) (operands : List Byte) (s : State) : Result :=
  serve .yield m operands (yieldAnswer m operands) s

/-- REFUSE when taken (R54). -/
def State.refuseRequest (s : State) (z : ZoneId) (holder requester : Master) : State :=
  (s.endRequest z holder).signal requester (.handoverResult z .denied)

def refuseAnswer (m : Master) (operands : List Byte) (s : State) : Answer :=
  answering m operands s fun z r => (s.refuseRequest z m r).reply (encodeEpoch s.zones[z].epoch)

/-- REFUSE (R51, R54). -/
def execRefuse (m : Master) (operands : List Byte) (s : State) : Result :=
  serve .refuse m operands (refuseAnswer m operands) s

/-! ### WITHDRAW (R55) -/

/-- WITHDRAW when taken (R55). -/
def State.withdraw (s : State) (z : ZoneId) (holder requester : Master) : State :=
  (s.endRequest z holder).signal holder (.handoverAsked z requester .withdrawn)

def withdrawAnswer (m : Master) (operands : List Byte) (s : State) : Answer :=
  match operands with
  | [zb] =>
    s.onZone zb fun z =>
      match s.zones[z].authority with
      | .transfer h p =>
        if p.requester = m then (s.withdraw z h m).reply (encodeEpoch s.zones[z].epoch)
        else s.refuse .noRequest
      | _ => s.refuse .noRequest
  | _ => s.refuse .range

/-- WITHDRAW (R55). -/
def execWithdraw (m : Master) (operands : List Byte) (s : State) : Result :=
  serve .withdraw m operands (withdrawAnswer m operands) s

/-! ### The handover timeout (R47, R56, R57) -/

/-- The handover timer has reached its timeout (R47). -/
def State.handoverDue (s : State) (p : Pending) : Bool :=
  decide (p.timeout.toNat * microsPer10ms ≤ s.elapsed p.since)

/-- Expiry under PREEMPT (R56). -/
def State.preempt (s : State) (z : ZoneId) (holder requester : Master) : State :=
  (((s.transferTo z requester).dropEntries (Entry.isOf holder z)).tellGranted z requester .preemptGranted
    .preempt).signal holder (.lost z .preempted)

/-- Expiry under YIELD_ONLY (R57). -/
def State.timeOutRequest (s : State) (z : ZoneId) (holder requester : Master) : State :=
  ((s.endRequest z holder).signal requester (.handoverResult z .timedOut)).signal holder
    (.handoverAsked z requester .expired)

/-- The handover timeout of a zone, if its timer is due; else there is no such event. -/
def State.handoverTimeout (s : State) (z : ZoneId) : State :=
  match s.zones[z].authority with
  | .transfer h p =>
    if s.handoverDue p then
      match s.config.zones[z].policy with
      | .preempt => s.preempt z h p.requester
      | .yieldOnly => s.timeOutRequest z h p.requester
    else s
  | _ => s

/-- HANDOVER_TIMEOUT (R47). -/
def execHandoverTimeout (z : ZoneId) (s : State) : Result := .next (s.handoverTimeout z)

end Sys2Proof.Machine
end

