-- ==== Sys2Proof/Machine/Inputs.lean ====
section
/-! DEFINITION. Input lines and interlocks (R133 to R151): sampling and filtering, recognition, the inhibit
memberships, and READ INPUTS. -/

namespace Sys2Proof.Machine

/-! ### Sampling and filtering (R134, R135, R137) -/

/-- What a sample of this level at this count value does to the filter (R135, R137). -/
def InputLive.sample (now : TimeCount) (level : Level) : InputLive → InputLive
  | .disabled => .disabled
  | .establishing none => .establishing (some (level, now))
  | .establishing (some (c, t)) =>
    if level = c then .establishing (some (c, t)) else .establishing (some (level, now))
  | .tracking r none => if level = r then .tracking r none else .tracking r (some now)
  | .tracking r (some t) => if level = r then .tracking r none else .tracking r (some t)

/-- The sample of the present count value shows this level (R134). -/
def State.sampleInput (s : State) (i : InputId) (level : Level) : State :=
  s.withInput i { raw := level, live := s.inputs[i].live.sample s.timeCount level }

/-- RAW_LEVEL_CHANGE (R134). -/
def execRawLevelChange (i : InputId) (level : Level) (s : State) : Result := .next (s.sampleInput i level)

/-! ### Interlock membership (R148) -/

/-- The input forces its zones: ESTABLISHING, or TRACKING at its forcing level (R148). -/
def InputLive.forces (forcing : Level) : InputLive → Bool
  | .disabled => false
  | .establishing _ => true
  | .tracking r _ => decide (r = forcing)

/-- The input is a member of the inhibit sets of its zones (R148), as READ INPUTS reports it (R147). An enabled input
with an empty interlock zone set answers by its live state all the same, the model's choice (log 29). -/
def State.forcing (s : State) (i : InputId) : Bool := s.inputs[i].live.forces s.config.inputs[i].forcing

/-- The input belongs in the zone's inhibit set (R148). -/
def State.inhibits (s : State) (i : InputId) (z : ZoneId) : Bool :=
  s.forcing i && s.config.inputs[i].interlock.getLsbD z.val

/-- A zone's inhibit set after the input's membership is set by its present state and configuration (R148). -/
def State.inhibitAfter (s : State) (i : InputId) (z : ZoneId) : InputSet :=
  if s.inhibits i z then s.zones[z].inhibit ||| BitVec.twoPow 8 i.val
  else s.zones[z].inhibit &&& ~~~ (BitVec.twoPow 8 i.val)

/-- The input's membership is set at one zone (R148 to R150). -/
def State.refreshAt (i : InputId) (s : State) (z : ZoneId) : State := s.setInhibit z (s.inhibitAfter i z)

/-- The input's membership is set at every zone, Z0 to Z7 (R148). -/
def State.refresh (s : State) (i : InputId) : State := allZones.foldl (State.refreshAt i) s

/-! ### Recognition (R135, R137, R139) -/

/-- The filter time of the input has passed since this count value (R135). -/
def State.filterDue (s : State) (i : InputId) (since : TimeCount) : Bool :=
  decide (s.config.inputs[i].filterTime.toNat * microsPerFilterUnit ≤ s.elapsed since)

/-- The input takes a level as its recognised level, with its progress emptied (R135, R137). -/
def State.recognise (s : State) (i : InputId) (level : Level) : State :=
  s.withInput i { s.inputs[i] with live := .tracking level none }

/-- First recognition (R137): no capture; the interlock memberships follow. The sample of the present count value is
taken first, which decides for a filter time of 0. -/
def State.firstRecognition (s : State) (i : InputId) : State :=
  match s.inputs[i].live.sample s.timeCount s.inputs[i].raw with
  | .establishing (some (level, t)) => if s.filterDue i t then (s.recognise i level).refresh i else s
  | _ => s

/-- FIRST_RECOGNITION (R137). -/
def execFirstRecognition (i : InputId) (s : State) : Result := .next (s.firstRecognition i)

/-- The edge mode captures a change to this level (R139). -/
def EdgeMode.captures (level : Level) : EdgeMode → Bool
  | .both => true
  | .rising => decide (level = .high)
  | .falling => decide (level = .low)

/-- The level other than this one. -/
def Level.other : Level → Level
  | .low => .high
  | .high => .low

/-- A recognised change to `level` (R139, R140, R148). -/
def State.recogniseChange (s : State) (i : InputId) (level : Level) : State :=
  let t := s.recognise i level
  let u :=
    if EdgeMode.captures level s.config.inputs[i].edge && allMasters.any s.isAttached then t.appendCapture i level
    else t
  u.refresh i

/-- A recognised change of a TRACKING input (R135), if its filter time has passed; else there is no such event. -/
def State.recognisedChange (s : State) (i : InputId) : State :=
  match s.inputs[i].live.sample s.timeCount s.inputs[i].raw with
  | .tracking r (some t) => if s.filterDue i t then s.recogniseChange i (Level.other r) else s
  | _ => s

/-- RECOGNISED_CHANGE (R135). -/
def execRecognisedChange (i : InputId) (s : State) : Result := .next (s.recognisedChange i)

/-! ### Establishing anew (R136, R138) -/

/-- The live state of an input whose configuration takes effect: ESTABLISHING with an empty progress, or DISABLED. -/
def liveFor (c : InputConfig) : InputLive := if c.enabled then .establishing none else .disabled

/-- The input's live state is set by its configuration (R136, R138). -/
def State.establish (s : State) (i : InputId) : State :=
  s.withInput i { s.inputs[i] with live := liveFor s.config.inputs[i] }

/-! ### READ INPUTS (R147) -/

/-- The recognised level in TRACKING, FF hex otherwise (R147, R170). -/
def InputLive.levelByte : InputLive → Byte
  | .tracking r _ => r.code
  | _ => 0xFF

/-- One input as READ INPUTS gives it: live state, recognised level, raw level, forcing (R147). -/
def State.inputView (s : State) (i : InputId) : List Byte :=
  [s.inputs[i].live.code, s.inputs[i].live.levelByte, s.inputs[i].raw.code, yesNo (s.forcing i)]

def readInputsAnswer (_ : Master) (_ : List Byte) (s : State) : Answer :=
  s.reply (allInputs.flatMap s.inputView ++ encodeSerial s.nextSerial)

/-- READ INPUTS (R147). -/
def execReadInputs (m : Master) (operands : List Byte) (s : State) : Result :=
  serve .readInputs m operands (readInputsAnswer m operands) s

end Sys2Proof.Machine
end

