-- ==== Sys2Proof/Machine/Output.lean ====
section
/-! DEFINITION. The readback monitor's events and FAULTED (R123 to R132): SENSED_VALUE_CHANGE, READBACK_CHECK_EXPIRY and
CLEAR FAULT. -/

namespace Sys2Proof.Machine

/-! ### Sensing (R123, R124) -/

/-- The sensed levels of a zone's lines change, and the monitor compares (R124). -/
def State.sensedChange (s : State) (z : ZoneId) (v : Value) : State :=
  s.withZone z (Zone.sense s.config.zones[z].checkTime s.timeCount { s.zones[z] with sensed := v })

/-- SENSED_VALUE_CHANGE (R124). -/
def execSensedValueChange (z : ZoneId) (v : Value) (s : State) : Result := .next (s.sensedChange z v)

/-! ### Entry into FAULTED (R127, R128) -/

/-- ZONE_FAULT for one master, if ATTACHED and permitted (R127). -/
def State.faultFor (z : ZoneId) (s : State) (m : Master) : State :=
  if s.isAttached m && s.permits z m then s.signal m .zoneFault else s

/-- The holder of a zone that faults loses it (R128, steps 3 and 4). -/
def State.faultHolder (s : State) (z : ZoneId) : Option Master → State
  | some h => (s.dropEntries (Entry.isOf h z)).signal h (.lost z .fault)
  | none => s

/-- The requester of a zone that faults is told DROPPED (R62, R128). -/
def State.faultRequester (s : State) (z : ZoneId) : Option Pending → State
  | some p => s.signal p.requester (.handoverResult z .dropped)
  | none => s

/-- Entry into FAULTED (R127, R128). -/
def State.faultZone (s : State) (z : ZoneId) : State :=
  let a := s.zones[z].authority
  let t := s.setAuthority z .faulted (s.fallback z)
  allMasters.foldl (State.faultFor z) ((t.faultHolder z a.holder).faultRequester z a.request)

/-- The check timer has run the readback check time (R124). -/
def State.checkDue (s : State) (z : ZoneId) (since : TimeCount) : Bool :=
  decide (s.config.zones[z].checkTime.toNat * microsPerMs ≤ s.elapsed since)

/-- The check timer of the zone has expired, and the expiry is still to be taken (R124). -/
def State.checkExpired (s : State) (z : ZoneId) : Bool :=
  match s.zones[z].monitor with
  | .checking t _ => s.checkDue z t
  | _ => false

/-- The expiry of a zone's check timer, if it is due; else there is no such event. -/
def State.checkExpiry (s : State) (z : ZoneId) : State := if s.checkExpired z then s.faultZone z else s

/-- READBACK_CHECK_EXPIRY (R127). -/
def execReadbackCheckExpiry (z : ZoneId) (s : State) : Result := .next (s.checkExpiry z)

/-! ### CLEAR FAULT (R130, R131) -/

/-- CLEAR FAULT when taken (R131); driving starts again and the monitor begins fresh (R125). -/
def State.clearFault (s : State) (z : ZoneId) : State := s.setAuthority z .vacant (s.fallback z)

/-- The checks of CLEAR FAULT in R130's order. -/
def clearFaultAnswer (m : Master) (operands : List Byte) (s : State) : Answer :=
  match operands with
  | [zb] =>
    s.onZone zb fun z =>
      if !s.permits z m then s.refuse .notPermitted
      else
        match s.zones[z].authority with
        | .faulted =>
          (s.clearFault z).reply (encodeEpoch s.zones[z].epoch ++ (s.clearFault z).readbackView z)
        | _ => s.refuse .noFault
  | _ => s.refuse .range

/-- CLEAR FAULT (R130). -/
def execClearFault (m : Master) (operands : List Byte) (s : State) : Result :=
  serve .clearFault m operands (clearFaultAnswer m operands) s

end Sys2Proof.Machine
end

