-- ==== Sys2Proof/Machine/Queue.lean ====
section
/-! DEFINITION. The action queue (R86 to R106): READ TIME, POST ACTION, CANCEL TAG, CANCEL ZONE and READ QUEUE. -/

namespace Sys2Proof.Machine

/-- READ TIME (R87). -/
def readTimeAnswer (_ : Master) (_ : List Byte) (s : State) : Answer := s.reply (encodeTime s.timeCount)

/-- READ TIME (R87). -/
def execReadTime (m : Master) (operands : List Byte) (s : State) : Result :=
  serve .readTime m operands (readTimeAnswer m operands) s

/-! ### Posting (R93, R94, R112, R113) -/

/-- The due time six operand bytes spell. -/
def timeOf (b : List Byte) : TimeCount := BitVec.ofNat 48 (numberOf b)

/-- The tag two operand bytes spell. -/
def tagOf (b : List Byte) : Tag := BitVec.ofNat 16 (numberOf b)

/-- The last three checks of a post (R93, checks 4 to 6; R112, checks 4 to 6). -/
def State.postRefusal (s : State) (m : Master) (due : TimeCount) : Option Status :=
  if due ≤ s.timeCount then some .past
  else if queueCapacity ≤ s.queue.length then some .queueFull
  else if queueQuota ≤ s.entryCount m then some .quota
  else none

/-- An entry is inserted as R90 gives. -/
def State.post (s : State) (e : Entry) : State := s.withQueue (insertEntry e s.queue)

/-- The new entry's position among its poster's entries: those before the place where it is inserted (R94). -/
def State.postPosition (s : State) (e : Entry) : Nat :=
  (s.queue.takeWhile (fun h => decide (h.due ≤ e.due))).countP (fun h => decide (h.poster = e.poster))

/-- The response to a post (R94, R113): epoch, the poster's count, the total, the position. -/
def State.postReply (s : State) (e : Entry) : Answer :=
  let t := s.post e
  t.reply (encodeEpoch s.zones[e.zone].epoch ++
    [byteOf (t.entryCount e.poster), byteOf t.queue.length, byteOf (s.postPosition e)])

/-- The checks of POST ACTION in R93's order. -/
def postActionAnswer (m : Master) (operands : List Byte) (s : State) : Answer :=
  match operands with
  | [zb, d5, d4, d3, d2, d1, d0, vn, t1, t0] =>
    s.onZone zb fun z =>
      if !s.holds m z then s.refuse .notHolder
      else
        match valueOfNotifyByte vn with
        | none => s.refuse .range
        | some v =>
          match s.postRefusal m (timeOf [d5, d4, d3, d2, d1, d0]) with
          | some st => s.refuse st
          | none =>
            s.postReply ⟨m, z, timeOf [d5, d4, d3, d2, d1, d0], .single v (notifyOf vn), tagOf [t1, t0]⟩
  | _ => s.refuse .range

/-- POST ACTION (R93). -/
def execPostAction (m : Master) (operands : List Byte) (s : State) : Result :=
  serve .postAction m operands (postActionAnswer m operands) s

/-! ### Cancelling (R102, R103) -/

/-- A silent cancel of the entries that satisfy `p`: NOT_FOUND if there is none (R102, R103). -/
def State.cancel (s : State) (m : Master) (p : Entry → Bool) : Answer :=
  if s.queue.countP p = 0 then s.refuse .notFound
  else
    let t := s.removeEntries p
    t.reply [byteOf (s.queue.countP p), byteOf (t.entryCount m)]

def cancelTagAnswer (m : Master) (operands : List Byte) (s : State) : Answer :=
  match operands with
  | [t1, t0] => s.cancel m (fun e => decide (e.poster = m ∧ e.tag = tagOf [t1, t0]))
  | _ => s.refuse .range

/-- CANCEL TAG (R102). -/
def execCancelTag (m : Master) (operands : List Byte) (s : State) : Result :=
  serve .cancelTag m operands (cancelTagAnswer m operands) s

def cancelZoneAnswer (m : Master) (operands : List Byte) (s : State) : Answer :=
  match operands with
  | [zb] => s.onZone zb fun z => s.cancel m (Entry.isOf m z)
  | _ => s.refuse .range

/-- CANCEL ZONE (R103). -/
def execCancelZone (m : Master) (operands : List Byte) (s : State) : Result :=
  serve .cancelZone m operands (cancelZoneAnswer m operands) s

/-! ### READ QUEUE (R105, R171) -/

/-- The views of entries at positions counted from `position` on. -/
def encodeEntries : Nat → List Entry → List Byte
  | _, [] => []
  | position, e :: rest => encodeEntry position e ++ encodeEntries (position + 1) rest

/-- The master's own entries in queue order (R105). -/
def State.entriesOf (s : State) (m : Master) : List Entry := s.queue.filter (fun e => decide (e.poster = m))

def readQueueAnswer (m : Master) (operands : List Byte) (s : State) : Answer :=
  match operands with
  | [start] =>
    if 16 ≤ start.toNat then s.refuse .range
    else
      s.reply ([byteOf (s.entryCount m), byteOf s.queue.length] ++
        encodeEntries start.toNat (((s.entriesOf m).drop start.toNat).take 4))
  | _ => s.refuse .range

/-- READ QUEUE (R105). -/
def execReadQueue (m : Master) (operands : List Byte) (s : State) : Result :=
  serve .readQueue m operands (readQueueAnswer m operands) s

end Sys2Proof.Machine
end

