-- ==== Sys2Proof/Machine/Sequences.lean ====
section
/-! DEFINITION. Step banks and sequences (R107 to R119): WRITE STEPS, READ STEPS, POST SEQUENCE, and the due event that
takes SINGLE and SEQUENCE entries (R96 to R98, R114 to R117). -/

namespace Sys2Proof.Machine

/-! ### Writing and reading steps (R108 to R110) -/

/-- Consecutive records from an index on replace those of a bank (R109). -/
def writeBank (b : Vector Step 16) : Nat → List Step → Vector Step 16
  | _, [] => b
  | k, r :: rest => writeBank (if h : k < 16 then b.set k r h else b) (k + 1) rest

/-- WRITE STEPS when taken (R109). -/
def State.writeSteps (s : State) (m : Master) (first : Nat) (records : List Step) : State :=
  s.withBank m (writeBank s.banks[m] first records)

/-- The checks of WRITE STEPS (R108). -/
def writeStepsAnswer (m : Master) (operands : List Byte) (s : State) : Answer :=
  match operands with
  | first :: rest =>
    if 16 ≤ first.toNat then s.refuse .range
    else
      match stepsOf rest with
      | none => s.refuse .range
      | some records =>
        if records.length < 1 ∨ 4 < records.length ∨ 16 < first.toNat + records.length then s.refuse .range
        else (s.writeSteps m first.toNat records).reply [first, byteOf records.length]
  | _ => s.refuse .range

/-- WRITE STEPS (R108). -/
def execWriteSteps (m : Master) (operands : List Byte) (s : State) : Result :=
  serve .writeSteps m operands (writeStepsAnswer m operands) s

/-- `count` records of a bank from an index on, each with its index (R110, R171). -/
def encodeSteps (b : Vector Step 16) : Nat → Nat → List Byte
  | _, 0 => []
  | k, n + 1 => (if h : k < 16 then byteOf k :: encodeStep b[k] else []) ++ encodeSteps b (k + 1) n

/-- The checks of READ STEPS (R110). -/
def readStepsAnswer (m : Master) (operands : List Byte) (s : State) : Answer :=
  match operands with
  | [first, count] =>
    if 16 ≤ first.toNat ∨ count.toNat < 1 ∨ 4 < count.toNat ∨ 16 < first.toNat + count.toNat then s.refuse .range
    else s.reply (encodeSteps s.banks[m] first.toNat count.toNat)
  | _ => s.refuse .range

/-- READ STEPS (R110). -/
def execReadSteps (m : Master) (operands : List Byte) (s : State) : Result :=
  serve .readSteps m operands (readStepsAnswer m operands) s

/-! ### POST SEQUENCE (R112, R113) -/

/-- The checks of POST SEQUENCE in R112's order. -/
def postSequenceAnswer (m : Master) (operands : List Byte) (s : State) : Answer :=
  match operands with
  | [zb, d5, d4, d3, d2, d1, d0, kb, t1, t0] =>
    s.onZone zb fun z =>
      if !s.holds m z then s.refuse .notHolder
      else
        match stepIndexOf kb with
        | none => s.refuse .range
        | some k =>
          match s.postRefusal m (timeOf [d5, d4, d3, d2, d1, d0]) with
          | some st => s.refuse st
          | none => s.postReply ⟨m, z, timeOf [d5, d4, d3, d2, d1, d0], .sequence k, tagOf [t1, t0]⟩
  | _ => s.refuse .range

/-- POST SEQUENCE (R112). -/
def execPostSequence (m : Master) (operands : List Byte) (s : State) : Result :=
  serve .postSequence m operands (postSequenceAnswer m operands) s

/-! ### The due event (R96) -/

/-- The poster is told that a SINGLE entry or a step was applied, if the mark asks for it (R97, R114). -/
def State.tellDone (s : State) (e : Entry) (kind : DoneKind) (notify : Bool) : State :=
  if notify then s.signal e.poster (.actionDone e.tag e.zone kind) else s

/-- What follows a step just applied (R115 to R117): the end, the re-queue, or TIME_END. The entry is out of the queue. -/
def State.goOn (s : State) (e : Entry) (r : Step) : State :=
  match r.link with
  | none => s.signal e.poster (.actionDone e.tag e.zone .sequenceEnd)
  | some k =>
    if 2 ^ 48 ≤ e.due.toNat + r.delay.toNat then s.signal e.poster (.actionDropped e.tag e.zone .timeEnd)
    else s.post { e with due := e.due + r.delay.setWidth 48, kind := .sequence k }

/-- The taking of one entry that has been removed from the queue (R97, R98, R114). -/
def State.takeEntry (s : State) (e : Entry) : State :=
  if s.zones[e.zone].inhibit ≠ 0 then s.signal e.poster (.actionDropped e.tag e.zone .inhibited)
  else
    match e.kind with
    | .single v notify => (s.setCommanded e.zone v).tellDone e .applied notify
    | .sequence k =>
      let r := s.banks[e.poster][k]
      ((s.setCommanded e.zone r.value).tellDone e .step r.notify).goOn e r

/-- The entry is due at the present count value (R96). -/
def State.isDue (s : State) (e : Entry) : Bool := decide (e.due = s.timeCount)

/-- The entries due at the present count value are taken out, then each is taken in queue order (R96). -/
def State.takeDueEntries (s : State) : State :=
  (s.queue.filter s.isDue).foldl State.takeEntry (s.removeEntries s.isDue)

/-- An expiry of a check timer that a due event found at a zone follows the entries taken there: where their change of
the driven value has restarted or stopped the expired timer, the fault is taken right after them (R99, log 31). Its
record holds the lines mismatched then (R127): none where one of several entries matched the sensed value, which leaves
the monitor in MATCH whatever a later one drives (log 31). -/
def State.faultOvertaken (before : State) (s : State) (z : ZoneId) : State :=
  if before.checkExpired z && !s.checkExpired z then s.faultZone z else s

/-- The due event of the present count value: its entries, then the expiries they overtook, Z0 to Z7 (R96, R99). -/
def State.dueEvent (s : State) : State := allZones.foldl (State.faultOvertaken s) s.takeDueEntries

/-- DUE_EVENT (R96). -/
def execDueEvent (s : State) : Result := .next s.dueEvent

end Sys2Proof.Machine
end

