-- ==== Sys2Proof/Machine/Sessions.lean ====
section
/-! DEFINITION. Master sessions and supervision (R23 to R46): ATTACH, DETACH, PARK, UNPARK, RENEW, SUPERVISE, and the
events of the supervision timer. -/

namespace Sys2Proof.Machine

/-! ### ATTACH (R35, R36) -/

/-- Policy (R33): in OPERATIONAL a mode laxer than the required strictness, or OFF, is refused. -/
def State.policyRefuses (s : State) (m : Master) (mode : Mode) : Bool :=
  match s.device with
  | .operational => decide (s.config.strictness[m].laxity < mode.laxity ∨ mode = .off)
  | _ => false

/-- ATTACH when taken (R36). -/
def State.attach (s : State) (m : Master) (mode : Mode) (period : Period) : State :=
  ((s.withSession m
      { standing := .attached s.nextSerial, mode := mode, period := period, timer := idleTimer mode s.timeCount,
        strike := false, revokeReason := none }).withAttention m s.attention[m].cleared).withChangeSet m 0

/-- The checks of ATTACH in R35's order. -/
def attachAnswer (m : Master) (operands : List Byte) (s : State) : Answer :=
  match operands with
  | [mode, period] =>
    if s.isAttached m || s.sessions[m].standing.isParked then s.refuse .wrongState
    else
      match modeOf mode, periodOf period with
      | none, _ => s.refuse .codeError
      | some _, none => s.refuse .codeError
      | some mo, some pe =>
        if s.policyRefuses m mo then s.refuse .policy
        else (s.attach m mo pe).reply ((s.attach m mo pe).sessionView m)
  | _ => s.refuse .range

/-- ATTACH (R35). -/
def execAttach (m : Master) (operands : List Byte) (s : State) : Result :=
  serve .attach m operands (attachAnswer m operands) s

/-! ### DETACH (R37) -/

/-- DETACH when taken, step by step of R37. -/
def State.detach (s : State) (m : Master) : State :=
  let t := s.withSession m { s.sessions[m] with standing := .detached }
  let u := if s.isAttached m then t.endSession m else t
  ((u.withAttention m .afterReset).withChangeSet m 0).withSession m .afterReset

/-- DETACH: from DETACHED nothing changes; the response carries the number of zones held (R37). -/
def detachAnswer (m : Master) (_ : List Byte) (s : State) : Answer :=
  match s.sessions[m].standing with
  | .detached => s.reply [0]
  | _ => (s.detach m).reply [byteOf (s.heldCount m)]

/-- DETACH (R37). -/
def execDetach (m : Master) (operands : List Byte) (s : State) : Result :=
  serve .detach m operands (detachAnswer m operands) s

/-! ### PARK (R38, R39) -/

/-- The first of R38's checks that PARK fails, if any. -/
def State.parkRefusal (s : State) (m : Master) : Option Status :=
  if s.sessions[m].standing.isParked then some .wrongState
  else if s.heldCount m ≠ 0 then some .wrongState
  else if s.entryCount m ≠ 0 then some .wrongState
  else if allZones.any (s.requests m) then some .wrongState
  else if allZones.any (s.isCandidate m) then some .wrongState
  else if s.attention[m].flags &&& s.attention[m].enables ≠ 0 then some .pendingFlags
  else none

/-- PARK when taken (R39). -/
def State.park (s : State) (m : Master) : State :=
  (s.withSession m { s.sessions[m] with standing := .parked s.nextSerial, timer := .stopped }).freeRing

def parkAnswer (m : Master) (_ : List Byte) (s : State) : Answer :=
  match s.parkRefusal m with
  | some st => s.refuse st
  | none => (s.park m).reply (encodeSerial s.nextSerial)

/-- PARK (R38). -/
def execPark (m : Master) (operands : List Byte) (s : State) : Result :=
  serve .park m operands (parkAnswer m operands) s

/-! ### UNPARK (R40) -/

/-- UNPARK when taken by a master that parked at this serial (R40). -/
def State.unpark (s : State) (m : Master) (parkSerial : Serial) : State :=
  let r := s.sessions[m]
  let t := s.withSession m { r with standing := .attached s.nextSerial, timer := idleTimer r.mode s.timeCount }
  if s.nextSerial = parkSerial then t else t.signal m .captureGap

def unparkAnswer (m : Master) (_ : List Byte) (s : State) : Answer :=
  match s.sessions[m].standing with
  | .parked k => (s.unpark m k).reply ((s.unpark m k).sessionView m ++ encodeSerial s.nextSerial)
  | _ => s.refuse .wrongState

/-- UNPARK (R40). -/
def execUnpark (m : Master) (operands : List Byte) (s : State) : Result :=
  serve .unpark m operands (unparkAnswer m operands) s

/-! ### RENEW (R41) -/

/-- RENEW when taken, by the timer it finds (R41). -/
def State.renew (s : State) (m : Master) : State :=
  match s.sessions[m].timer with
  | .closed _ => s.revoke m .earlyRenewal
  | .opened _ => s.withTimer m (.closed s.timeCount)
  | .running _ => s.withTimer m (.running s.timeCount)
  | .stopped => s

def renewAnswer (m : Master) (_ : List Byte) (s : State) : Answer :=
  (s.renew m).reply ((s.renew m).sessionView m)

/-- RENEW (R41). -/
def execRenew (m : Master) (operands : List Byte) (s : State) : Result :=
  serve .renew m operands (renewAnswer m operands) s

/-! ### SUPERVISE (R43, R34) -/

/-- Protection (R34): in OPERATIONAL a master that holds a zone may not change its supervision. -/
def State.protects (s : State) (m : Master) : Bool :=
  match s.device with
  | .operational => decide (s.heldCount m ≠ 0)
  | _ => false

/-- A protection refusal counts as a supervision failure (R34). -/
def State.protectionFailure (s : State) (m : Master) : State :=
  if s.sessions[m].strike then s.revoke m .reconfigure else s.recordStrike m

/-- The timer SUPERVISE sets for the new mode (R43): AUTO runs only while the master holds a zone. -/
def State.supervisedTimer (s : State) (m : Master) (mode : Mode) : SupervisionTimer :=
  if mode = .auto ∧ s.heldCount m = 0 then .stopped else freshTimer mode s.timeCount

/-- SUPERVISE when taken (R43). -/
def State.supervise (s : State) (m : Master) (mode : Mode) (period : Period) : State :=
  s.withSession m { s.sessions[m] with mode := mode, period := period, timer := s.supervisedTimer m mode }

/-- The checks of SUPERVISE in R43's order; PROTECTED is the one refusal that changes state (R166). -/
def superviseAnswer (m : Master) (operands : List Byte) (s : State) : Answer :=
  match operands with
  | [mode, period] =>
    match modeOf mode, periodOf period with
    | none, _ => s.refuse .codeError
    | some _, none => s.refuse .codeError
    | some mo, some pe =>
      if s.policyRefuses m mo then s.refuse .policy
      else if s.protects m then (s.protectionFailure m).refuse .protection
      else (s.supervise m mo pe).reply ((s.supervise m mo pe).sessionView m)
  | _ => s.refuse .range

/-- SUPERVISE (R43). -/
def execSupervise (m : Master) (operands : List Byte) (s : State) : Result :=
  serve .supervise m operands (superviseAnswer m operands) s

/-! ### The supervision timer (R25 to R28) -/

/-- The timer has run for this long or longer. -/
def SupervisionTimer.hasRun (s : State) (micros : Nat) : SupervisionTimer → Bool
  | .stopped => false
  | .running t => decide (micros ≤ s.elapsed t)
  | .closed t => decide (micros ≤ s.elapsed t)
  | .opened t => decide (micros ≤ s.elapsed t)

/-- The master's timer has reached its full period (R25). -/
def State.supervisionDue (s : State) (m : Master) : Bool :=
  s.isAttached m && s.sessions[m].timer.hasRun s s.sessions[m].period.micros

/-- What an expiry does (R26, R27, R28): in WINDOW it revokes; else it records a strike and restarts the timer, or with
a strike pending revokes. -/
def State.supervisionFailure (s : State) (m : Master) : State :=
  match s.sessions[m].timer with
  | .closed _ => s.revoke m .expiry
  | .opened _ => s.revoke m .expiry
  | .running _ =>
    if s.sessions[m].strike then s.revoke m .secondExpiry
    else (s.recordStrike m).withTimer m (.running s.timeCount)
  | .stopped => s

/-- The supervision expiry of a master, if its timer is due; else there is no such event. -/
def State.supervisionExpiry (s : State) (m : Master) : State :=
  if s.supervisionDue m then s.supervisionFailure m else s

/-- SUPERVISION_EXPIRY (R25). -/
def execSupervisionExpiry (m : Master) (s : State) : Result := .next (s.supervisionExpiry m)

/-- The passage from CLOSED to OPEN, once half the period has run (R25, R26). -/
def State.windowOpen (s : State) (m : Master) : State :=
  match s.sessions[m].timer with
  | .closed t => if s.sessions[m].period.micros / 2 ≤ s.elapsed t then s.withTimer m (.opened t) else s
  | _ => s

/-- WINDOW_OPEN (R26). -/
def execWindowOpen (m : Master) (s : State) : Result := .next (s.windowOpen m)

end Sys2Proof.Machine
end

