-- ==== Sys2Proof/Machine/Clock.lean ====
section
/-! DEFINITION. The advance of the time count (R86): the microsecond closes, with every line sampled and every event
still due at it taken, and the count goes on (DESIGN CHOICE, logs 3, 5 and 6). -/

namespace Sys2Proof.Machine

/-- The closing sample of an input shows the level its line has (R134). -/
def State.closingSample (s : State) (i : InputId) : State := s.sampleInput i s.inputs[i].raw

/-- The closing sensing of a zone's lines (R123, R124). -/
def State.closingSense (s : State) (z : ZoneId) : State :=
  s.withZone z (s.zones[z].sense s.config.zones[z].checkTime s.timeCount)

/-- Every line is sampled and every zone sensed at the present count value. -/
def State.closeSampling (s : State) : State :=
  allZones.foldl State.closingSense (allInputs.foldl State.closingSample s)

/-- An input's recognition, first or later, if it is due. -/
def State.recogniseDue (s : State) (i : InputId) : State :=
  match s.inputs[i].live with
  | .establishing _ => s.firstRecognition i
  | _ => s.recognisedChange i

/-- A zone's timers, each if it is due: handover, settle, check. -/
def State.zoneTimersDue (s : State) (z : ZoneId) : State := ((s.handoverTimeout z).settleExpiry z).checkExpiry z

/-- A master's timer events, each if it is due: the passage to OPEN, the expiry. -/
def State.masterTimerDue (s : State) (m : Master) : State := (s.windowOpen m).supervisionExpiry m

/-- Every event still due at the present count value is taken, in a fixed order (log 3). -/
def State.takeDue (s : State) : State :=
  allMasters.foldl State.masterTimerDue
    (allZones.foldl State.zoneTimersDue (allInputs.foldl State.recogniseDue s).dueEvent)

/-- The count goes on by one, from 2^48−1 to 0 (R86). -/
def State.tick (s : State) : State := s.withTimeCount (s.timeCount + 1)

/-- TIME_COUNT_ADVANCE (R86). -/
def execTimeCountAdvance (s : State) : Result := .next s.closeSampling.takeDue.tick

end Sys2Proof.Machine
end

