-- ==== Sys2Proof/Machine/Ports.lean ====
section
/-! DEFINITION. The master ports (R161 to R165): the beginning and the end of a transaction, and NOP. -/

namespace Sys2Proof.Machine

/-! ### The beginning of a transaction (R161, R164, R165) -/

/-- What chip select asserted does to a port: from IDLE it begins SHIFTING with the buffer's response going out; while
WAITING the transaction shifts out fill only. -/
def Port.begin (p : Port) : Port :=
  match p.phase with
  | .idle => { p with cs := true, phase := .shifting, out := some (encodeResponse p.buffer) }
  | .waiting _ => { p with cs := true, out := some [] }
  | .shifting => { p with cs := true }

/-- Chip select is asserted at a port; at one that is asserted already there is no such event (log 21). -/
def State.transactionBegin (s : State) (p : Master) : State :=
  if s.ports[p].cs then s else s.withPort p s.ports[p].begin

/-- TRANSACTION_BEGIN (R161). -/
def execTransactionBegin (p : Master) (s : State) : Result := .next (s.transactionBegin p)

/-! ### The end of a transaction (R161, R163, R165) -/

/-- The first `n` whole bytes of a transaction: what goes out, then FF hex fill (R161). -/
def shiftedOut (n : Nat) : Option (List Byte) → List Byte
  | some bytes => (bytes ++ List.replicate n 0xFF).take n
  | none => []

/-- The response to FRAME_ERROR carries command FF hex and no payload (R163). -/
def frameErrorResponse : Response where
  status := .frameError
  command := 0xFF
  payload := []

/-- What the port makes of the frame received (R163). -/
def Port.receive (now : TimeCount) (p : Port) : FrameCheck → Port
  | .frameError => { p with phase := .idle, buffer := frameErrorResponse }
  | .unknownCommand id => { p with phase := .idle, buffer := ⟨.unknownCommand, id, []⟩ }
  | .request c operands => { p with phase := .waiting ⟨c, operands, now⟩ }

/-- The port with chip select released, the bytes that went out kept, and nothing going out any more. -/
def Port.release (received : List Byte) (p : Port) : Port :=
  { p with cs := false, sdo := shiftedOut received.length p.out, out := none }

/-- The port at the end of a transaction: only one begun from IDLE has its frame checked; any other frame is
discarded (R161, R165). -/
def Port.finish (now : TimeCount) (received : List Byte) (strayBits : Nat) (p : Port) : Port :=
  match p.phase with
  | .shifting => (p.release received).receive now (checkFrame received strayBits)
  | _ => p.release received

/-- The request the controller serves next once one has arrived at port `p` (R167): that request when none waited, the
one in round-robin order among those that arrived at the same moment (log 7), else the one chosen before. -/
def State.chosenAfterArrival (s : State) (p : Master) : Option Master :=
  match s.chosen with
  | none => some p
  | some q =>
    match s.ports[q].request with
    | some r => if r.releasedAt = s.timeCount then s.nextInTurn s.lastServed else some q
    | none => some p

/-- A request that has just come to wait at port `p` is known to the authority table controller (R167). -/
def State.arrive (s : State) (p : Master) : State :=
  if s.waitsAtTable p then s.withService s.lastServed (s.chosenAfterArrival p) else s

/-- Chip select is released at a port; at one that is released already there is no such event (log 21). -/
def State.transactionEnd (s : State) (p : Master) (received : List Byte) (strayBits : Nat) : State :=
  if s.ports[p].cs then
    let t := s.withPort p (s.ports[p].finish s.timeCount received strayBits)
    match s.ports[p].phase with
    | .shifting => t.arrive p
    | _ => t
  else s

/-- TRANSACTION_END (R163). -/
def execTransactionEnd (p : Master) (received : List Byte) (strayBits : Nat) (s : State) : Result :=
  .next (s.transactionEnd p received strayBits)

/-! ### NOP (R168) -/

/-- NOP changes nothing and answers OK with no payload (R168). -/
def nopAnswer (_ : Master) (_ : List Byte) (s : State) : Answer := s.reply []

/-- NOP (R168). -/
def execNop (m : Master) (operands : List Byte) (s : State) : Result :=
  serve .nop m operands (nopAnswer m operands) s

end Sys2Proof.Machine
end

