-- ==== Sys2Proof/Machine/Store.lean ====
section
/-! DEFINITION. The image of the configuration store (R173): its CRC-16, its layout (DESIGN CHOICE, log 11), and its
class. -/

namespace Sys2Proof.Machine

/-- `n` bits of the CRC-16 with polynomial 1021 hex, most significant bit first. -/
def crc16Bits : Nat → BitVec 16 → BitVec 16
  | 0, r => r
  | n + 1, r => crc16Bits n (if r.msb then (r <<< 1) ^^^ 0x1021 else r <<< 1)

/-- The CRC-16 over bytes: the register starts at FFFF hex, no final inversion (R173). -/
def crc16 (b : List Byte) : BitVec 16 := b.foldl (fun r x => crc16Bits 8 (r ^^^ (x ++ (0 : Byte)))) 0xFFFF

/-- The image but for its check: zones Z0 to Z7, inputs IN0 to IN7, policies M0 to M3, commissioned mark. -/
def imageBody (c : WorkingConfig) (marked : Bool) : List Byte :=
  allZones.flatMap (fun z => encodeZoneConfig c.zones[z]) ++
    allInputs.flatMap (fun i => encodeInputConfig c.inputs[i]) ++
    allMasters.map (fun m => c.strictness[m].code) ++ [yesNo marked]

/-- The image of a working configuration with its check (R173). -/
def imageOf (c : WorkingConfig) (marked : Bool) : List Byte :=
  imageBody c marked ++ bytesOf 2 (crc16 (imageBody c marked)).toNat

/-- The items read one after another from a list, `width` bytes each, all or none. -/
def readItems {α : Type} (width : Nat) (f : List Byte → Option α) : Nat → List Byte → Option (List α)
  | 0, _ => some []
  | n + 1, b =>
    match f (b.take width), readItems width f n (b.drop width) with
    | some x, some xs => some (x :: xs)
    | _, _ => none

/-- A list of exactly `n` items as a vector. -/
def vectorOf {α : Type} (n : Nat) (l : List α) : Option (Vector α n) :=
  if h : l.length = n then some ⟨l.toArray, by simpa using h⟩ else none

/-- A mode code of one byte. -/
def strictnessOf : List Byte → Option Mode
  | [b] => modeOf b
  | _ => none

/-- The working configuration and mark that an image body spells, none where a field is out of range (R173). -/
def readBody (b : List Byte) : Option (WorkingConfig × Bool) :=
  match (readItems 10 zoneConfigOf 8 b).bind (vectorOf 8), (readItems 5 inputConfigOf 8 (b.drop 80)).bind (vectorOf 8),
    (readItems 1 strictnessOf 4 (b.drop 120)).bind (vectorOf 4), (b.drop 124).head?.bind boolOf with
  | some zones, some inputs, some strictness, some marked => some (⟨zones, inputs, strictness⟩, marked)
  | _, _, _, _ => none

/-- What the start-up read finds in the image (R173): its class, and for a VALID image its configuration and mark. -/
inductive StoreRead
  | blank
  | valid (config : WorkingConfig) (marked : Bool)
  | corrupt
  deriving DecidableEq, Repr

/-- The class and contents of image bytes (R173). -/
def readImage (b : List Byte) : StoreRead :=
  if b = List.replicate imageLength 0xFF then .blank
  else if b.length = imageLength ∧ b.drop 125 = bytesOf 2 (crc16 (b.take 125)).toNat then
    match readBody (b.take 125) with
    | some (c, marked) => .valid c marked
    | none => .corrupt
  else .corrupt

/-- The class and contents of the store (R173); an invalidated image is CORRUPT. -/
def StoreImage.read : StoreImage → StoreRead
  | .image b => readImage b
  | .invalidated => .corrupt

/-- The class alone (R173). -/
def StoreRead.class : StoreRead → StoreClass
  | .blank => .blank
  | .valid _ _ => .valid
  | .corrupt => .corrupt

end Sys2Proof.Machine
end

