-- ==== Sys2Proof/Machine/StartUp.lean ====
section
/-! DEFINITION. Start-up, the configuration store and commissioning (R172 to R180): the three resets, the start-up
decision, STATUS, the configuration requests, COMMIT and the end of the store write. -/

namespace Sys2Proof.Machine

/-! ### The resets (R175) -/

/-- The part right after a reset of this cause with CFG sampled at this level (R172, R175): every after-reset value,
but for the store, which is non-volatile; the pins keep their levels (DESIGN CHOICE, log 10), and the commands that
wait still wait. -/
def State.restart (s : State) (cause : ResetCause) (cfg : Level) : State :=
  { State.reset with
    zones := s.zones.map (fun r => .afterReset r.sensed)
    inputs := s.inputs.map (fun i => .afterReset i.raw)
    ports := s.ports.map (fun p => .afterReset p.cs)
    resetCause := cause
    cfg := cfg
    store := s.store
    pending := s.pending }

/-- POWER_ON (R175). -/
def execPowerOn (cfg : Level) (s : State) : Result := .next (s.restart .powerOn cfg)

/-- The cause a reset by RESETN records: in STARTING the cause recorded when it began is kept (R175). -/
def State.pinCause (s : State) : ResetCause :=
  match s.device with
  | .starting => s.resetCause
  | _ => .resetPin

/-- RESET_PIN (R175). -/
def execResetPin (cfg : Level) (s : State) : Result := .next (s.restart s.pinCause cfg)

/-! ### The start-up decision (R174) -/

/-- The device state STARTING is left for (R174). -/
def StoreRead.device (cfg : Level) : StoreRead → DeviceState
  | .valid _ marked =>
    match cfg with
    | .high => .commissioning
    | .low => if marked then .operational else .commissioning
  | .blank => .commissioning
  | .corrupt =>
    match cfg with
    | .high => .commissioning
    | .low => .halted

/-- The working configuration after start-up (R174). -/
def StoreRead.config : StoreRead → WorkingConfig
  | .valid c _ => c
  | _ => .default

/-- Where it came from (R179). -/
def StoreRead.source : StoreRead → ConfigSource
  | .valid _ _ => .store
  | _ => .defaults

/-- The store state reported for start-up (R174). -/
def StoreRead.startup (cfg : Level) (r : StoreRead) : StartupStore :=
  match cfg with
  | .high => .strapped
  | .low =>
    match r with
    | .valid _ _ => .valid
    | .blank => .blank
    | .corrupt => .corrupt

/-- What the decision records, before zones and inputs follow (R173, R174, R179). -/
def State.withDecision (s : State) (r : StoreRead) : State :=
  { s with
    device := r.device s.cfg
    config := r.config
    source := r.source
    startupStore := some (r.startup s.cfg)
    presentStore := some r.class }

/-- A zone passes from DARK to VACANT at its fallback value (R4, R121). -/
def State.lightZone (s : State) (z : ZoneId) : State := s.setAuthority z .vacant (s.fallback z)

/-- Zones and inputs enter service (R4, R136, R148). -/
def State.enterService (s : State) : State :=
  allInputs.foldl State.refresh (allInputs.foldl State.establish (allZones.foldl State.lightZone s))

/-- The start-up decision, in STARTING; in any other device state there is no such event. -/
def State.startUp (s : State) : State :=
  match s.device with
  | .starting =>
    let t := s.withDecision s.store.read
    match t.device with
    | .halted => t
    | _ => t.enterService
  | _ => s

/-- START_UP_DECISION (R174). -/
def execStartUpDecision (s : State) : Result := .next s.startUp

/-! ### STATUS (R176) -/

/-- The store state at start-up, FF hex while absent (R176). -/
def encodeStartup : Option StartupStore → Byte
  | some c => c.code
  | none => 0xFF

/-- The present store state, FF hex while absent (R176). -/
def encodePresent : Option StoreClass → Byte
  | some c => c.code
  | none => 0xFF

/-- The items of STATUS (R176): 11 bytes. -/
def statusAnswer (m : Master) (_ : List Byte) (s : State) : Answer :=
  s.reply ([s.device.code, s.resetCause.code, encodeStartup s.startupStore, encodePresent s.presentStore,
    s.sessions[m].standing.code] ++ encodeTime s.timeCount)

/-- STATUS (R176). -/
def execStatus (m : Master) (operands : List Byte) (s : State) : Result :=
  serve .status m operands (statusAnswer m operands) s

/-! ### READ CONFIG (R179) -/

/-- The four required strictnesses as mode codes (R179); that they stand M0 to M3 is the model's choice (log 33). -/
def encodePolicies (c : WorkingConfig) : List Byte := allMasters.map (fun m => c.strictness[m].code)

/-- One section of the working configuration, none for any other section (R179). The zone or input number is not
repeated (DEDUCED, log 14). -/
def State.configSection (s : State) (b : Byte) : Option (List Byte) :=
  match zoneOf b with
  | some z => some (encodeZoneConfig s.config.zones[z])
  | none =>
    match inputOf (b - 0x10) with
    | some i => some (encodeInputConfig s.config.inputs[i])
    | none => if b = 0x20 then some (encodePolicies s.config) else none

def readConfigAnswer (_ : Master) (operands : List Byte) (s : State) : Answer :=
  match operands with
  | [b] =>
    match s.configSection b with
    | some items => s.reply (items ++ [s.source.code])
    | none => s.refuse .range
  | _ => s.refuse .range

/-- READ CONFIG (R179). -/
def execReadConfig (m : Master) (operands : List Byte) (s : State) : Result :=
  serve .readConfig m operands (readConfigAnswer m operands) s

/-! ### Configuration writes (R177, R178) -/

/-- The device-state check that the configuration writes and COMMIT share (R177, check 1). -/
def DeviceState.writeRefusal : DeviceState → Option Status
  | .operational => some .wrongState
  | .storing _ _ => some .busy
  | _ => none

/-- The configuration request goes on only where the device state lets it (R177, check 1). -/
def State.configurable (s : State) (k : Unit → Answer) : Answer :=
  match s.device.writeRefusal with
  | some st => s.refuse st
  | none => k ()

/-- The monitor when the check time of a driven zone is rewritten (R126); an unchanged check time leaves it. -/
def Zone.retimed (old new : Byte) (now : TimeCount) (r : Zone) : Zone :=
  match r.driven with
  | some v => if old = new then r else { r with monitor := freshMonitor new now v r.sensed }
  | none => r

/-- WRITE ZONE CONFIG when taken (R177): the configuration whole, then the check time, then the fallback value (R126). -/
def State.writeZoneConfig (s : State) (z : ZoneId) (c : ZoneConfig) : State :=
  let r := s.zones[z].retimed s.config.zones[z].checkTime c.checkTime s.timeCount
  (s.withZoneConfig z c).putZone z { r with commanded := c.fallback }

/-- The checks of WRITE ZONE CONFIG in R177's order. -/
def writeZoneConfigAnswer (_ : Master) (operands : List Byte) (s : State) : Answer :=
  s.configurable fun _ =>
    match operands with
    | zb :: rest =>
      s.onZone zb fun z =>
        match s.zones[z].authority with
        | .vacant =>
          match zoneConfigOf rest with
          | some c => (s.writeZoneConfig z c).reply []
          | none => s.refuse .range
        | _ => s.refuse .wrongState
    | [] => s.refuse .range

/-- WRITE ZONE CONFIG (R177). -/
def execWriteZoneConfig (m : Master) (operands : List Byte) (s : State) : Result :=
  serve .writeZoneConfig m operands (writeZoneConfigAnswer m operands) s

/-- WRITE INPUT CONFIG when taken (R178, R138). -/
def State.writeInputConfig (s : State) (i : InputId) (c : InputConfig) : State :=
  ((s.withInputConfig i c).establish i).refresh i

/-- The checks of WRITE INPUT CONFIG in R178's order. -/
def writeInputConfigAnswer (_ : Master) (operands : List Byte) (s : State) : Answer :=
  s.configurable fun _ =>
    match operands with
    | ib :: rest =>
      match inputOf ib, inputConfigOf rest with
      | some i, some c => (s.writeInputConfig i c).reply []
      | _, _ => s.refuse .range
    | [] => s.refuse .range

/-- WRITE INPUT CONFIG (R178). -/
def execWriteInputConfig (m : Master) (operands : List Byte) (s : State) : Result :=
  serve .writeInputConfig m operands (writeInputConfigAnswer m operands) s

/-- The checks of WRITE MASTER POLICY in R178's order. -/
def writeMasterPolicyAnswer (_ : Master) (operands : List Byte) (s : State) : Answer :=
  s.configurable fun _ =>
    match operands with
    | [mb, code] =>
      match masterOf mb with
      | none => s.refuse .range
      | some n =>
        match modeOf code with
        | none => s.refuse .codeError
        | some mode => (s.withStrictness n mode).reply []
    | _ => s.refuse .range

/-- WRITE MASTER POLICY (R178). -/
def execWriteMasterPolicy (m : Master) (operands : List Byte) (s : State) : Result :=
  serve .writeMasterPolicy m operands (writeMasterPolicyAnswer m operands) s

/-! ### COMMIT and the store write (R180) -/

/-- Every zone is VACANT (R180, check 2). -/
def State.allVacant (s : State) : Bool := allZones.all (fun z => decide (s.zones[z].authority = .vacant))

/-- COMMIT when taken (R180): STORING, with the image of this moment; the store is invalidated before it is rewritten. -/
def State.commit (s : State) (m : Master) : State :=
  (s.withDevice (.storing m (imageOf s.config true))).withStore .invalidated (some .corrupt)

/-- The checks of COMMIT in R180's order. -/
def commitAnswer (m : Master) (_ : List Byte) (s : State) : Answer :=
  s.configurable fun _ => if s.allVacant then (s.commit m).reply [] else s.refuse .wrongState

/-- COMMIT (R180). -/
def execCommit (m : Master) (operands : List Byte) (s : State) : Result :=
  serve .commit m operands (commitAnswer m operands) s

/-- The end of the store write, in STORING (R180): a match restarts the part on the new image, a mismatch returns it to
COMMISSIONING with STORE_FAILED for the committing master. In any other device state there is no such event. -/
def State.storeWriteEnd (s : State) (verified : Bool) (cfg : Level) : State :=
  match s.device with
  | .storing m image =>
    if verified then (s.withStore (.image image) (some .valid)).restart .commitRestart cfg
    else (s.withDevice .commissioning).signal m .storeFailed
  | _ => s

/-- STORE_WRITE_END (R180). -/
def execStoreWriteEnd (verified : Bool) (cfg : Level) (s : State) : Result := .next (s.storeWriteEnd verified cfg)

end Sys2Proof.Machine
end

