-- ==== Sys2Proof/Machine/Zones.lean ====
section
/-! DEFINITION. The zone requests (R13 to R22): CLAIM, RELEASE, SET OUTPUT, READ ZONE and READ ZONE CHANGES. -/

namespace Sys2Proof.Machine

/-! ### CLAIM (R14, R15) -/

/-- CLAIM when taken from VACANT (R15). -/
def State.claim (s : State) (z : ZoneId) (m : Master) : State := s.setAuthority z (.held m) (s.fallback z)

/-- The checks of CLAIM in R14's order. -/
def claimAnswer (m : Master) (operands : List Byte) (s : State) : Answer :=
  match operands with
  | [zb] =>
    if s.device.isStoring then s.refuse .busy
    else
      s.onZone zb fun z =>
        if !s.permits z m then s.refuse .notPermitted
        else if s.sessions[m].strike then s.refuse .strikePending
        else
          match s.zones[z].authority with
          | .faulted => s.refuse .zoneFaulted
          | .transfer _ _ => s.refuse .zoneBusy
          | .settling _ => s.refuse .zoneBusy
          | .dark => s.refuse .wrongState
          | .held h =>
            if h = m then s.reply (encodeEpoch s.zones[z].epoch) else s.refuse .heldByOther
          | .vacant => (s.claim z m).reply (encodeEpoch (s.claim z m).zones[z].epoch)
  | _ => s.refuse .range

/-- CLAIM (R14). -/
def execClaim (m : Master) (operands : List Byte) (s : State) : Result :=
  serve .claim m operands (claimAnswer m operands) s

/-! ### RELEASE (R17, R18, R59) -/

/-- RELEASE when taken from HELD (R18): the releaser's entries go silently. -/
def State.releaseHeld (s : State) (z : ZoneId) (m : Master) : State :=
  (s.setAuthority z .vacant (s.fallback z)).removeEntries (Entry.isOf m z)

/-- RELEASE when taken from TRANSFER (R59): a yield to the requester, the releaser's entries going silently. -/
def State.releaseTransfer (s : State) (z : ZoneId) (m requester : Master) : State :=
  ((s.transferTo z requester).removeEntries (Entry.isOf m z)).tellGranted z requester .granted .handover

/-- The checks of RELEASE in R17's order. -/
def releaseAnswer (m : Master) (operands : List Byte) (s : State) : Answer :=
  match operands with
  | [zb] =>
    s.onZone zb fun z =>
      if !s.holds m z then s.refuse .notHolder
      else
        let t :=
          match s.zones[z].authority.request with
          | some p => s.releaseTransfer z m p.requester
          | none => s.releaseHeld z m
        t.reply (encodeEpoch t.zones[z].epoch ++ [byteOf (s.entriesFor m z)])
  | _ => s.refuse .range

/-- RELEASE (R17). -/
def execRelease (m : Master) (operands : List Byte) (s : State) : Result :=
  serve .release m operands (releaseAnswer m operands) s

/-! ### SET OUTPUT (R19, R20) -/

/-- The checks of SET OUTPUT in R19's order. -/
def setOutputAnswer (m : Master) (operands : List Byte) (s : State) : Answer :=
  match operands with
  | [zb, vb] =>
    s.onZone zb fun z =>
      match valueOf vb with
      | none => s.refuse .range
      | some v =>
        if !s.holds m z then s.refuse .notHolder
        else if s.zones[z].inhibit ≠ 0 then s.refuse .inhibited
        else (s.setCommanded z v).reply (encodeEpoch s.zones[z].epoch ++ [encodeValue v])
  | _ => s.refuse .range

/-- SET OUTPUT (R19). -/
def execSetOutput (m : Master) (operands : List Byte) (s : State) : Result :=
  serve .setOutput m operands (setOutputAnswer m operands) s

/-! ### READ ZONE and READ ZONE CHANGES (R21, R22) -/

def readZoneAnswer (_ : Master) (operands : List Byte) (s : State) : Answer :=
  match operands with
  | [zb] => s.onZone zb fun z => s.reply (s.zoneView z)
  | _ => s.refuse .range

/-- READ ZONE (R21). -/
def execReadZone (m : Master) (operands : List Byte) (s : State) : Result :=
  serve .readZone m operands (readZoneAnswer m operands) s

/-- The change set before the request, then state, holder and epoch of all eight zones; the set is emptied (R22). That
the zones stand Z0 to Z7, four bytes each, is the model's choice (log 27). -/
def readZoneChangesAnswer (m : Master) (_ : List Byte) (s : State) : Answer :=
  (s.withChangeSet m 0).reply (s.changeSets[m] :: allZones.flatMap s.zoneSummary)

/-- READ ZONE CHANGES (R22). -/
def execReadZoneChanges (m : Master) (operands : List Byte) (s : State) : Result :=
  serve .readZoneChanges m operands (readZoneChangesAnswer m operands) s

end Sys2Proof.Machine
end

