-- ==== Sys2Proof/Machine/Dispatch.lean ====
section
/-! DEFINITION. One arm per command, in the order of spec/opcode_table.json. -/

namespace Sys2Proof.Machine

/-- The effect of a command on everything but the queue of commands. -/
def exec (i : Instr) (s : State) : Host.Outcome State Fault Refusal :=
  match i with
  | .transactionBegin port => Sys2Proof.Machine.execTransactionBegin port s
  | .transactionEnd port received strayBits => Sys2Proof.Machine.execTransactionEnd port received strayBits s
  | .nop port operands => Sys2Proof.Machine.execNop port operands s
  | .status port operands => Sys2Proof.Machine.execStatus port operands s
  | .attach port operands => Sys2Proof.Machine.execAttach port operands s
  | .detach port operands => Sys2Proof.Machine.execDetach port operands s
  | .park port operands => Sys2Proof.Machine.execPark port operands s
  | .unpark port operands => Sys2Proof.Machine.execUnpark port operands s
  | .renew port operands => Sys2Proof.Machine.execRenew port operands s
  | .supervise port operands => Sys2Proof.Machine.execSupervise port operands s
  | .claim port operands => Sys2Proof.Machine.execClaim port operands s
  | .release port operands => Sys2Proof.Machine.execRelease port operands s
  | .setOutput port operands => Sys2Proof.Machine.execSetOutput port operands s
  | .readZone port operands => Sys2Proof.Machine.execReadZone port operands s
  | .readZoneChanges port operands => Sys2Proof.Machine.execReadZoneChanges port operands s
  | .clearFault port operands => Sys2Proof.Machine.execClearFault port operands s
  | .requestHandover port operands => Sys2Proof.Machine.execRequestHandover port operands s
  | .withdraw port operands => Sys2Proof.Machine.execWithdraw port operands s
  | .yield port operands => Sys2Proof.Machine.execYield port operands s
  | .refuse port operands => Sys2Proof.Machine.execRefuse port operands s
  | .readTime port operands => Sys2Proof.Machine.execReadTime port operands s
  | .postAction port operands => Sys2Proof.Machine.execPostAction port operands s
  | .postSequence port operands => Sys2Proof.Machine.execPostSequence port operands s
  | .cancelTag port operands => Sys2Proof.Machine.execCancelTag port operands s
  | .cancelZone port operands => Sys2Proof.Machine.execCancelZone port operands s
  | .readQueue port operands => Sys2Proof.Machine.execReadQueue port operands s
  | .writeSteps port operands => Sys2Proof.Machine.execWriteSteps port operands s
  | .readSteps port operands => Sys2Proof.Machine.execReadSteps port operands s
  | .readInputs port operands => Sys2Proof.Machine.execReadInputs port operands s
  | .readCaptures port operands => Sys2Proof.Machine.execReadCaptures port operands s
  | .readFlags port operands => Sys2Proof.Machine.execReadFlags port operands s
  | .acknowledge port operands => Sys2Proof.Machine.execAcknowledge port operands s
  | .setEnables port operands => Sys2Proof.Machine.execSetEnables port operands s
  | .readConfig port operands => Sys2Proof.Machine.execReadConfig port operands s
  | .writeZoneConfig port operands => Sys2Proof.Machine.execWriteZoneConfig port operands s
  | .writeInputConfig port operands => Sys2Proof.Machine.execWriteInputConfig port operands s
  | .writeMasterPolicy port operands => Sys2Proof.Machine.execWriteMasterPolicy port operands s
  | .commit port operands => Sys2Proof.Machine.execCommit port operands s
  | .storeWriteEnd verified cfg => Sys2Proof.Machine.execStoreWriteEnd verified cfg s
  | .powerOn cfg => Sys2Proof.Machine.execPowerOn cfg s
  | .resetPin cfg => Sys2Proof.Machine.execResetPin cfg s
  | .startUpDecision => Sys2Proof.Machine.execStartUpDecision s
  | .supervisionExpiry master => Sys2Proof.Machine.execSupervisionExpiry master s
  | .windowOpen master => Sys2Proof.Machine.execWindowOpen master s
  | .handoverTimeout zone => Sys2Proof.Machine.execHandoverTimeout zone s
  | .settleExpiry zone => Sys2Proof.Machine.execSettleExpiry zone s
  | .sensedValueChange zone sensed => Sys2Proof.Machine.execSensedValueChange zone sensed s
  | .readbackCheckExpiry zone => Sys2Proof.Machine.execReadbackCheckExpiry zone s
  | .dueEvent => Sys2Proof.Machine.execDueEvent s
  | .firstRecognition input => Sys2Proof.Machine.execFirstRecognition input s
  | .recognisedChange input => Sys2Proof.Machine.execRecognisedChange input s
  | .rawLevelChange input level => Sys2Proof.Machine.execRawLevelChange input level s
  | .timeCountAdvance => Sys2Proof.Machine.execTimeCountAdvance s

end Sys2Proof.Machine
end

