-- ==== Sys2Proof/Safety.lean ====
section
/-! DEFINITION. What statements about the part are made of: the row of each request, what serving it leaves at the
ports, what a change of a zone's state or holder does to change sets, flags and AUTO timers, and the invariants that
every step keeps. -/

namespace Sys2Proof.Machine

/-! ### Requests -/

/-- The row of spec/opcode_table.json that stands for the service of a request. -/
def Command.row (m : Master) (operands : List Byte) : Command → Instr
  | .nop => .nop m operands
  | .status => .status m operands
  | .attach => .attach m operands
  | .detach => .detach m operands
  | .park => .park m operands
  | .unpark => .unpark m operands
  | .renew => .renew m operands
  | .supervise => .supervise m operands
  | .claim => .claim m operands
  | .release => .release m operands
  | .setOutput => .setOutput m operands
  | .readZone => .readZone m operands
  | .readZoneChanges => .readZoneChanges m operands
  | .clearFault => .clearFault m operands
  | .requestHandover => .requestHandover m operands
  | .withdraw => .withdraw m operands
  | .yield => .yield m operands
  | .refuse => .refuse m operands
  | .readTime => .readTime m operands
  | .postAction => .postAction m operands
  | .postSequence => .postSequence m operands
  | .cancelTag => .cancelTag m operands
  | .cancelZone => .cancelZone m operands
  | .readQueue => .readQueue m operands
  | .writeSteps => .writeSteps m operands
  | .readSteps => .readSteps m operands
  | .readInputs => .readInputs m operands
  | .readCaptures => .readCaptures m operands
  | .readFlags => .readFlags m operands
  | .acknowledge => .acknowledge m operands
  | .setEnables => .setEnables m operands
  | .readConfig => .readConfig m operands
  | .writeZoneConfig => .writeZoneConfig m operands
  | .writeInputConfig => .writeInputConfig m operands
  | .writeMasterPolicy => .writeMasterPolicy m operands
  | .commit => .commit m operands

/-- The request waits at the port, it is its turn, and it passes the gating of R166: its own checks are next. -/
def State.serves (s : State) (m : Master) (c : Command) (operands : List Byte) : Prop :=
  s.ready m c operands = true ∧ s.gate m c operands = none

/-- The part of the authority table controller in a service (R167): a request it served leaves this port as the one
served last, and the next in turn chosen; any other request leaves both as they were. -/
def Turn (s t : State) (m : Master) (c : Command) : Prop :=
  if c.atTable then t.lastServed = m ∧ t.chosen = t.nextInTurn m
  else t.lastServed = s.lastServed ∧ t.chosen = s.chosen

/-- What serving a request leaves at the ports (R163, R164): the response in this port's buffer, the port IDLE, the
other ports as they were, and the turn passed on. -/
def Answered (s t : State) (m : Master) (c : Command) (st : Status) (payload : List Byte) : Prop :=
  t.ports = s.ports.set m { s.ports[m] with phase := .idle, buffer := ⟨st, c.id, payload⟩ } ∧ Turn s t m c

/-- Nothing but the ports and the turn differs. -/
def OnlyAnswered (s t : State) : Prop :=
  t = { s with ports := t.ports, lastServed := t.lastServed, chosen := t.chosen }

/-- Nothing but the zone records, the change sets, the AUTO timers, the flags and the ports differs. -/
def OnlyTable (s t : State) : Prop :=
  t = { s with zones := t.zones, changeSets := t.changeSets, sessions := t.sessions, attention := t.attention,
               ports := t.ports, lastServed := t.lastServed, chosen := t.chosen }

/-- As `OnlyTable`, with the queue. -/
def OnlyTableAndQueue (s t : State) : Prop :=
  t = { s with zones := t.zones, changeSets := t.changeSets, sessions := t.sessions, attention := t.attention,
               queue := t.queue, ports := t.ports, lastServed := t.lastServed, chosen := t.chosen }

/-- As `OnlyTableAndQueue`, with the ring: what a session end reaches (R45). -/
def OnlySessionEnd (s t : State) : Prop :=
  t = { s with zones := t.zones, changeSets := t.changeSets, sessions := t.sessions, attention := t.attention,
               queue := t.queue, ring := t.ring, ports := t.ports, lastServed := t.lastServed, chosen := t.chosen }

/-! ### Resets -/

/-- What a reset leaves (R175): the after-reset values of every block, the store as given, the cause, the level of CFG;
the levels of the pins and the commands that wait are as they were. -/
def AfterReset (s t : State) (cause : ResetCause) (cfg : Level) (store : StoreImage) : Prop :=
  t.timeCount = 0 ∧ t.queue = [] ∧ t.ring = [] ∧ t.nextSerial = 0 ∧ t.device = .starting ∧ t.resetCause = cause ∧
    t.cfg = cfg ∧ t.store = store ∧ t.startupStore = none ∧ t.presentStore = none ∧ t.lastServed = 3 ∧
    t.chosen = none ∧ t.config = .default ∧ t.pending = s.pending ∧
    (∀ (m : Master) (k : StepIndex), t.banks[m][k] = .afterReset) ∧
    (∀ z : ZoneId, t.zones[z] = .afterReset s.zones[z].sensed) ∧
    (∀ i : InputId, t.inputs[i] = .afterReset s.inputs[i].raw) ∧
    ∀ m : Master, t.sessions[m] = .afterReset ∧ t.attention[m] = .afterReset ∧ t.changeSets[m] = 0 ∧
      t.ports[m] = .afterReset s.ports[m].cs

/-! ### Reports -/

/-- The attention state of a master after these events, one after another; a DETACHED master is told nothing (R152,
R154). -/
def State.told (s : State) (n : Master) (events : List Signal) : Attention :=
  if s.sessions[n].standing = .detached then s.attention[n] else events.foldl Attention.after s.attention[n]

/-- The change set of a master gains the zones that moved, if it is ATTACHED (R9). -/
def GainsZones (s t : State) (n : Master) (moved : ZoneId → Bool) : Prop :=
  ∀ z : ZoneId, t.changeSets[n].getLsbD z.val = (s.changeSets[n].getLsbD z.val || (s.isAttached n && moved z))

/-- ZONES_CHANGED for an ATTACHED master whose change set was empty, if a zone moved (R9). -/
def State.changeReport (s : State) (n : Master) (moved : ZoneId → Bool) : List Signal :=
  if s.isAttached n = true ∧ s.changeSets[n] = 0 ∧ allZones.any moved = true then [.zonesChanged] else []

/-- ACTION_DROPPED with reason LOST_ZONE for each entry of `m` for the zone, in queue order (R101). -/
def State.removalReports (s : State) (m : Master) (z : ZoneId) : List Signal :=
  (s.queue.filter (Entry.isOf m z)).map fun e => .actionDropped e.tag e.zone .lostZone

/-! ### Driving -/

/-- The monitor's response to the lines going from `u` to `v` (R125): none where they are equal; a running check timer
restarts, or stops where the sensed value is `v`; a stopped one waits for the next comparison. -/
def Monitor.respond (now : TimeCount) (sensed u v : Value) (m : Monitor) : Monitor :=
  if u = v then m
  else
    match m with
    | .checking _ _ => if sensed = v then .matching else .checking now (sensed ^^^ v)
    | other => other

/-- The monitor after the lines have driven these values in turn, from `u` on (R125). -/
def Monitor.respondAll (now : TimeCount) (sensed : Value) : Value → List Value → Monitor → Monitor
  | _, [], m => m
  | u, v :: rest, m => Monitor.respondAll now sensed v rest (m.respond now sensed u v)

/-- The lines of the zone have come to drive `v`, and the monitor has responded: as to a change of the driven value, or
fresh where driving began (R125). -/
def Redriven (s t : State) (z : ZoneId) (v : Value) : Prop :=
  t.zones[z].driven = some v ∧
    (∀ u, s.zones[z].driven = some u →
      t.zones[z].monitor = s.zones[z].monitor.respond s.timeCount s.zones[z].sensed u v) ∧
    (s.zones[z].driven = none →
      t.zones[z].monitor = freshMonitor s.config.zones[z].checkTime s.timeCount v s.zones[z].sensed)

/-- The sensed value of the zone is as it was, and so are its lines and its monitor where it drove by the law of driving
(R120, R125). -/
def LinesKept (s t : State) (z : ZoneId) : Prop :=
  t.zones[z].sensed = s.zones[z].sensed ∧
    (s.zones[z].driven = drivenBy s.zones[z].authority s.zones[z].commanded (s.fallback z) s.zones[z].inhibit →
      t.zones[z].driven = s.zones[z].driven ∧ t.zones[z].monitor = s.zones[z].monitor)

/-! ### A change of a zone's state or holder -/

/-- The change set of a master after a change of a zone (R9). -/
def State.notedSet (s : State) (z : ZoneId) (n : Master) : ZoneSet :=
  if s.isAttached n then s.changeSets[n] ||| BitVec.twoPow 8 z.val else s.changeSets[n]

/-- The attention state of a master after a change of a zone (R9): ZONES_CHANGED if its set was empty. -/
def State.noted (s : State) (n : Master) : Attention :=
  if s.isAttached n ∧ s.changeSets[n] = 0 then s.attention[n].after .zonesChanged else s.attention[n]

/-- A session record after its held-zone count went from `before` to `after` (R28). -/
def Session.counted (before after : Nat) (now : TimeCount) (r : Session) : Session :=
  if r.mode = .auto then
    if before = 0 ∧ after ≠ 0 then { r with timer := .running now }
    else if before ≠ 0 ∧ after = 0 then { r with timer := .stopped }
    else r
  else r

/-- The AUTO timers follow the held-zone counts, and no session record changes otherwise (R28). -/
def TimersFollow (s t : State) : Prop :=
  ∀ n : Master, t.sessions[n] = s.sessions[n].counted (s.heldCount n) (t.heldCount n) s.timeCount

/-- A change of zone `z` has reached every master's change set (R9). -/
def SetsFollow (s t : State) (z : ZoneId) : Prop := ∀ n : Master, t.changeSets[n] = s.notedSet z n

/-- The attention state of a master after reports of removed entries, one after another (R101). -/
def reportedLost (n : Master) (a : Attention) : List Entry → Attention
  | [] => a
  | e :: rest =>
    reportedLost n (if e.poster = n then a.after (.actionDropped e.tag e.zone .lostZone) else a) rest

/-- Every other zone record is as it was. -/
def OtherZonesKept (s t : State) (z : ZoneId) : Prop := ∀ y : ZoneId, y ≠ z → t.zones[y] = s.zones[y]

/-! ### Inhibits -/

/-- The memberships of an input follow its state after the event at every zone, and each zone takes the change as R149
and R150 give: at a start the commanded value becomes the fallback value, at an end it stays (R148). The lines drive by
the law of driving, and the monitor responds (R120, R125). -/
def InhibitFollows (s t : State) (i : InputId) : Prop :=
  ∀ z : ZoneId,
    (∀ j : InputId,
      t.zones[z].inhibit.getLsbD j.val = if j = i then t.inhibits i z else s.zones[z].inhibit.getLsbD j.val) ∧
      t.zones[z].authority = s.zones[z].authority ∧ t.zones[z].epoch = s.zones[z].epoch ∧
      t.zones[z].commanded =
        (if s.zones[z].inhibit = 0 ∧ t.zones[z].inhibit ≠ 0 then s.fallback z else s.zones[z].commanded) ∧
      t.zones[z].sensed = s.zones[z].sensed ∧
      t.zones[z].driven =
        drivenBy s.zones[z].authority t.zones[z].commanded (s.fallback z) t.zones[z].inhibit ∧
      ∀ v, t.zones[z].driven = some v → Redriven s t z v

/-- INHIBIT_CHANGE for `n` from each zone it holds whose inhibit has started or ended (R149, R150). -/
def State.inhibitReports (s t : State) (n : Master) : List Signal :=
  allZones.flatMap fun z =>
    if s.holds n z = true ∧ ¬ (s.zones[z].inhibit = 0 ↔ t.zones[z].inhibit = 0) then [.inhibitChange] else []

/-! ### Captures -/

/-- An append to the full ring removes the record that the cursor of `n` is at (R143). -/
def State.overrun (s : State) (n : Master) : Bool :=
  match s.ring with
  | [] => false
  | oldest :: _ => decide (64 ≤ s.ring.length ∧ s.sessions[n].standing = .attached oldest.serial)

/-- The session of `n` after an append (R143): a cursor at a removed record has moved to the next. -/
def State.sessionAfterAppend (s : State) (n : Master) : Session :=
  match s.ring with
  | [] => s.sessions[n]
  | oldest :: _ =>
    if s.overrun n then { s.sessions[n] with standing := .attached (oldest.serial + 1) } else s.sessions[n]

/-- What `n` is told when a record of the input is appended (R143, R144). -/
def State.captureReports (s : State) (i : InputId) (n : Master) : List Signal :=
  (if s.overrun n then [.captureGap] else []) ++
    if s.isAttached n && s.attention[n].notifyMask.getLsbD i.val then [.captureAvailable] else []

/-! ### Session ends and strikes -/

/-- What a session end of `m` makes of a zone, in the state in which `m` is no longer ATTACHED (R68, R71, R72, R60, R78,
R79). -/
def State.endedAuthority (s : State) (m : Master) (z : ZoneId) : Authority :=
  match s.zones[z].authority with
  | .held h => if h = m then settledBy (s.choose z 0) else .held h
  | .transfer h p =>
    if h = m then .settling ⟨p.requester, .requester, s.timeCount, s.config.zones[z].settleTime⟩
    else if p.requester = m then .held h
    else .transfer h p
  | .settling c => if c.master = m then settledBy (s.choose z c.origin.resume) else .settling c
  | a => a

/-- The commanded value after the part a master plays at a zone has ended. -/
def State.endedCommanded (s : State) (m : Master) (z : ZoneId) : Value :=
  if s.holds m z = true ∨ s.isCandidate m z = true then s.fallback z else s.zones[z].commanded

/-- What a strike against `m` makes of a zone, in the state in which the strike is pending (R12, R60, R78, R79). -/
def State.struckAuthority (s : State) (m : Master) (z : ZoneId) : Authority :=
  match s.zones[z].authority with
  | .transfer h p => if p.requester = m then .held h else .transfer h p
  | .settling c => if c.master = m then settledBy (s.choose z c.origin.resume) else .settling c
  | a => a

/-- The epoch steps by one exactly when the holder differs (R7). -/
def EpochFollows (s t : State) (z : ZoneId) : Prop :=
  t.zones[z].epoch =
    if s.zones[z].authority.holder = t.zones[z].authority.holder then s.zones[z].epoch else s.zones[z].epoch + 1

/-- The master is holder, requester or candidate of the zone. -/
def State.playsAt (s : State) (m : Master) (z : ZoneId) : Bool := s.holds m z || s.requests m z || s.isCandidate m z

/-- What `n` is told when the request of `m` for the zone is dropped (R60): the holder WITHDRAWN, the requester DROPPED. -/
def State.dropReports (s : State) (m : Master) (z : ZoneId) (n : Master) : List Signal :=
  match s.zones[z].authority with
  | .transfer h p =>
    if p.requester = m then
      (if n = h then [.handoverAsked z m .withdrawn] else []) ++ if n = m then [.handoverResult z .dropped] else []
    else []
  | _ => []

/-- What `n` is told when `m` loses the zone at its session end: the requester SUCCESSION (R61), the loser its removed
entries and LOST with cause REVOKED (R69, R101), a PARKED master of the succession list WAKE_REQUEST (R83). -/
def State.lossReports (s : State) (m : Master) (z : ZoneId) (n : Master) : List Signal :=
  (if s.zones[z].authority.request.map (·.requester) = some n then [.handoverResult z .succession] else []) ++
    (if n = m then s.removalReports m z ++ [.lost z .revoked] else []) ++
    if n ∈ s.config.zones[z].succession ∧ s.sessions[n].standing.isParked = true then [.wakeRequest] else []

/-- What `n` is told at one zone when the session of `m` ends. -/
def State.endReports (s : State) (m : Master) (n : Master) (z : ZoneId) : List Signal :=
  if s.holds m z then s.lossReports m z n else s.dropReports m z n

/-- The zone's state or holder changes at the session end of `m`. -/
def State.movedByEnd (s : State) (m : Master) (z : ZoneId) : Bool :=
  s.zones[z].authority.moves (s.endedAuthority m z)

/-- All that `n` is told when the session of `m` ends: its change set filled (R9), the zones Z0 to Z7 (R82), entries of
`m` left for a zone it does not hold (R45). -/
def State.sessionEndReports (s : State) (m n : Master) : List Signal :=
  s.changeReport n (s.movedByEnd m) ++ allZones.flatMap (s.endReports m n) ++
    if n = m then
      (s.queue.filter fun e => decide (e.poster = m) && !s.holds m e.zone).map fun e =>
        .actionDropped e.tag e.zone .lostZone
    else []

/-- The ring frees from its oldest end what no ATTACHED master's cursor is at or before, and nothing else (R141, R142). -/
def RingFreed (s t : State) : Prop :=
  ∃ freed, s.ring = freed ++ t.ring ∧
    ∀ oldest ∈ s.ring.head?,
      (∀ r ∈ freed, t.needs oldest.serial r.serial = false) ∧
        ∀ r ∈ t.ring.head?, t.needs oldest.serial r.serial = true

/-- The whole of a session end (R45), from `s`, in which `m` is no longer ATTACHED, to `t`: the zones `m` played a part
at and their lines, an expired check timer restarted or stopped with them (log 32), the queue, the ring, and the other
masters' change sets, flags, records and sessions. -/
def SessionEnds (s t : State) (m : Master) : Prop :=
  (∀ z : ZoneId,
    t.zones[z].authority = s.endedAuthority m z ∧ EpochFollows s t z ∧
      t.zones[z].commanded = s.endedCommanded m z ∧ t.zones[z].inhibit = s.zones[z].inhibit ∧
      t.zones[z].sensed = s.zones[z].sensed ∧
      (s.playsAt m z = true →
        ∀ v, drivenBy (s.endedAuthority m z) (s.endedCommanded m z) (s.fallback z) s.zones[z].inhibit = some v →
          Redriven s t z v) ∧
      (s.playsAt m z = false → t.zones[z] = s.zones[z])) ∧
    t.queue = s.queue.filter (fun e => decide (e.poster ≠ m)) ∧ RingFreed s t ∧
    ∀ n : Master, n ≠ m →
      t.sessions[n] = s.sessions[n] ∧ GainsZones s t n (s.movedByEnd m) ∧
        t.attention[n] = s.told n (s.sessionEndReports m n)

/-- The state in which the revocation of `m` is recorded in its session (R44). -/
def State.withRevoked (s : State) (m : Master) (reason : RevokeReason) : State :=
  s.withSession m { s.sessions[m] with standing := .revoked, timer := .stopped, revokeReason := some reason }

/-- A revocation of `m` for this reason (R44): its session record, REVOKED with its record before all else that it is
told, and the session end. -/
def Revokes (s t : State) (m : Master) (reason : RevokeReason) : Prop :=
  SessionEnds (s.withRevoked m reason) t m ∧
    t.sessions[m] = { s.sessions[m] with standing := .revoked, timer := .stopped, revokeReason := some reason } ∧
    t.attention[m] =
      (s.withRevoked m reason).told m (.revoked reason :: (s.withRevoked m reason).sessionEndReports m m) ∧
    Flag.revoked.mem t.attention[m].flags = true ∧ t.attention[m].revoke = some reason ∧
    t.changeSets[m] = s.changeSets[m]

/-- The state in which the strike against `m` is recorded (R30). -/
def State.withStrike (s : State) (m : Master) : State := s.withSession m { s.sessions[m] with strike := true }

/-- The zone's state or holder changes at the strike against `m`. -/
def State.movedByStrike (s : State) (m : Master) (z : ZoneId) : Bool :=
  s.zones[z].authority.moves ((s.withStrike m).struckAuthority m z)

/-- A strike against `m` (R30): its mark and flag; its requests and candidacies dropped, with their holders and itself
told (R12, R60, R78, R79); every other session, the queue and the ring as they were. -/
def Strikes (s t : State) (m : Master) : Prop :=
  (∀ z : ZoneId,
    t.zones[z].authority = (s.withStrike m).struckAuthority m z ∧ t.zones[z].epoch = s.zones[z].epoch ∧
      t.zones[z].commanded = (if s.isCandidate m z = true then s.fallback z else s.zones[z].commanded) ∧
      t.zones[z].inhibit = s.zones[z].inhibit ∧ t.zones[z].sensed = s.zones[z].sensed ∧
      (s.requests m z = true ∨ s.isCandidate m z = true →
        ∀ v, drivenBy ((s.withStrike m).struckAuthority m z) t.zones[z].commanded (s.fallback z)
            s.zones[z].inhibit = some v → Redriven s t z v) ∧
      (s.requests m z = false → s.isCandidate m z = false → t.zones[z] = s.zones[z])) ∧
    t.sessions[m] = { s.sessions[m] with strike := true, timer := t.sessions[m].timer } ∧
    (∀ n : Master, n ≠ m → t.sessions[n] = s.sessions[n]) ∧ t.queue = s.queue ∧ t.ring = s.ring ∧
    (∀ n : Master, GainsZones s t n (s.movedByStrike m)) ∧
    (∀ n : Master,
      t.attention[n] =
        s.told n
          (s.changeReport n (s.movedByStrike m) ++ (if n = m then [.supervisionWarning] else []) ++
            allZones.flatMap fun z => s.dropReports m z n)) ∧
    Flag.supervisionWarning.mem t.attention[m].flags = true

/-! ### Faults -/

/-- What `n` is told when the zone faults (R62, R127, R128): the holder its removed entries and LOST with cause FAULT,
the requester DROPPED, and every ATTACHED master of the permitted set, no other, ZONE_FAULT. -/
def State.faultReports (s : State) (n : Master) (z : ZoneId) : List Signal :=
  (if s.holds n z then s.removalReports n z ++ [.lost z .fault] else []) ++
    (if s.requests n z then [.handoverResult z .dropped] else []) ++
    if s.isAttached n && s.permits z n then [.zoneFault] else []

/-- The driven zones that are `hit`, and no other, enter FAULTED (R127, R128). -/
def Faults (s t : State) (hit : ZoneId → Bool) : Prop :=
  t = { s with zones := t.zones, changeSets := t.changeSets, sessions := t.sessions, attention := t.attention,
               queue := t.queue } ∧
    (∀ z : ZoneId,
      (hit z = true →
        t.zones[z].authority = .faulted ∧ t.zones[z].driven = none ∧ t.zones[z].commanded = s.fallback z ∧
          EpochFollows s t z ∧ t.zones[z].inhibit = s.zones[z].inhibit ∧ t.zones[z].sensed = s.zones[z].sensed ∧
          ∀ d, s.zones[z].driven = some d → t.zones[z].monitor = .fault ⟨d, s.zones[z].monitor.lines⟩) ∧
      (hit z = false → t.zones[z] = s.zones[z])) ∧
    t.queue = s.queue.filter (fun e => !(hit e.zone && s.holds e.poster e.zone)) ∧ TimersFollow s t ∧
    ∀ n : Master,
      GainsZones s t n hit ∧
        t.attention[n] =
          s.told n
            (s.changeReport n hit ++ allZones.flatMap fun z => if hit z then s.faultReports n z else [])

/-! ### Due entries -/

/-- The value an entry brings to its zone: its own, or its current step's (R97, R114). -/
def State.dueValue (s : State) (e : Entry) : Value :=
  match e.kind with
  | .single v _ => v
  | .sequence k => s.banks[e.poster][k].value

/-- What the poster of an entry is told when it is taken (R97, R98, R114 to R117). -/
def State.entryReports (s : State) (e : Entry) : List Signal :=
  if s.zones[e.zone].inhibit ≠ 0 then [.actionDropped e.tag e.zone .inhibited]
  else
    match e.kind with
    | .single _ notify => if notify then [.actionDone e.tag e.zone .applied] else []
    | .sequence k =>
      let r := s.banks[e.poster][k]
      (if r.notify then [.actionDone e.tag e.zone .step] else []) ++
        match r.link with
        | none => [.actionDone e.tag e.zone .sequenceEnd]
        | some _ => if e.due.toNat + r.delay.toNat < 2 ^ 48 then [] else [.actionDropped e.tag e.zone .timeEnd]

/-- The entry that a SEQUENCE entry is queued again as, if it goes on (R98, R116, R117). -/
def State.requeued (s : State) (e : Entry) : Option Entry :=
  match e.kind with
  | .single _ _ => none
  | .sequence k =>
    let r := s.banks[e.poster][k]
    match r.link with
    | none => none
    | some next =>
      if s.zones[e.zone].inhibit = 0 ∧ e.due.toNat + r.delay.toNat < 2 ^ 48 then
        some { e with due := e.due + r.delay.setWidth 48, kind := .sequence next }
      else none

/-- These entries have been taken, one after another (R96): the last at each zone that is not inhibited sets the value
the zone keeps; each poster is told in order, so that its records hold the last; the sequences that go on are queued
again in order. -/
def EntriesTaken (s t : State) (entries rest : List Entry) : Prop :=
  t = { s with zones := t.zones, queue := t.queue, attention := t.attention } ∧
    t.queue = (entries.filterMap s.requeued).foldl (fun q e => insertEntry e q) rest ∧
    (∀ n : Master,
      t.attention[n] = s.told n ((entries.filter fun e => decide (e.poster = n)).flatMap s.entryReports)) ∧
    ∀ z : ZoneId,
      let here := entries.filter fun e => decide (e.zone = z)
      (here = [] ∨ s.zones[z].inhibit ≠ 0 → t.zones[z] = s.zones[z]) ∧
        ∀ last ∈ here.getLast?, s.zones[z].inhibit = 0 →
          t.zones[z].commanded = s.dueValue last ∧ t.zones[z].authority = s.zones[z].authority ∧
            t.zones[z].epoch = s.zones[z].epoch ∧ t.zones[z].inhibit = s.zones[z].inhibit ∧
            t.zones[z].sensed = s.zones[z].sensed ∧
            t.zones[z].driven = drivenBy s.zones[z].authority (s.dueValue last) (s.fallback z) s.zones[z].inhibit ∧
            ∀ d, s.zones[z].driven = some d → s.zones[z].authority.holder.isSome = true →
              t.zones[z].monitor =
                s.zones[z].monitor.respondAll s.timeCount s.zones[z].sensed d (here.map s.dueValue)

/-! ### Invariants -/

/-- The device is in a state in which every zone is DARK and every master DETACHED (R4, R24). -/
def DeviceState.outOfService : DeviceState → Prop
  | .starting => True
  | .halted => True
  | _ => False

/-- The monitor is in a condition of R123's table. -/
def Monitor.Fits (r : Zone) (checkTime : Byte) : Monitor → Prop
  | .idle => r.authority = .dark
  | .off => r.driven.isSome ∧ checkTime = 0
  | .matching => r.driven.isSome ∧ checkTime ≠ 0
  | .checking _ l => checkTime ≠ 0 ∧ ∃ v, r.driven = some v ∧ r.sensed ≠ v ∧ l = r.sensed ^^^ v
  | .fault _ => r.authority = .faulted

/-- The zone drives as the law of driving says, and its monitor fits (R120, R123). -/
def ZoneDrives (s : State) (z : ZoneId) : Prop :=
  s.zones[z].driven =
      drivenBy s.zones[z].authority s.zones[z].commanded (s.fallback z) s.zones[z].inhibit ∧
    Monitor.Fits s.zones[z] s.config.zones[z].checkTime s.zones[z].monitor

/-- The law of driving (R120, R121, R123): every zone drives by it, and the zones are DARK exactly while the part is
out of service. -/
def LawOfDriving (s : State) : Prop :=
  ∀ z : ZoneId, ZoneDrives s z ∧ (s.zones[z].authority = .dark ↔ s.device.outOfService)

/-- The masters that a zone names have the standing it needs (R1, R5). -/
def ZoneStanding (s : State) (z : ZoneId) : Prop :=
  match s.zones[z].authority with
  | .held h => s.isAttached h = true ∧ s.permits z h = true
  | .transfer h p =>
    s.isAttached h = true ∧ s.permits z h = true ∧ s.eligible p.requester z = true ∧ p.requester ≠ h
  | .settling c => s.eligible c.master z = true
  | _ => True

/-- The law of the holder (R1, R5, R91): holders, requesters and candidates have the standing they need, and the poster
of every queue entry holds the entry's zone. -/
def LawOfHolder (s : State) : Prop :=
  (∀ z : ZoneId, ZoneStanding s z) ∧ ∀ e ∈ s.queue, s.holds e.poster e.zone = true

/-- A linked step has a delay of at least 1 µs (R107). -/
def BanksLinked (s : State) : Prop :=
  ∀ (m : Master) (k : StepIndex), s.banks[m][k].link.isSome → s.banks[m][k].delay ≠ 0

/-- The queue is in due-time order, every due time ahead of the count or equal to it with its due event still to come,
and the limits hold (R90, R91). -/
def LawOfQueue (s : State) : Prop :=
  s.queue.Pairwise (fun a b => a.due ≤ b.due) ∧ (∀ e ∈ s.queue, s.timeCount ≤ e.due) ∧
    s.queue.length ≤ queueCapacity ∧ (∀ m : Master, s.entryCount m ≤ queueQuota) ∧ BanksLinked s

/-- The serials of the ring count up to the one before the next serial (R141). -/
def serialsTo (next : Serial) : List CaptureRecord → Prop
  | [] => True
  | r :: rest => r.serial = next - BitVec.ofNat 32 (rest.length + 1) ∧ serialsTo next rest

/-- The law of the ring (R141): at most 64 records with consecutive serials; every cursor between the oldest serial
and the next; some ATTACHED master still needs the oldest record. -/
def LawOfRing (s : State) : Prop :=
  s.ring.length ≤ ringCapacity ∧ serialsTo s.nextSerial s.ring ∧
    (∀ (m : Master) (c : Serial), s.sessions[m].standing = .attached c → (s.nextSerial - c).toNat ≤ s.ring.length) ∧
    ∀ r ∈ s.ring.head?, ∃ m : Master, s.sessions[m].standing = .attached r.serial

/-- A DETACHED master has nothing (R24, R10, R152, R154). -/
def DetachedIsClear (s : State) (m : Master) : Prop :=
  s.sessions[m].standing = .detached →
    s.sessions[m] = .afterReset ∧ s.attention[m] = .afterReset ∧ s.changeSets[m] = 0

/-- The timer a session record has by its standing, mode and held-zone count (R26 to R29). -/
def TimerFits (r : Session) (heldZones : Nat) : Prop :=
  if r.standing.isAttached then
    match r.mode, r.timer with
    | .window, .closed _ => True
    | .window, .opened _ => True
    | .timeout, .running _ => True
    | .auto, .running _ => heldZones ≠ 0
    | .auto, .stopped => heldZones = 0
    | .off, .stopped => True
    | _, _ => False
  else r.timer = .stopped

/-- The law of supervision (R24, R29, R30): DETACHED masters have nothing, a strike comes with its warning flag, timers
run as the modes say, and in OPERATIONAL no session is in mode OFF. -/
def LawOfSupervision (s : State) : Prop :=
  ∀ m : Master,
    DetachedIsClear s m ∧
      (s.sessions[m].strike = true → Flag.supervisionWarning.mem s.attention[m].flags = true) ∧
      TimerFits s.sessions[m] (s.heldCount m) ∧
      (s.device.outOfService → s.sessions[m].standing = .detached) ∧
      (s.device = .operational → s.sessions[m].standing ≠ .detached → s.sessions[m].mode ≠ .off)

/-- The law of inhibits (R148, R6): out of service every input is DISABLED and every inhibit set empty; in service an
input is in a zone's inhibit set exactly when it forces the zone, and a zone with no holder or with an inhibit carries
its fallback value. -/
def LawOfInhibit (s : State) : Prop :=
  (s.device.outOfService → ∀ i : InputId, s.inputs[i].live = .disabled) ∧
    (∀ (z : ZoneId) (i : InputId), s.zones[z].inhibit.getLsbD i.val = s.inhibits i z) ∧
    ∀ z : ZoneId, s.zones[z].authority ≠ .dark → s.zones[z].authority.holder = none ∨ s.zones[z].inhibit ≠ 0 →
      s.zones[z].commanded = s.fallback z

/-- The law of the turn (R167): a request is chosen exactly while one waits for the authority table, and the chosen one
waits. -/
def LawOfTurn (s : State) : Prop :=
  (s.chosen = none ↔ ∀ q : Master, s.waitsAtTable q = false) ∧ ∀ q : Master, s.chosen = some q → s.waitsAtTable q = true

end Sys2Proof.Machine
end

