-- ==== Sys2Proof/Certificates/Slice0/Obligations.lean ====
section
/-! DEFINITION. The statements about the part, made from the manual's rules; OBLIGATIONS.json lists them. -/

open Sys2Proof Sys2Proof.Machine

/-! ### The queue of commands, reset -/

/-- One step takes the command at the front of the queue and executes it on the state with the rest of the queue; with
no command the part idles. The queue is the model's own (log 4). -/
def Obligations.StepTakesTheFrontCommand : Prop :=
  (∀ (c : Instr) (s : State) (rest : List Instr), step { s with pending := c :: rest } = exec c { s with pending := rest }) ∧
    ∀ s : State, step { s with pending := [] } = .next { s with pending := [] }

/-- Every step answers a next state: no command is refused and none faults (log 26). -/
def Obligations.EveryStepAnswersANextState : Prop := ∀ s : State, ∃ t, step s = .next t

/-- The state after reset holds the values the manual states; the levels of the pins are the model's (log 10). -/
def Obligations.ResetStateHoldsTheStatedValues : Prop :=
  State.reset.timeCount = 0 ∧ State.reset.queue = [] ∧ State.reset.ring = [] ∧ State.reset.nextSerial = 0 ∧
    (∀ (m : Master) (k : StepIndex), State.reset.banks[m][k] = ⟨0, none, 0, false⟩) ∧
    (∀ z : ZoneId, State.reset.zones[z] = ⟨.dark, 0, 0, 0, none, 0, .idle⟩) ∧
    (∀ m : Master,
      State.reset.sessions[m] = ⟨.detached, .off, .ms500, .stopped, false, none⟩ ∧
        State.reset.attention[m] = ⟨0, 0, 0, none, none, none, none, none, none, none⟩ ∧
        State.reset.changeSets[m] = 0 ∧ State.reset.heldCount m = 0 ∧ State.reset.attn m = false ∧
        State.reset.ports[m].phase = .idle ∧ State.reset.ports[m].buffer = ⟨.ok, 0x00, []⟩) ∧
    (∀ i : InputId, State.reset.inputs[i].live = .disabled) ∧
    State.reset.lastServed = 3 ∧ State.reset.device = .starting ∧ State.reset.resetCause = .powerOn ∧
    State.reset.startupStore = none ∧ State.reset.presentStore = none ∧
    State.reset.store.read = .blank ∧ State.reset.config = .default ∧ State.reset.pending = []

/-- POWER_ON and RESET_PIN from any state give the after-reset values, keep the store and record their cause; a
RESET_PIN in STARTING keeps the cause recorded when that STARTING began (R175). That the levels of the pins, raw, sensed
and chip select, stay as they were, that CFG is the row's operand, what SDO shows of a transaction a reset cut, and that
the commands that wait still wait, are the model's choices (logs 10, 9, 15, 4). -/
def Obligations.ResetsGiveTheResetValues : Prop :=
  ∀ (s : State) (cfg : Level),
    (∃ t, exec (.powerOn cfg) s = .next t ∧ AfterReset s t .powerOn cfg s.store) ∧
      (s.device ≠ .starting → ∃ t, exec (.resetPin cfg) s = .next t ∧ AfterReset s t .resetPin cfg s.store) ∧
      (s.device = .starting → ∃ t, exec (.resetPin cfg) s = .next t ∧ AfterReset s t s.resetCause cfg s.store)

/-! ### Invariants -/

/-- The state after reset meets every invariant. -/
def Obligations.ResetMeetsTheInvariants : Prop :=
  LawOfDriving State.reset ∧ LawOfHolder State.reset ∧ LawOfQueue State.reset ∧ LawOfRing State.reset ∧
    LawOfSupervision State.reset ∧ LawOfInhibit State.reset ∧ LawOfTurn State.reset ∧ State.reset.config.InRange

/-- Every step keeps the law of driving (R120, R121, R123). -/
def Obligations.EveryStepKeepsTheLawOfDriving : Prop :=
  ∀ s t : State, LawOfDriving s → step s = .next t → LawOfDriving t

/-- Every step keeps the law of the holder (R1, R5, R91). -/
def Obligations.EveryStepKeepsTheLawOfTheHolder : Prop :=
  ∀ s t : State, LawOfDriving s → LawOfHolder s → step s = .next t → LawOfHolder t

/-- Every step keeps the order and the limits of the action queue (R90, R91, R107). -/
def Obligations.EveryStepKeepsTheLawOfTheQueue : Prop :=
  ∀ s t : State, LawOfQueue s → step s = .next t → LawOfQueue t

/-- Every step keeps the law of the capture ring (R141). -/
def Obligations.EveryStepKeepsTheLawOfTheRing : Prop :=
  ∀ s t : State, LawOfRing s → step s = .next t → LawOfRing t

/-- Every step keeps the law of supervision (R24, R29, R30). -/
def Obligations.EveryStepKeepsTheLawOfSupervision : Prop :=
  ∀ s t : State, LawOfDriving s → LawOfHolder s → LawOfSupervision s → step s = .next t → LawOfSupervision t

/-- Every step keeps the inhibit sets in step with the inputs, and the fallback value wherever no master may command
(R6, R148). -/
def Obligations.EveryStepKeepsTheLawOfInhibits : Prop :=
  ∀ s t : State, LawOfDriving s → LawOfHolder s → LawOfInhibit s → step s = .next t → LawOfInhibit t

/-- Every step keeps the working configuration in the ranges of R2. -/
def Obligations.EveryStepKeepsTheConfigurationInRange : Prop :=
  ∀ s t : State, s.config.InRange → step s = .next t → t.config.InRange

/-- A zone's epoch steps by one exactly when its holder changes, at every command but a reset and the advance of the
count, which takes several events (R7). -/
def Obligations.EpochStepsWithTheHolder : Prop :=
  ∀ (c : Instr) (s t : State) (z : ZoneId), exec c s = .next t →
    (∀ cfg, c ≠ .powerOn cfg) → (∀ cfg, c ≠ .resetPin cfg) → (∀ v cfg, c ≠ .storeWriteEnd v cfg) →
    c ≠ .timeCountAdvance → EpochFollows s t z

/-- The time count changes at resets, which set it to 0, and at TIME_COUNT_ADVANCE, which adds one modulo 2^48 (R86). -/
def Clauses.TimeCountChangesAtResetsAndAdvances : Prop :=
  ∀ (c : Instr) (s t : State), exec c s = .next t →
    (c = .timeCountAdvance → t.timeCount = s.timeCount + 1) ∧
      (c ≠ .timeCountAdvance → t.timeCount = s.timeCount ∨
        t.timeCount = 0 ∧ t.device = .starting ∧
          ((∃ cfg, c = .powerOn cfg) ∨ (∃ cfg, c = .resetPin cfg) ∨ ∃ cfg, c = .storeWriteEnd true cfg))

/-! ### Ports and frames -/

/-- A NOP frame is 00 00 D7 hex, and the empty NOP response ends in the check byte 2B hex (R161, R162). -/
def Clauses.KnownFrames : Prop :=
  encodeRequest .nop [] = [0x00, 0x00, 0xD7] ∧ encodeResponse .afterReset = [0x00, 0x00, 0x00, 0x2B]

/-- The code tables of R169 and R170: status codes in the order of the table, command identifiers, sparse mode and
period codes, any two of which differ in at least two bit positions (R32). -/
def Clauses.CodeTables : Prop :=
  ([Status.ok, .frameError, .unknownCommand, .wrongState, .busy, .notAttached, .notPermitted, .strikePending,
      .notHolder, .heldByOther, .notHeld, .zoneBusy, .zoneFaulted, .noFault, .inhibited, .noRequest, .past, .queueFull,
      .quota, .range, .codeError, .protection, .policy, .notFound, .pendingFlags].map Status.code =
      (List.range 25).map byteOf) ∧
    allCommands.map Command.id =
      [0x00, 0x01, 0x10, 0x11, 0x12, 0x13, 0x14, 0x15, 0x20, 0x21, 0x22, 0x23, 0x24, 0x25, 0x28, 0x29, 0x2A, 0x2B, 0x30,
        0x31, 0x32, 0x33, 0x34, 0x35, 0x38, 0x39, 0x40, 0x41, 0x48, 0x49, 0x4A, 0x50, 0x51, 0x52, 0x53, 0x54] ∧
    (∀ b mode, modeOf b = some mode ↔ b = mode.code) ∧
    (∀ b period, periodOf b = some period ↔ b = period.code) ∧
    (∀ a b : Mode, a ≠ b → 2 ≤ (List.range 8).countP (fun k => a.code.getLsbD k != b.code.getLsbD k)) ∧
    ∀ a b : Period, a ≠ b → 2 ≤ (List.range 8).countP (fun k => a.code.getLsbD k != b.code.getLsbD k)

/-- Every request frame passes the port's checks and gives back its command and operands, whatever fill follows
(R162, R163). -/
def Obligations.EveryRequestFrameIsRead : Prop :=
  ∀ (c : Command) (operands fill : List Byte), operands.length ≤ 24 →
    checkFrame (encodeRequest c operands ++ fill) 0 = .request c operands

/-- TRANSACTION_BEGIN: from IDLE the port passes to SHIFTING and shifts out the buffer's response; while WAITING it
shifts out fill (R161, R164, R165). That it is no event where chip select is asserted already, and asserts chip select
alone at a port found SHIFTING with chip select released, is the model's choice (log 21). -/
def Obligations.TransactionBegins : Prop :=
  (∀ (s : State) (p : Master), s.ports[p].cs = false →
    ∃ t, exec (.transactionBegin p) s = .next t ∧ t = { s with ports := t.ports } ∧
      (∀ q : Master, q ≠ p → t.ports[q] = s.ports[q]) ∧ t.ports[p].cs = true ∧
      t.ports[p].buffer = s.ports[p].buffer ∧ t.ports[p].sdo = s.ports[p].sdo ∧
      (s.ports[p].phase = .idle →
        t.ports[p].phase = .shifting ∧ t.ports[p].out = some (encodeResponse s.ports[p].buffer)) ∧
      (∀ r, s.ports[p].phase = .waiting r → t.ports[p].phase = .waiting r ∧ t.ports[p].out = some []) ∧
      (s.ports[p].phase = .shifting → t.ports[p].phase = .shifting ∧ t.ports[p].out = s.ports[p].out)) ∧
    ∀ (s : State) (p : Master), s.ports[p].cs = true → exec (.transactionBegin p) s = .next s

/-- TRANSACTION_END of a transaction begun from IDLE makes the five checks of R163 in their order: the first that fails
loads its response, and a frame that passes them all waits for its block. A request for the authority table that finds
none chosen is chosen; one that finds another chosen leaves it chosen, unless both arrived at the same moment, when the
round robin decides (R167); that the same moment is the same count value is the model's choice (log 7). -/
def Clauses.FrameChecksAtTheRelease : Prop :=
  ∀ (s : State) (p : Master) (received : List Byte) (strayBits : Nat),
    s.ports[p].cs = true → s.ports[p].phase = .shifting →
    ∃ t, exec (.transactionEnd p received strayBits) s = .next t ∧
      t = { s with ports := t.ports, chosen := t.chosen } ∧
      (∀ q : Master, q ≠ p → t.ports[q] = s.ports[q]) ∧ t.ports[p].cs = false ∧
      ((strayBits ≠ 0 ∨ received.length < 3 ∨
          ∃ len, received[0]? = some len ∧ (24 < len.toNat ∨ received.length < len.toNat + 3 ∨
            received[len.toNat + 2]? ≠ some (crc8 (received.take (len.toNat + 2))))) →
        t.ports[p].phase = .idle ∧ t.ports[p].buffer = ⟨.frameError, 0xFF, []⟩ ∧ t.chosen = s.chosen) ∧
      ∀ len id, strayBits = 0 → received[0]? = some len → received[1]? = some id → len.toNat ≤ 24 →
        received[len.toNat + 2]? = some (crc8 (received.take (len.toNat + 2))) →
        (commandOfId id = none →
          t.ports[p].phase = .idle ∧ t.ports[p].buffer = ⟨.unknownCommand, id, []⟩ ∧ t.chosen = s.chosen) ∧
        ∀ c, commandOfId id = some c →
          t.ports[p].phase = .waiting ⟨c, (received.drop 2).take len.toNat, s.timeCount⟩ ∧
            t.ports[p].buffer = s.ports[p].buffer ∧ (c.atTable = false → t.chosen = s.chosen) ∧
            (c.atTable = true →
              (s.chosen = none → t.chosen = some p) ∧
                ∀ q r, s.chosen = some q → s.ports[q].phase = .waiting r →
                  t.chosen = if r.releasedAt = s.timeCount then t.nextInTurn s.lastServed else some q)

/-- Every transaction shifts out, byte for byte of what it received, the response that was going out and FF hex fill
after it; nothing goes out once chip select is released (R161, R164). -/
def Clauses.TransactionsShiftOutTheResponse : Prop :=
  ∀ (s : State) (p : Master) (received bytes : List Byte) (strayBits : Nat),
    s.ports[p].cs = true → s.ports[p].out = some bytes →
    ∃ t, exec (.transactionEnd p received strayBits) s = .next t ∧
      t.ports[p].sdo = (bytes ++ List.replicate received.length 0xFF).take received.length ∧ t.ports[p].out = none

/-- Every step keeps a request chosen exactly while one waits for the authority table, and the chosen one waiting
(R167). -/
def Clauses.EveryStepKeepsTheLawOfTheTurn : Prop :=
  ∀ s t : State, LawOfTurn s → step s = .next t → LawOfTurn t

/-- TRANSACTION_END of any other transaction, one begun while WAITING or one already in progress when a reset ended,
discards the frame: the port and its buffer are as they were (R161, R165). -/
def Clauses.OtherFramesAreDiscarded : Prop :=
  ∀ (s : State) (p : Master) (received : List Byte) (strayBits : Nat),
    s.ports[p].cs = true → s.ports[p].phase ≠ .shifting →
    ∃ t, exec (.transactionEnd p received strayBits) s = .next t ∧ t = { s with ports := t.ports } ∧
      (∀ q : Master, q ≠ p → t.ports[q] = s.ports[q]) ∧ t.ports[p].cs = false ∧
      t.ports[p].phase = s.ports[p].phase ∧ t.ports[p].buffer = s.ports[p].buffer ∧
      (s.ports[p].out = some [] → t.ports[p].sdo = List.replicate received.length 0xFF)

/-- TRANSACTION_END where chip select is released already is no event: nothing changes (the model's choice, log 21). -/
def Clauses.NoTransactionEndsWhereNoneRuns : Prop :=
  ∀ (s : State) (p : Master) (received : List Byte) (strayBits : Nat), s.ports[p].cs = false →
    exec (.transactionEnd p received strayBits) s = .next s

/-- The authority table controller takes next the waiting request from the first port after the one it served last,
counting upward and round (R167). -/
def Obligations.RoundRobinTakesTheFirstPortAfter : Prop :=
  ∀ (s : State) (last q : Master),
    (s.nextInTurn last = some q ↔
      s.waitsAtTable q = true ∧ ∀ p : Master, s.waitsAtTable p = true → q - last - 1 ≤ p - last - 1) ∧
      (s.nextInTurn last = none ↔ ∀ p : Master, s.waitsAtTable p = false)

/-! ### Gating -/

/-- A request that fails the gating is refused with the gate's status, and nothing but its port and the turn changes
(R166). That a request for the authority table so refused counts as served, so that the turn passes on from its port
(R167), is the model's choice (log 30). -/
def Clauses.GatedRequestsAreRefused : Prop :=
  ∀ (s : State) (m : Master) (c : Command) (operands : List Byte) (st : Status),
    s.ready m c operands = true → s.gate m c operands = some st →
    ∃ t, exec (c.row m operands) s = .next t ∧ Answered s t m c st [] ∧ OnlyAnswered s t

/-- The gates of R166 in their order: device state, session state, operand length. -/
def Clauses.GatesInOrder : Prop :=
  ∀ (s : State) (m : Master) (c : Command) (operands : List Byte),
    s.gate m c operands =
      if s.device = .starting ∧ c ≠ .status ∧ c ≠ .nop ∨
          s.device = .halted ∧ c ≠ .status ∧ c ≠ .readConfig ∧ c ≠ .nop then some .wrongState
      else if
          s.sessions[m].standing.isParked = true ∧ c ∉ [.status, .readFlags, .acknowledge, .setEnables, .unpark,
            .detach, .nop, .attach, .park] ∨
          s.sessions[m].standing = .revoked ∧ c ∉ [.status, .readFlags, .acknowledge, .setEnables, .attach, .detach,
            .nop] ∨
          s.sessions[m].standing = .detached ∧ c ∉ [.status, .readConfig, .attach, .detach, .nop] then
        some .notAttached
      else if c.lengthOk operands.length = false then some .range
      else none

/-- A request row that does not wait at its port, or whose turn it is not, is no event: nothing changes (log 1). -/
def Obligations.RequestsThatDoNotWaitChangeNothing : Prop :=
  ∀ (s : State) (m : Master) (c : Command) (operands : List Byte), s.ready m c operands = false →
    exec (c.row m operands) s = .next s

/-- NOP takes no operand, is served in every device state and session state, changes nothing and answers OK with no
payload; the transaction that carries it shifts out the response before it (R168). -/
def Obligations.NopIsServedEverywhere : Prop :=
  (∀ (s : State) (m : Master), s.gate m .nop [] = none) ∧
    (∀ (s : State) (m : Master), s.ready m .nop [] = true →
      ∃ t, exec (.nop m []) s = .next t ∧ Answered s t m .nop .ok [] ∧ OnlyAnswered s t) ∧
    ∀ (s : State) (p : Master) (fill : List Byte), s.ports[p].cs = false → s.ports[p].phase = .idle →
      ∃ t u, exec (.transactionBegin p) s = .next t ∧
        exec (.transactionEnd p (encodeRequest .nop [] ++ fill) 0) t = .next u ∧
        u.ports[p].phase = .waiting ⟨.nop, [], s.timeCount⟩ ∧
        u.ports[p].sdo =
          (encodeResponse s.ports[p].buffer ++ List.replicate (3 + fill.length) 0xFF).take (3 + fill.length)

/-! ### Reading requests -/

/-- STATUS answers in every device state and session state with its six items, absent ones FF hex, and changes nothing
(R176). -/
def Clauses.StatusReports : Prop :=
  (∀ (s : State) (m : Master), s.gate m .status [] = none) ∧
    ∀ (s : State) (m : Master), s.ready m .status [] = true →
      ∃ t, exec (.status m []) s = .next t ∧ OnlyAnswered s t ∧
        Answered s t m .status .ok
          ([s.device.code, s.resetCause.code, (s.startupStore.map StartupStore.code).getD 0xFF,
            (s.presentStore.map StoreClass.code).getD 0xFF, s.sessions[m].standing.code] ++ encodeTime s.timeCount)

/-- READ ZONE answers the whole record of the zone in 18 bytes and changes nothing (R21, R171). -/
def Clauses.ReadZoneReturnsTheRecord : Prop :=
  ∀ (s : State) (m : Master) (zb : Byte) (z : ZoneId), zoneOf zb = some z → s.serves m .readZone [zb] →
    ∃ t, exec (.readZone m [zb]) s = .next t ∧ OnlyAnswered s t ∧
      Answered s t m .readZone .ok
        ([s.zones[z].authority.kind.code, encodeMaster? s.zones[z].authority.holder] ++
          encodeEpoch s.zones[z].epoch ++
          [encodeValue s.zones[z].commanded, encodeDriven s.zones[z].driven, s.zones[z].inhibit,
            encodeMaster? (s.zones[z].authority.request.map (·.requester)), byteOf (s.handoverLeft z),
            encodeMaster? (s.zones[z].authority.candidate.map (·.master)),
            encodeOrigin s.zones[z].authority.candidate, byteOf (s.settleLeft z)] ++ s.readbackView z) ∧
      (s.zoneView z).length = 18

/-- READ ZONE of a zone number outside 0 to 7 is refused with RANGE and changes nothing (R13, R21). -/
def Clauses.ReadZoneOutOfRangeIsRefused : Prop :=
  ∀ (s : State) (m : Master) (zb : Byte), 8 ≤ zb.toNat → s.serves m .readZone [zb] →
    ∃ t, exec (.readZone m [zb]) s = .next t ∧ OnlyAnswered s t ∧ Answered s t m .readZone .range []

/-- READ ZONE CHANGES answers the change set before it, and state, holder and epoch of all eight zones, and empties the
set of the master that sent it alone (R22); that the zones stand Z0 to Z7 is the model's choice (log 27). -/
def Clauses.ReadZoneChangesEmptiesTheSet : Prop :=
  ∀ (s : State) (m : Master), s.serves m .readZoneChanges [] →
    ∃ t, exec (.readZoneChanges m []) s = .next t ∧
      Answered s t m .readZoneChanges .ok
        (s.changeSets[m] :: allZones.flatMap fun z =>
          [s.zones[z].authority.kind.code, encodeMaster? s.zones[z].authority.holder] ++
            encodeEpoch s.zones[z].epoch) ∧
      t.changeSets[m] = 0 ∧ (∀ n : Master, n ≠ m → t.changeSets[n] = s.changeSets[n]) ∧
      t = { s with changeSets := t.changeSets, ports := t.ports, lastServed := t.lastServed, chosen := t.chosen }

/-- READ TIME, READ STEPS, READ QUEUE and READ INPUTS answer what they read, and change nothing; a start position
above 15, and a first index or count out of range, is refused with RANGE (R87, R105, R110, R147). What forcing reads for
an enabled input with an empty interlock zone set is the model's choice (log 29). -/
def Obligations.QueueAndInputReadsChangeNothing : Prop :=
  (∀ (s : State) (m : Master), s.serves m .readTime [] →
    ∃ t, exec (.readTime m []) s = .next t ∧ OnlyAnswered s t ∧
      Answered s t m .readTime .ok (encodeTime s.timeCount)) ∧
  (∀ (s : State) (m : Master) (first count : Byte), s.serves m .readSteps [first, count] →
    ∃ t, exec (.readSteps m [first, count]) s = .next t ∧ OnlyAnswered s t ∧
      if first.toNat ≤ 15 ∧ 1 ≤ count.toNat ∧ count.toNat ≤ 4 ∧ first.toNat + count.toNat ≤ 16 then
        Answered s t m .readSteps .ok (encodeSteps s.banks[m] first.toNat count.toNat)
      else Answered s t m .readSteps .range []) ∧
  (∀ (s : State) (m : Master) (start : Byte), s.serves m .readQueue [start] →
    ∃ t, exec (.readQueue m [start]) s = .next t ∧ OnlyAnswered s t ∧
      if start.toNat ≤ 15 then
        Answered s t m .readQueue .ok
          ([byteOf (s.entryCount m), byteOf s.queue.length] ++
            encodeEntries start.toNat
              (((s.queue.filter fun e => decide (e.poster = m)).drop start.toNat).take 4))
      else Answered s t m .readQueue .range []) ∧
  ∀ (s : State) (m : Master), s.serves m .readInputs [] →
    ∃ t, exec (.readInputs m []) s = .next t ∧ OnlyAnswered s t ∧
      Answered s t m .readInputs .ok
        ((allInputs.flatMap fun i =>
          [s.inputs[i].live.code, s.inputs[i].live.levelByte, s.inputs[i].raw.code, yesNo (s.forcing i)]) ++
          encodeSerial s.nextSerial)

/-- READ FLAGS answers flags, enables, mask, records and the ATTN level, 24 bytes, and changes nothing; ATTN is
asserted exactly when the master is not PARKED and an enabled flag is set, or is PARKED with WAKE_REQUEST set
(R155, R156). -/
def Obligations.ReadFlagsAndAttn : Prop :=
  (∀ (s : State) (m : Master), s.serves m .readFlags [] →
    ∃ t, exec (.readFlags m []) s = .next t ∧ OnlyAnswered s t ∧
      (∃ payload, Answered s t m .readFlags .ok payload ∧ payload.length = 24 ∧
        payload = encodeFlags s.attention[m].flags ++ encodeFlags s.attention[m].enables ++
          [s.attention[m].notifyMask] ++ encodeRecords s.attention[m] ++ [yesNo (s.attn m)])) ∧
  ∀ (s : State) (m : Master),
    s.attn m = true ↔
      (¬ s.sessions[m].standing.isParked = true ∧
          ∃ f : Flag, f.mem s.attention[m].flags = true ∧ f.mem s.attention[m].enables = true) ∨
        (s.sessions[m].standing.isParked = true ∧ Flag.wakeRequest.mem s.attention[m].flags = true)

/-- READ CONFIG answers a zone's, an input's or the policies' section with the source of the working configuration, and
changes nothing; any other section is refused with RANGE (R179). That a section does not repeat its zone or input number
is the model's deduction (log 14), and that the policies stand M0 to M3 is its choice (log 33). -/
def Clauses.ReadConfigReturnsASection : Prop :=
  ∀ (s : State) (m : Master) (b : Byte), s.serves m .readConfig [b] →
    ∃ t, exec (.readConfig m [b]) s = .next t ∧ OnlyAnswered s t ∧
      (∀ z : ZoneId, b.toNat = z.val →
        Answered s t m .readConfig .ok (encodeZoneConfig s.config.zones[z] ++ [s.source.code])) ∧
      (∀ i : InputId, b.toNat = 16 + i.val →
        Answered s t m .readConfig .ok (encodeInputConfig s.config.inputs[i] ++ [s.source.code])) ∧
      (b.toNat = 32 →
        Answered s t m .readConfig .ok (allMasters.map (fun n => s.config.strictness[n].code) ++ [s.source.code])) ∧
      (8 ≤ b.toNat → (b.toNat < 16 ∨ 24 ≤ b.toNat) → b.toNat ≠ 32 → Answered s t m .readConfig .range [])

/-! ### Sessions -/

/-- ATTACH makes its checks in R35's order; when it is taken the session record, the flags and records, the change set,
the cursor and the timer are as R36 gives, and nothing else changes but the port. -/
def Obligations.AttachIsCheckedAndTaken : Prop :=
  ∀ (s : State) (m : Master) (mb pb : Byte), s.serves m .attach [mb, pb] →
    ∃ t, exec (.attach m [mb, pb]) s = .next t ∧
      t = { s with sessions := t.sessions, attention := t.attention, changeSets := t.changeSets, ports := t.ports } ∧
      (∀ n : Master, n ≠ m → t.sessions[n] = s.sessions[n] ∧ t.attention[n] = s.attention[n] ∧
        t.changeSets[n] = s.changeSets[n]) ∧
      if s.sessions[m].standing.isAttached = true ∨ s.sessions[m].standing.isParked = true then
        Answered s t m .attach .wrongState [] ∧ OnlyAnswered s t
      else
        match modeOf mb, periodOf pb with
        | none, _ => Answered s t m .attach .codeError [] ∧ OnlyAnswered s t
        | some _, none => Answered s t m .attach .codeError [] ∧ OnlyAnswered s t
        | some mode, some period =>
          if s.device = .operational ∧ (s.config.strictness[m].laxity < mode.laxity ∨ mode = .off) then
            Answered s t m .attach .policy [] ∧ OnlyAnswered s t
          else
            t.sessions[m] =
                ⟨.attached s.nextSerial, mode, period,
                  (match mode with
                  | .window => .closed s.timeCount
                  | .timeout => .running s.timeCount
                  | .auto => .stopped
                  | .off => .stopped), false, none⟩ ∧
              t.attention[m] =
                { Attention.afterReset with enables := s.attention[m].enables, notifyMask := s.attention[m].notifyMask } ∧
              t.changeSets[m] = 0 ∧ Answered s t m .attach .ok (t.sessionView m)

/-- DETACH from DETACHED changes nothing; from any other standing it returns the session record, the flags, records,
enables and mask and the change set to their reset values, and from ATTACHED it is a session end: the zones and their
lines, the queue, the ring, and what every other master is told (R37, R45, R60, R61, R69, R83, R142). That a loss
restarts or stops an expired check timer too, so that no fault comes, is the model's choice (log 32). -/
def Obligations.DetachEndsTheSession : Prop :=
  ∀ (s : State) (m : Master), s.serves m .detach [] →
    ∃ t, exec (.detach m []) s = .next t ∧ OnlySessionEnd s t ∧
      (s.sessions[m].standing = .detached → Answered s t m .detach .ok [0] ∧ OnlyAnswered s t) ∧
      (s.sessions[m].standing ≠ .detached →
        Answered s t m .detach .ok [byteOf (s.heldCount m)] ∧ t.sessions[m] = .afterReset ∧
          t.attention[m] = .afterReset ∧ t.changeSets[m] = 0) ∧
      (s.isAttached m = true →
        SessionEnds (s.withSession m { s.sessions[m] with standing := .detached }) t m) ∧
      (s.isAttached m = false →
        t.zones = s.zones ∧ t.queue = s.queue ∧ t.ring = s.ring ∧
          ∀ n : Master, n ≠ m →
            t.sessions[n] = s.sessions[n] ∧ t.attention[n] = s.attention[n] ∧ t.changeSets[n] = s.changeSets[n])

/-- PARK makes its checks in R38's order; when it is taken the master is PARKED with its timer stopped and its park
serial, the ring frees exactly what no ATTACHED master's cursor needs, and nothing else changes (R38, R39, R142). -/
def Obligations.ParkIsCheckedAndTaken : Prop :=
  ∀ (s : State) (m : Master), s.serves m .park [] →
    ∃ t, exec (.park m []) s = .next t ∧
      t = { s with sessions := t.sessions, ring := t.ring, ports := t.ports } ∧
      if s.sessions[m].standing.isParked = true ∨ (∃ z, s.holds m z = true) ∨ (∃ e ∈ s.queue, e.poster = m) ∨
          (∃ z, s.requests m z = true) ∨ ∃ z, s.isCandidate m z = true then
        Answered s t m .park .wrongState [] ∧ OnlyAnswered s t
      else if s.attention[m].flags &&& s.attention[m].enables ≠ 0 then
        Answered s t m .park .pendingFlags [] ∧ OnlyAnswered s t
      else
        t.sessions[m] = { s.sessions[m] with standing := .parked s.nextSerial, timer := .stopped } ∧
          (∀ n : Master, n ≠ m → t.sessions[n] = s.sessions[n]) ∧ RingFreed s t ∧
          ((∀ n : Master, n ≠ m → s.isAttached n = false) → t.ring = []) ∧
          Answered s t m .park .ok (encodeSerial s.nextSerial)

/-- UNPARK from PARKED resumes the session with a fresh timer and a cursor at the next serial, and sets CAPTURE_GAP
exactly when records were appended since; from ATTACHED it is refused with WRONG_STATE (R40). -/
def Obligations.UnparkResumesTheSession : Prop :=
  ∀ (s : State) (m : Master), s.serves m .unpark [] →
    ∃ t, exec (.unpark m []) s = .next t ∧
      t = { s with sessions := t.sessions, attention := t.attention, ports := t.ports } ∧
      (∀ n : Master, n ≠ m → t.sessions[n] = s.sessions[n] ∧ t.attention[n] = s.attention[n]) ∧
      (∀ k, s.sessions[m].standing = .parked k →
        t.sessions[m] =
            { s.sessions[m] with
              standing := .attached s.nextSerial
              timer :=
                match s.sessions[m].mode with
                | .window => .closed s.timeCount
                | .timeout => .running s.timeCount
                | .auto => .stopped
                | .off => .stopped } ∧
          t.attention[m] =
            (if s.nextSerial = k then s.attention[m] else s.attention[m].after .captureGap) ∧
          Answered s t m .unpark .ok (t.sessionView m ++ encodeSerial s.nextSerial)) ∧
      (s.isAttached m = true → Answered s t m .unpark .wrongState [] ∧ OnlyAnswered s t)

/-- RENEW restarts a running timer and an OPEN one, in CLOSED; a stopped timer stays stopped; in the CLOSED half it
revokes with reason EARLY_RENEWAL, with all that a session end does and tells (R26, R41, R44, R45, R69, R83). That a
loss restarts or stops an expired check timer too, so that no fault comes, is the model's choice (log 32). -/
def Obligations.RenewByTheTimerItFinds : Prop :=
  ∀ (s : State) (m : Master), s.serves m .renew [] →
    ∃ t, exec (.renew m []) s = .next t ∧ Answered s t m .renew .ok (t.sessionView m) ∧
      match s.sessions[m].timer with
      | .closed _ => Revokes s t m .earlyRenewal ∧ OnlySessionEnd s t
      | .opened _ =>
        t.sessions = s.sessions.set m { s.sessions[m] with timer := .closed s.timeCount } ∧
          t = { s with sessions := t.sessions, ports := t.ports }
      | .running _ =>
        t.sessions = s.sessions.set m { s.sessions[m] with timer := .running s.timeCount } ∧
          t = { s with sessions := t.sessions, ports := t.ports }
      | .stopped => OnlyAnswered s t

/-- SUPERVISE makes its checks in R43's order: an invalid code, policy, protection, which records a strike or with a
strike pending revokes (R34); when it is taken, mode, period and timer are as R43 gives. That a strike drops its
requests in the order Z0 to Z7 is the model's choice (log 28). That a loss restarts or stops an expired check timer too,
so that no fault comes, is the model's choice (log 32). -/
def Obligations.SuperviseIsCheckedAndTaken : Prop :=
  ∀ (s : State) (m : Master) (mb pb : Byte), s.serves m .supervise [mb, pb] →
    ∃ t, exec (.supervise m [mb, pb]) s = .next t ∧ OnlySessionEnd s t ∧
      match modeOf mb, periodOf pb with
      | none, _ => Answered s t m .supervise .codeError [] ∧ OnlyAnswered s t
      | some _, none => Answered s t m .supervise .codeError [] ∧ OnlyAnswered s t
      | some mode, some period =>
        if s.device = .operational ∧ (s.config.strictness[m].laxity < mode.laxity ∨ mode = .off) then
          Answered s t m .supervise .policy [] ∧ OnlyAnswered s t
        else if s.device = .operational ∧ s.heldCount m ≠ 0 then
          Answered s t m .supervise .protection [] ∧
            (s.sessions[m].strike = true → Revokes s t m .reconfigure) ∧
            (s.sessions[m].strike = false →
              Strikes s t m ∧ t.sessions[m].timer = s.sessions[m].timer)
        else
          t.sessions =
              s.sessions.set m
                { s.sessions[m] with
                  mode := mode
                  period := period
                  timer :=
                    match mode with
                    | .window => .closed s.timeCount
                    | .timeout => .running s.timeCount
                    | .auto => if s.heldCount m = 0 then .stopped else .running s.timeCount
                    | .off => .stopped } ∧
            t = { s with sessions := t.sessions, ports := t.ports } ∧
            Answered s t m .supervise .ok (t.sessionView m)

/-- SUPERVISION_EXPIRY of a timer that has run its full period: in WINDOW it revokes with EXPIRY; in TIMEOUT and AUTO it
records a strike and restarts the timer, or with a strike pending revokes with SECOND_EXPIRY (R25 to R28). That before
then the row is no event, and that a strike drops its requests in the order Z0 to Z7, is the model's choice (logs 2,
28). That a loss restarts or stops an expired check timer too, so that no fault comes, is its choice (log 32). -/
def Clauses.SupervisionExpiryStrikesOrRevokes : Prop :=
  ∀ (s : State) (m : Master),
    ∃ t, exec (.supervisionExpiry m) s = .next t ∧ OnlySessionEnd s t ∧
      if s.isAttached m = true then
        match s.sessions[m].timer with
        | .stopped => t = s
        | .closed since =>
          if s.sessions[m].period.micros ≤ (s.timeCount - since).toNat then Revokes s t m .expiry else t = s
        | .opened since =>
          if s.sessions[m].period.micros ≤ (s.timeCount - since).toNat then Revokes s t m .expiry else t = s
        | .running since =>
          if s.sessions[m].period.micros ≤ (s.timeCount - since).toNat then
            (s.sessions[m].strike = true → Revokes s t m .secondExpiry) ∧
              (s.sessions[m].strike = false →
                Strikes s t m ∧ t.sessions[m].timer = .running s.timeCount)
          else t = s
      else t = s

/-- WINDOW_OPEN: a CLOSED timer that has run half its period is OPEN, with its elapsed time kept, and nothing else
changes (R25, R26). That before then the row is no event is the model's choice (log 2). -/
def Clauses.WindowOpensAtHalfThePeriod : Prop :=
  ∀ (s : State) (m : Master),
    ∃ t, exec (.windowOpen m) s = .next t ∧ t = { s with sessions := t.sessions } ∧
      (∀ since, s.sessions[m].timer = .closed since →
        s.sessions[m].period.micros / 2 ≤ (s.timeCount - since).toNat →
        t.sessions = s.sessions.set m { s.sessions[m] with timer := .opened since }) ∧
      (∀ since, s.sessions[m].timer = .closed since →
        (s.timeCount - since).toNat < s.sessions[m].period.micros / 2 → t = s) ∧
      ((∀ since, s.sessions[m].timer ≠ .closed since) → t = s)

/-! ### Zone requests -/

/-- CLAIM of a VACANT zone by an eligible master is taken: holder, epoch, commanded value, change sets, AUTO timer and
response are as R15 gives; the lines drive the fallback value before and after, and the sensed value and the monitor
stay (R125). -/
def Clauses.ClaimTakenFromVacant : Prop :=
  ∀ (s : State) (m : Master) (zb : Byte) (z : ZoneId), zoneOf zb = some z → s.serves m .claim [zb] →
    s.device.isStoring = false → s.permits z m = true → s.sessions[m].strike = false →
    s.zones[z].authority = .vacant →
    ∃ t, exec (.claim m [zb]) s = .next t ∧ OnlyTable s t ∧ OtherZonesKept s t z ∧
      t.zones[z].authority = .held m ∧ t.zones[z].epoch = s.zones[z].epoch + 1 ∧
      t.zones[z].commanded = s.fallback z ∧ t.zones[z].driven = some (s.fallback z) ∧
      t.zones[z].inhibit = s.zones[z].inhibit ∧ t.zones[z].sensed = s.zones[z].sensed ∧
      (s.zones[z].driven = some (s.fallback z) → t.zones[z].monitor = s.zones[z].monitor) ∧
      SetsFollow s t z ∧ (∀ n : Master, t.attention[n] = s.noted n) ∧ TimersFollow s t ∧
      t.heldCount m = s.heldCount m + 1 ∧
      Answered s t m .claim .ok (encodeEpoch (s.zones[z].epoch + 1))

/-- Every other CLAIM is answered by the first check of R14 that fails, or OK with no change for the holder itself. -/
def Clauses.ClaimRefusedByTheFirstCheck : Prop :=
  ∀ (s : State) (m : Master) (zb : Byte), s.serves m .claim [zb] →
    (∀ z, zoneOf zb = some z → s.device.isStoring = false → s.permits z m = true →
      s.sessions[m].strike = false → s.zones[z].authority ≠ .vacant) →
    ∃ t, exec (.claim m [zb]) s = .next t ∧ OnlyAnswered s t ∧
      if s.device.isStoring = true then Answered s t m .claim .busy []
      else
        match zoneOf zb with
        | none => Answered s t m .claim .range []
        | some z =>
          if s.permits z m = false then Answered s t m .claim .notPermitted []
          else if s.sessions[m].strike = true then Answered s t m .claim .strikePending []
          else
            match s.zones[z].authority with
            | .faulted => Answered s t m .claim .zoneFaulted []
            | .transfer _ _ => Answered s t m .claim .zoneBusy []
            | .settling _ => Answered s t m .claim .zoneBusy []
            | .dark => Answered s t m .claim .wrongState []
            | .held h =>
              if h = m then Answered s t m .claim .ok (encodeEpoch s.zones[z].epoch)
              else Answered s t m .claim .heldByOther []
            | .vacant => False

/-- RELEASE from HELD: the zone is VACANT at its fallback value with its epoch stepped, the lines drive it and the
monitor responds where that changes the driven value (R125), the releaser's entries for it are gone silently, and the
response carries the new epoch and their number (R17, R18). -/
def Clauses.ReleaseFromHeld : Prop :=
  ∀ (s : State) (m : Master) (zb : Byte) (z : ZoneId), zoneOf zb = some z → s.serves m .release [zb] →
    s.zones[z].authority = .held m →
    ∃ t, exec (.release m [zb]) s = .next t ∧ OnlyTableAndQueue s t ∧ OtherZonesKept s t z ∧
      t.zones[z].authority = .vacant ∧ t.zones[z].epoch = s.zones[z].epoch + 1 ∧
      t.zones[z].commanded = s.fallback z ∧ t.zones[z].driven = some (s.fallback z) ∧
      t.zones[z].inhibit = s.zones[z].inhibit ∧ t.zones[z].sensed = s.zones[z].sensed ∧
      Redriven s t z (s.fallback z) ∧
      t.queue = s.queue.filter (fun e => decide (¬ (e.poster = m ∧ e.zone = z))) ∧
      SetsFollow s t z ∧ (∀ n : Master, t.attention[n] = s.noted n) ∧ TimersFollow s t ∧
      Answered s t m .release .ok
        (encodeEpoch (s.zones[z].epoch + 1) ++
          [byteOf (s.queue.countP fun e => decide (e.poster = m ∧ e.zone = z))])

/-- RELEASE from TRANSFER hands the zone to the pending requester at the commanded value, with lines and monitor as they
were; the releaser's entries are gone silently, and the requester is told GRANTED (R59, R53). From any master but the
holder it is refused (R17). -/
def Clauses.ReleaseInTransferAndByOthers : Prop :=
  (∀ (s : State) (m : Master) (zb : Byte) (z : ZoneId) (p : Pending), zoneOf zb = some z →
    s.serves m .release [zb] → s.zones[z].authority = .transfer m p → p.requester ≠ m →
    ∃ t, exec (.release m [zb]) s = .next t ∧ OnlyTableAndQueue s t ∧ OtherZonesKept s t z ∧
      t.zones[z].authority = .held p.requester ∧ t.zones[z].epoch = s.zones[z].epoch + 1 ∧
      t.zones[z].commanded = s.zones[z].commanded ∧ t.zones[z].inhibit = s.zones[z].inhibit ∧ LinesKept s t z ∧
      t.queue = s.queue.filter (fun e => decide (¬ (e.poster = m ∧ e.zone = z))) ∧
      SetsFollow s t z ∧ TimersFollow s t ∧
      (∀ n : Master, n ≠ p.requester → t.attention[n] = s.noted n) ∧
      (s.isAttached p.requester = true →
        t.attention[p.requester] =
          ((s.noted p.requester).after (.handoverResult z .granted)).after (.granted z .handover)) ∧
      Answered s t m .release .ok
        (encodeEpoch (s.zones[z].epoch + 1) ++
          [byteOf (s.queue.countP fun e => decide (e.poster = m ∧ e.zone = z))])) ∧
  ∀ (s : State) (m : Master) (zb : Byte), s.serves m .release [zb] →
    (∀ z, zoneOf zb = some z → s.zones[z].authority.holder ≠ some m) →
    ∃ t, exec (.release m [zb]) s = .next t ∧ OnlyAnswered s t ∧
      match zoneOf zb with
      | none => Answered s t m .release .range []
      | some _ => Answered s t m .release .notHolder []

/-- SET OUTPUT makes its checks in R19's order; when it is taken the commanded value becomes the value given, the lines
drive it, a change of the driven value restarts or stops a running check timer, and nothing else of the zone changes
(R20, R125). -/
def Obligations.SetOutputIsCheckedAndTaken : Prop :=
  ∀ (s : State) (m : Master) (zb vb : Byte), s.serves m .setOutput [zb, vb] →
    ∃ t, exec (.setOutput m [zb, vb]) s = .next t ∧
      t = { s with zones := t.zones, ports := t.ports, lastServed := t.lastServed, chosen := t.chosen } ∧
      match zoneOf zb, valueOf vb with
      | none, _ => Answered s t m .setOutput .range [] ∧ OnlyAnswered s t
      | some _, none => Answered s t m .setOutput .range [] ∧ OnlyAnswered s t
      | some z, some v =>
        if s.zones[z].authority.holder ≠ some m then Answered s t m .setOutput .notHolder [] ∧ OnlyAnswered s t
        else if s.zones[z].inhibit ≠ 0 then Answered s t m .setOutput .inhibited [] ∧ OnlyAnswered s t
        else
          OtherZonesKept s t z ∧ t.zones[z].commanded = v ∧ t.zones[z].driven = some v ∧
            t.zones[z].authority = s.zones[z].authority ∧ t.zones[z].epoch = s.zones[z].epoch ∧
            t.zones[z].inhibit = s.zones[z].inhibit ∧ t.zones[z].sensed = s.zones[z].sensed ∧
            (s.zones[z].driven = some v → t.zones[z].monitor = s.zones[z].monitor) ∧ Redriven s t z v ∧
            Answered s t m .setOutput .ok (encodeEpoch s.zones[z].epoch ++ [encodeValue v])

/-- CLEAR FAULT makes its checks in R130's order; when it is taken the zone is VACANT and driven again at its fallback
value, with a fresh monitor, no flag set but ZONES_CHANGED, and the epoch as it was (R131). -/
def Obligations.ClearFaultIsCheckedAndTaken : Prop :=
  ∀ (s : State) (m : Master) (zb : Byte), s.serves m .clearFault [zb] →
    ∃ t, exec (.clearFault m [zb]) s = .next t ∧ OnlyTable s t ∧
      match zoneOf zb with
      | none => Answered s t m .clearFault .range [] ∧ OnlyAnswered s t
      | some z =>
        if s.permits z m = false then Answered s t m .clearFault .notPermitted [] ∧ OnlyAnswered s t
        else if s.zones[z].authority ≠ .faulted then Answered s t m .clearFault .noFault [] ∧ OnlyAnswered s t
        else
          OtherZonesKept s t z ∧ t.zones[z].authority = .vacant ∧ t.zones[z].epoch = s.zones[z].epoch ∧
            t.zones[z].commanded = s.fallback z ∧ t.zones[z].driven = some (s.fallback z) ∧
            t.zones[z].inhibit = s.zones[z].inhibit ∧ t.zones[z].sensed = s.zones[z].sensed ∧
            (s.zones[z].driven = none →
              t.zones[z].monitor =
                if s.config.zones[z].checkTime = 0 then .off
                else if s.zones[z].sensed = s.fallback z then .matching
                else .checking s.timeCount (s.zones[z].sensed ^^^ s.fallback z)) ∧
            SetsFollow s t z ∧ (∀ n : Master, t.attention[n] = s.noted n) ∧ t.sessions = s.sessions ∧
            Answered s t m .clearFault .ok (encodeEpoch s.zones[z].epoch ++ t.readbackView z)

/-! ### Handing over -/

/-- REQUEST HANDOVER of a zone HELD by another master, from an eligible one: the zone is in TRANSFER with the request
pending and the full timeout, holder, epoch, commanded value, lines and monitor as they were, and the holder is told
(R49). -/
def Clauses.RequestHandoverTaken : Prop :=
  ∀ (s : State) (m h : Master) (zb : Byte) (z : ZoneId), zoneOf zb = some z → s.serves m .requestHandover [zb] →
    s.device.isStoring = false → s.permits z m = true → s.sessions[m].strike = false →
    s.zones[z].authority = .held h → h ≠ m →
    ∃ t, exec (.requestHandover m [zb]) s = .next t ∧ OnlyTable s t ∧ OtherZonesKept s t z ∧
      t.zones[z].authority = .transfer h ⟨m, s.timeCount, s.config.zones[z].handoverTimeout⟩ ∧
      t.zones[z].epoch = s.zones[z].epoch ∧ t.zones[z].commanded = s.zones[z].commanded ∧
      t.zones[z].inhibit = s.zones[z].inhibit ∧
      t.zones[z].driven = drivenBy (.held h) s.zones[z].commanded (s.fallback z) s.zones[z].inhibit ∧
      LinesKept s t z ∧ SetsFollow s t z ∧ t.sessions = s.sessions ∧
      (∀ n : Master, n ≠ h → t.attention[n] = s.noted n) ∧
      (s.isAttached h = true → t.attention[h] = (s.noted h).after (.handoverAsked z m .pending)) ∧
      Answered s t m .requestHandover .ok
        (encodeEpoch s.zones[z].epoch ++
          [s.config.zones[z].policy.code, s.config.zones[z].handoverTimeout])

/-- Every other REQUEST HANDOVER is refused by the first check of R48 that fails, and changes nothing. -/
def Clauses.RequestHandoverRefusedByTheFirstCheck : Prop :=
  ∀ (s : State) (m : Master) (zb : Byte), s.serves m .requestHandover [zb] →
    (∀ z h, zoneOf zb = some z → s.device.isStoring = false → s.permits z m = true →
      s.sessions[m].strike = false → s.zones[z].authority = .held h → h = m) →
    ∃ t, exec (.requestHandover m [zb]) s = .next t ∧ OnlyAnswered s t ∧
      if s.device.isStoring = true then Answered s t m .requestHandover .busy []
      else
        match zoneOf zb with
        | none => Answered s t m .requestHandover .range []
        | some z =>
          if s.permits z m = false then Answered s t m .requestHandover .notPermitted []
          else if s.sessions[m].strike = true then Answered s t m .requestHandover .strikePending []
          else
            match s.zones[z].authority with
            | .dark => Answered s t m .requestHandover .wrongState []
            | .vacant => Answered s t m .requestHandover .notHeld []
            | .faulted => Answered s t m .requestHandover .zoneFaulted []
            | .transfer _ _ => Answered s t m .requestHandover .zoneBusy []
            | .settling _ => Answered s t m .requestHandover .zoneBusy []
            | .held _ => Answered s t m .requestHandover .wrongState []

/-- YIELD by the holder to the pending requester: the bumpless transfer, the old holder's entries dropped with
LOST_ZONE, the requester told GRANTED with cause HANDOVER, the old holder told nothing else, and any other master
ZONES_CHANGED alone (R9, R52, R53). -/
def Obligations.YieldTransfersTheZone : Prop :=
  ∀ (s : State) (m : Master) (zb rb : Byte) (z : ZoneId) (p : Pending), zoneOf zb = some z →
    masterOf rb = some p.requester → s.serves m .yield [zb, rb] → s.zones[z].authority = .transfer m p →
    p.requester ≠ m →
    ∃ t, exec (.yield m [zb, rb]) s = .next t ∧ OnlyTableAndQueue s t ∧ OtherZonesKept s t z ∧
      t.zones[z].authority = .held p.requester ∧ t.zones[z].epoch = s.zones[z].epoch + 1 ∧
      t.zones[z].commanded = s.zones[z].commanded ∧ t.zones[z].inhibit = s.zones[z].inhibit ∧
      t.zones[z].sensed = s.zones[z].sensed ∧
      (s.zones[z].driven =
          drivenBy (.held m) s.zones[z].commanded (s.fallback z) s.zones[z].inhibit →
        t.zones[z].driven = s.zones[z].driven ∧ t.zones[z].monitor = s.zones[z].monitor) ∧
      t.queue = s.queue.filter (fun e => decide (¬ (e.poster = m ∧ e.zone = z))) ∧
      SetsFollow s t z ∧ TimersFollow s t ∧
      (s.isAttached p.requester = true →
        t.attention[p.requester] =
          ((s.noted p.requester).after (.handoverResult z .granted)).after (.granted z .handover)) ∧
      (s.isAttached m = true →
        t.attention[m] = reportedLost m (s.noted m) (s.queue.filter fun e => decide (e.poster = m ∧ e.zone = z))) ∧
      (∀ n : Master, n ≠ m → n ≠ p.requester → t.attention[n] = s.noted n) ∧
      Answered s t m .yield .ok
        (encodeEpoch (s.zones[z].epoch + 1) ++
          [byteOf (s.queue.countP fun e => decide (e.poster = m ∧ e.zone = z))])

/-- YIELD and REFUSE make the checks of R51 in their order, and a refused answer changes nothing. -/
def Obligations.AnswersRefusedByTheFirstCheck : Prop :=
  ∀ (s : State) (m : Master) (c : Command) (zb rb : Byte), c = .yield ∨ c = .refuse → s.serves m c [zb, rb] →
    (∀ z p, zoneOf zb = some z → s.zones[z].authority = .transfer m p → masterOf rb ≠ some p.requester) →
    ∃ t, exec (c.row m [zb, rb]) s = .next t ∧ OnlyAnswered s t ∧
      match zoneOf zb, masterOf rb with
      | none, _ => Answered s t m c .range []
      | some _, none => Answered s t m c .range []
      | some z, some r =>
        match s.zones[z].authority with
        | .transfer _ p =>
          if p.requester = r then Answered s t m c .notHolder [] else Answered s t m c .noRequest []
        | _ => Answered s t m c .noRequest []

/-- REFUSE by the holder: the request ends, the zone is HELD by the same holder, epoch, commanded value, inhibit set,
lines, monitor, counts and queue as they were, and the requester is told DENIED (R54). -/
def Clauses.RefuseEndsTheRequest : Prop :=
  ∀ (s : State) (m : Master) (zb rb : Byte) (z : ZoneId) (p : Pending), zoneOf zb = some z →
    masterOf rb = some p.requester → s.serves m .refuse [zb, rb] → s.zones[z].authority = .transfer m p →
    ∃ t, exec (.refuse m [zb, rb]) s = .next t ∧ OnlyTable s t ∧ OtherZonesKept s t z ∧
      t.zones[z].authority = .held m ∧ t.zones[z].epoch = s.zones[z].epoch ∧
      t.zones[z].commanded = s.zones[z].commanded ∧ t.zones[z].inhibit = s.zones[z].inhibit ∧
      t.zones[z].sensed = s.zones[z].sensed ∧
      (s.zones[z].driven = drivenBy (.held m) s.zones[z].commanded (s.fallback z) s.zones[z].inhibit →
        t.zones[z].driven = s.zones[z].driven ∧ t.zones[z].monitor = s.zones[z].monitor) ∧
      t.sessions = s.sessions ∧ SetsFollow s t z ∧
      (∀ n : Master, n ≠ p.requester → t.attention[n] = s.noted n) ∧
      (s.isAttached p.requester = true →
        t.attention[p.requester] = (s.noted p.requester).after (.handoverResult z .denied)) ∧
      Answered s t m .refuse .ok (encodeEpoch s.zones[z].epoch)

/-- WITHDRAW by the pending requester: the request ends as at a refusal, the holder is told WITHDRAWN and the requester
nothing; from any other master, or with no request pending, it is refused with NO_REQUEST (R55). -/
def Clauses.WithdrawEndsTheRequest : Prop :=
  ∀ (s : State) (m : Master) (zb : Byte), s.serves m .withdraw [zb] →
    ∃ t, exec (.withdraw m [zb]) s = .next t ∧ OnlyTable s t ∧
      match zoneOf zb with
      | none => Answered s t m .withdraw .range [] ∧ OnlyAnswered s t
      | some z =>
        match s.zones[z].authority with
        | .transfer h p =>
          if p.requester = m then
            OtherZonesKept s t z ∧ t.zones[z].authority = .held h ∧ t.zones[z].epoch = s.zones[z].epoch ∧
              t.zones[z].commanded = s.zones[z].commanded ∧ t.zones[z].inhibit = s.zones[z].inhibit ∧
              t.zones[z].sensed = s.zones[z].sensed ∧
              (s.zones[z].driven = drivenBy (.held h) s.zones[z].commanded (s.fallback z) s.zones[z].inhibit →
                t.zones[z].driven = s.zones[z].driven ∧ t.zones[z].monitor = s.zones[z].monitor) ∧
              t.sessions = s.sessions ∧ SetsFollow s t z ∧
              (∀ n : Master, n ≠ h → t.attention[n] = s.noted n) ∧
              (s.isAttached h = true → t.attention[h] = (s.noted h).after (.handoverAsked z m .withdrawn)) ∧
              Answered s t m .withdraw .ok (encodeEpoch s.zones[z].epoch)
          else Answered s t m .withdraw .noRequest [] ∧ OnlyAnswered s t
        | _ => Answered s t m .withdraw .noRequest [] ∧ OnlyAnswered s t

/-- HANDOVER_TIMEOUT when the handover timer has run its timeout: under PREEMPT the bumpless transfer, with the old
holder's entries dropped and both masters told (R53, R56); under YIELD_ONLY the request ends and both are told (R57);
under either the lines and the monitor are as they were, and any other master is told ZONES_CHANGED alone (R9). That
before then, and in any other zone state, the row is no event is the model's choice (log 2). -/
def Obligations.HandoverTimeoutByPolicy : Prop :=
  ∀ (s : State) (z : ZoneId),
    ∃ t, exec (.handoverTimeout z) s = .next t ∧
      match s.zones[z].authority with
      | .transfer h p =>
        if p.timeout.toNat * 10000 ≤ (s.timeCount - p.since).toNat then
          h ≠ p.requester →
          OtherZonesKept s t z ∧ SetsFollow s t z ∧ TimersFollow s t ∧
            t.zones[z].commanded = s.zones[z].commanded ∧ t.zones[z].inhibit = s.zones[z].inhibit ∧
            LinesKept s t z ∧ (∀ n : Master, n ≠ h → n ≠ p.requester → t.attention[n] = s.noted n) ∧
            t = { s with zones := t.zones, changeSets := t.changeSets, sessions := t.sessions,
                         attention := t.attention, queue := t.queue } ∧
            match s.config.zones[z].policy with
            | .preempt =>
              t.zones[z].authority = .held p.requester ∧ t.zones[z].epoch = s.zones[z].epoch + 1 ∧
                t.queue = s.queue.filter (fun e => decide (¬ (e.poster = h ∧ e.zone = z))) ∧
                (s.isAttached p.requester = true →
                  t.attention[p.requester] =
                    ((s.noted p.requester).after (.handoverResult z .preemptGranted)).after (.granted z .preempt)) ∧
                (s.isAttached h = true →
                  t.attention[h] =
                    (reportedLost h (s.noted h)
                      (s.queue.filter fun e => decide (e.poster = h ∧ e.zone = z))).after (.lost z .preempted))
            | .yieldOnly =>
              t.zones[z].authority = .held h ∧ t.zones[z].epoch = s.zones[z].epoch ∧ t.queue = s.queue ∧
                (s.isAttached p.requester = true →
                  t.attention[p.requester] = (s.noted p.requester).after (.handoverResult z .timedOut)) ∧
                (s.isAttached h = true →
                  t.attention[h] = (s.noted h).after (.handoverAsked z p.requester .expired))
        else t = s
      | _ => t = s

/-- SETTLE_EXPIRY when the settle timer has run its settle time grants the zone to its candidate: holder, epoch,
commanded value, lines, change sets, AUTO timer and grant record are as R76 gives, and the monitor stays. That before
then, and in any other zone state, the row is no event is the model's choice (log 2). -/
def Obligations.SettleExpiryGrantsTheZone : Prop :=
  ∀ (s : State) (z : ZoneId),
    ∃ t, exec (.settleExpiry z) s = .next t ∧
      match s.zones[z].authority with
      | .settling c =>
        if c.settle.toNat * 10000 ≤ (s.timeCount - c.since).toNat then
          OtherZonesKept s t z ∧ t.zones[z].authority = .held c.master ∧
            t.zones[z].epoch = s.zones[z].epoch + 1 ∧ t.zones[z].commanded = s.fallback z ∧
            t.zones[z].driven = some (s.fallback z) ∧ t.zones[z].inhibit = s.zones[z].inhibit ∧
            LinesKept s t z ∧ SetsFollow s t z ∧ TimersFollow s t ∧ t.heldCount c.master = s.heldCount c.master + 1 ∧
            (∀ n : Master, n ≠ c.master → t.attention[n] = s.noted n) ∧
            (s.isAttached c.master = true →
              t.attention[c.master] = (s.noted c.master).after (.granted z .succession)) ∧
            t = { s with zones := t.zones, changeSets := t.changeSets, sessions := t.sessions,
                         attention := t.attention }
        else t = s
      | _ => t = s

/-- A choice of candidate takes the first eligible master of the list from the start position on, with its position
and the full settle time; with none eligible there is no candidate (R71, R78, R79). -/
def Obligations.ChoiceTakesTheFirstEligible : Prop :=
  ∀ (s : State) (z : ZoneId) (start : Nat),
    (∀ m pos, s.config.zones[z].succession[pos]? = some m → start ≤ pos → s.eligible m z = true →
      (∀ k n, start ≤ k → k < pos → s.config.zones[z].succession[k]? = some n → s.eligible n z = false) →
      s.choose z start = some ⟨m, .list pos, s.timeCount, s.config.zones[z].settleTime⟩) ∧
    ((∀ k n, start ≤ k → s.config.zones[z].succession[k]? = some n → s.eligible n z = false) →
      s.choose z start = none)

/-! ### The action queue and sequences -/

/-- POST ACTION and POST SEQUENCE of the holder, with the value or first step in range and the due time ahead, insert
one entry after every entry due no later, within the limits, and touch nothing else (R90, R94, R113). -/
def Clauses.PostsInsertOneEntry : Prop :=
  ∀ (s : State) (m : Master) (zb x d5 d4 d3 d2 d1 d0 t1 t0 : Byte) (z : ZoneId) (due : TimeCount) (kind : EntryKind)
    (c : Command),
    zoneOf zb = some z → due = BitVec.ofNat 48 (numberOf [d5, d4, d3, d2, d1, d0]) →
    (c = .postAction ∧ (∃ v, valueOf (x &&& 0x7F) = some v ∧ kind = .single v (x.getLsbD 7)) ∨
      c = .postSequence ∧ ∃ k, stepIndexOf x = some k ∧ kind = .sequence k) →
    s.serves m c [zb, d5, d4, d3, d2, d1, d0, x, t1, t0] →
    s.zones[z].authority.holder = some m → s.timeCount < due → s.queue.length < 32 → s.entryCount m < 16 →
    ∃ t before after, exec (c.row m [zb, d5, d4, d3, d2, d1, d0, x, t1, t0]) s = .next t ∧
      t = { s with queue := t.queue, ports := t.ports } ∧ s.queue = before ++ after ∧
      t.queue = before ++ ⟨m, z, due, kind, BitVec.ofNat 16 (numberOf [t1, t0])⟩ :: after ∧
      (∀ e ∈ before, e.due ≤ due) ∧ (∀ e ∈ after.head?, due < e.due) ∧
      Answered s t m c .ok
        (encodeEpoch s.zones[z].epoch ++
          [byteOf (s.entryCount m + 1), byteOf (s.queue.length + 1),
            byteOf (before.countP fun e => decide (e.poster = m))])

/-- A post is refused by the first check of R93 and R112 that fails, and changes nothing. -/
def Clauses.PostsRefusedByTheFirstCheck : Prop :=
  ∀ (s : State) (m : Master) (zb x d5 d4 d3 d2 d1 d0 t1 t0 : Byte) (c : Command) (inRange : Bool),
    (c = .postAction ∧ inRange = (valueOf (x &&& 0x7F)).isSome ∨ c = .postSequence ∧ inRange = (stepIndexOf x).isSome) →
    s.serves m c [zb, d5, d4, d3, d2, d1, d0, x, t1, t0] →
    ∃ t, exec (c.row m [zb, d5, d4, d3, d2, d1, d0, x, t1, t0]) s = .next t ∧
      match zoneOf zb with
      | none => Answered s t m c .range [] ∧ OnlyAnswered s t
      | some z =>
        if s.zones[z].authority.holder ≠ some m then Answered s t m c .notHolder [] ∧ OnlyAnswered s t
        else if inRange = false then Answered s t m c .range [] ∧ OnlyAnswered s t
        else if BitVec.ofNat 48 (numberOf [d5, d4, d3, d2, d1, d0]) ≤ s.timeCount then
          Answered s t m c .past [] ∧ OnlyAnswered s t
        else if 32 ≤ s.queue.length then Answered s t m c .queueFull [] ∧ OnlyAnswered s t
        else if 16 ≤ s.entryCount m then Answered s t m c .quota [] ∧ OnlyAnswered s t
        else t.queue.length = s.queue.length + 1

/-- CANCEL TAG and CANCEL ZONE are served to an ATTACHED master in COMMISSIONING, STORING and OPERATIONAL, eligible or
not. They remove the sender's matching entries silently, leave the others in their order and every zone as it was, and
answer how many went (1 to 16) and how many remain (0 to 15); with none to remove they are refused with NOT_FOUND, and a
zone number outside 0 to 7 with RANGE (R102, R103). -/
def Obligations.CancelsRemoveTheSendersEntries : Prop :=
  (∀ (s : State) (m : Master) (c : Command) (operands : List Byte),
    c = .cancelTag ∧ operands.length = 2 ∨ c = .cancelZone ∧ operands.length = 1 →
    s.gate m c operands =
      if s.device = .starting ∨ s.device = .halted then some .wrongState
      else if s.isAttached m = true then none else some .notAttached) ∧
  (∀ (s : State) (m : Master) (t1 t0 : Byte), s.serves m .cancelTag [t1, t0] →
    ∃ t, exec (.cancelTag m [t1, t0]) s = .next t ∧ t = { s with queue := t.queue, ports := t.ports } ∧
      t.queue = s.queue.filter (fun e => decide (¬ (e.poster = m ∧ e.tag = BitVec.ofNat 16 (numberOf [t1, t0])))) ∧
      let removed := s.queue.countP fun e => decide (e.poster = m ∧ e.tag = BitVec.ofNat 16 (numberOf [t1, t0]))
      if removed = 0 then Answered s t m .cancelTag .notFound []
      else
        Answered s t m .cancelTag .ok [byteOf removed, byteOf (t.entryCount m)] ∧
          (s.entryCount m ≤ 16 → removed ≤ 16 ∧ t.entryCount m ≤ 15)) ∧
  ∀ (s : State) (m : Master) (zb : Byte), s.serves m .cancelZone [zb] →
    ∃ t, exec (.cancelZone m [zb]) s = .next t ∧ t = { s with queue := t.queue, ports := t.ports } ∧
      match zoneOf zb with
      | none => Answered s t m .cancelZone .range [] ∧ t.queue = s.queue
      | some z =>
        t.queue = s.queue.filter (fun e => decide (¬ (e.poster = m ∧ e.zone = z))) ∧
          let removed := s.queue.countP fun e => decide (e.poster = m ∧ e.zone = z)
          if removed = 0 then Answered s t m .cancelZone .notFound []
          else
            Answered s t m .cancelZone .ok [byteOf removed, byteOf (t.entryCount m)] ∧
              (s.entryCount m ≤ 16 → removed ≤ 16 ∧ t.entryCount m ≤ 15)

/-- WRITE STEPS replaces the records at the indices written, of the sender's bank alone, all in one event; a record out
of range, or one past index 15, refuses the whole request (R108, R109). -/
def Clauses.WriteStepsIsCheckedAndTaken : Prop :=
  ∀ (s : State) (m : Master) (first : Byte) (rest : List Byte), s.serves m .writeSteps (first :: rest) →
    ∃ t, exec (.writeSteps m (first :: rest)) s = .next t ∧ t = { s with banks := t.banks, ports := t.ports } ∧
      (∀ n : Master, n ≠ m → t.banks[n] = s.banks[n]) ∧
      match stepsOf rest with
      | none => Answered s t m .writeSteps .range [] ∧ t.banks = s.banks
      | some records =>
        if first.toNat + records.length ≤ 16 then
          (∀ k : StepIndex, first.toNat ≤ k.val → ∀ r, records[k.val - first.toNat]? = some r → t.banks[m][k] = r) ∧
            (∀ k : StepIndex, k.val < first.toNat ∨ first.toNat + records.length ≤ k.val →
              t.banks[m][k] = s.banks[m][k]) ∧
            Answered s t m .writeSteps .ok [first, byteOf records.length]
        else Answered s t m .writeSteps .range [] ∧ t.banks = s.banks

/-- Step records and their operand bytes, five a record: records with no linked delay of 0 encode to bytes that spell
them, bytes that spell records are their encoding, and the first record refuses the bytes exactly where its value is
outside 0 to 15, its link names neither an index 0 to 15 nor END, or it is linked with a delay of 0 (R108, R171). -/
def Clauses.StepRecordsEncodeAndDecode : Prop :=
  (∀ records : List Sys2Proof.Machine.Step, (∀ r ∈ records, r.link.isSome = true → r.delay ≠ 0) →
    stepsOf (records.flatMap encodeStep) = some records) ∧
  (∀ (b : List Byte) (records : List Sys2Proof.Machine.Step), stepsOf b = some records →
    records.flatMap encodeStep = b ∧ b.length = 5 * records.length ∧
      ∀ r ∈ records, r.link.isSome = true → r.delay ≠ 0) ∧
  ∀ (vn link d2 d1 d0 : Byte) (rest : List Byte),
    stepsOf (vn :: link :: d2 :: d1 :: d0 :: rest) = none ↔
      16 ≤ (vn &&& 0x7F).toNat ∨ 16 ≤ link.toNat ∧ link ≠ 0xFF ∨ link ≠ 0xFF ∧ numberOf [d2, d1, d0] = 0 ∨
        stepsOf rest = none

/-- WRITE STEPS (R108, R109), and the bytes of its records (R171). -/
def Obligations.WriteStepsReplacesTheRecords : Prop :=
  Clauses.WriteStepsIsCheckedAndTaken ∧ Clauses.StepRecordsEncodeAndDecode

/-- DUE_EVENT with one entry due, a SINGLE one, at a zone whose check timer has not expired: at a zone that is not
inhibited its value becomes the commanded value and is reported if the entry notifies; at an inhibited zone it is
dropped with INHIBITED (R96 to R98). A change of the driven value restarts or stops a running check timer (R125). -/
def Clauses.DueSingleIsAppliedOrDropped : Prop :=
  ∀ (s : State) (e : Entry) (v : Value) (notify : Bool),
    s.queue.filter (fun x => decide (x.due = s.timeCount)) = [e] → e.kind = .single v notify →
    s.sessions[e.poster].standing ≠ .detached → s.checkExpired e.zone = false →
    ∃ t, exec .dueEvent s = .next t ∧
      t = { s with zones := t.zones, queue := t.queue, attention := t.attention } ∧
      OtherZonesKept s t e.zone ∧ t.queue = s.queue.filter (fun x => decide (x.due ≠ s.timeCount)) ∧
      (∀ n : Master, n ≠ e.poster → t.attention[n] = s.attention[n]) ∧
      if s.zones[e.zone].inhibit = 0 then
        t.zones[e.zone].commanded = v ∧ t.zones[e.zone].authority = s.zones[e.zone].authority ∧
          t.zones[e.zone].epoch = s.zones[e.zone].epoch ∧ t.zones[e.zone].inhibit = s.zones[e.zone].inhibit ∧
          t.zones[e.zone].driven =
            drivenBy s.zones[e.zone].authority v (s.fallback e.zone) s.zones[e.zone].inhibit ∧
          (s.holds e.poster e.zone = true → Redriven s t e.zone v) ∧
          t.attention[e.poster] =
            (if notify then s.attention[e.poster].after (.actionDone e.tag e.zone .applied)
            else s.attention[e.poster])
      else
        t.zones = s.zones ∧
          t.attention[e.poster] = s.attention[e.poster].after (.actionDropped e.tag e.zone .inhibited)

/-- DUE_EVENT with one entry due, a SEQUENCE one, at a zone whose check timer has not expired: its step is applied and
reported if the step notifies, and the monitor responds as to a SINGLE entry; at END it ends with SEQUENCE_END, else it
is queued again at its old due time plus the delay, or past the end of the count dropped with TIME_END; at an inhibited
zone it is dropped whole (R98, R114 to R117). -/
def Clauses.DueStepIsAppliedAndGoesOn : Prop :=
  ∀ (s : State) (e : Entry) (k : StepIndex) (r : Sys2Proof.Machine.Step),
    s.queue.filter (fun x => decide (x.due = s.timeCount)) = [e] → e.kind = .sequence k → r = s.banks[e.poster][k] →
    s.sessions[e.poster].standing ≠ .detached → s.checkExpired e.zone = false →
    ∃ t, exec .dueEvent s = .next t ∧
      t = { s with zones := t.zones, queue := t.queue, attention := t.attention } ∧
      OtherZonesKept s t e.zone ∧ (∀ n : Master, n ≠ e.poster → t.attention[n] = s.attention[n]) ∧
      if s.zones[e.zone].inhibit = 0 then
        t.zones[e.zone].commanded = r.value ∧ t.zones[e.zone].authority = s.zones[e.zone].authority ∧
          t.zones[e.zone].epoch = s.zones[e.zone].epoch ∧
          (s.holds e.poster e.zone = true → Redriven s t e.zone r.value) ∧
          let stepped :=
            if r.notify then s.attention[e.poster].after (.actionDone e.tag e.zone .step) else s.attention[e.poster]
          match r.link with
          | none =>
            t.queue = s.queue.filter (fun x => decide (x.due ≠ s.timeCount)) ∧
              t.attention[e.poster] = stepped.after (.actionDone e.tag e.zone .sequenceEnd)
          | some next =>
            if e.due.toNat + r.delay.toNat < 2 ^ 48 then
              t.queue =
                  insertEntry { e with due := e.due + r.delay.setWidth 48, kind := .sequence next }
                    (s.queue.filter fun x => decide (x.due ≠ s.timeCount)) ∧
                t.attention[e.poster] = stepped
            else
              t.queue = s.queue.filter (fun x => decide (x.due ≠ s.timeCount)) ∧
                t.attention[e.poster] = stepped.after (.actionDropped e.tag e.zone .timeEnd)
      else
        t.zones = s.zones ∧ t.queue = s.queue.filter (fun x => decide (x.due ≠ s.timeCount)) ∧
          t.attention[e.poster] = s.attention[e.poster].after (.actionDropped e.tag e.zone .inhibited)

/-- DUE_EVENT with no entry due is no event: nothing changes (the model's choice, log 2). -/
def Clauses.NoEntryDueChangesNothing : Prop :=
  ∀ s : State, (∀ e ∈ s.queue, e.due ≠ s.timeCount) → exec .dueEvent s = .next s

/-- DUE_EVENT with any number of entries due: they are taken in queue order, each poster's records holding the last
event (R96 to R98, R114 to R117, R119). Then, and only then, the zones whose expired check timer the entries would have
restarted or stopped enter FAULTED with the value just applied and the lines mismatched then (R99, R127); that the same
command takes these faults is the model's choice (log 31). The law of driving is a premise of the faults: only then is
such a zone not FAULTED yet. -/
def Clauses.DueEntriesAreTakenInQueueOrder : Prop :=
  ∀ s : State,
    ∃ u t, exec .dueEvent s = .next t ∧
      EntriesTaken s u (s.queue.filter fun x => decide (x.due = s.timeCount))
        (s.queue.filter fun x => decide (x.due ≠ s.timeCount)) ∧
      ((∀ z : ZoneId, s.checkExpired z = true → u.checkExpired z = true) → t = u) ∧
      ((∀ z : ZoneId, ZoneDrives s z) → Faults u t (fun z => s.checkExpired z && !u.checkExpired z))

/-- A due event and the expiry of a zone's check timer at one count value, the due event first: whatever the entries
apply, the zone is FAULTED once the expiry is taken (R99). -/
def Clauses.AnExpiryFollowsTheDueEvent : Prop :=
  ∀ (s : State) (z : ZoneId), s.checkExpired z = true →
    ∃ t u, exec .dueEvent s = .next t ∧ exec (.readbackCheckExpiry z) t = .next u ∧ u.zones[z].authority = .faulted

/-- DUE_EVENT with one entry due, a SINGLE one of the holder that changes the driven value of a zone whose check timer
has expired: it is applied and reported, and the zone is FAULTED with that value and the lines that differ from it in
its record, the holder told LOST with cause FAULT (R99, R127, R128; in the same command: log 31). -/
def Clauses.AnEntryAtAnExpiredTimerIsAppliedThenFaults : Prop :=
  ∀ (s : State) (e : Entry) (v : Value) (notify : Bool),
    s.queue.filter (fun x => decide (x.due = s.timeCount)) = [e] → e.kind = .single v notify →
    ZoneDrives s e.zone → s.holds e.poster e.zone = true → s.isAttached e.poster = true →
    s.zones[e.zone].inhibit = 0 → s.checkExpired e.zone = true → s.zones[e.zone].driven ≠ some v →
    ∃ t, exec .dueEvent s = .next t ∧ OtherZonesKept s t e.zone ∧ t.zones[e.zone].authority = .faulted ∧
      t.zones[e.zone].epoch = s.zones[e.zone].epoch + 1 ∧ t.zones[e.zone].driven = none ∧
      t.zones[e.zone].commanded = s.fallback e.zone ∧
      t.zones[e.zone].monitor = .fault ⟨v, s.zones[e.zone].sensed ^^^ v⟩ ∧
      t.queue =
        s.queue.filter (fun x => decide (x.due ≠ s.timeCount ∧ ¬ (x.poster = e.poster ∧ x.zone = e.zone))) ∧
      SetsFollow s t e.zone ∧ TimersFollow s t ∧ t.attention[e.poster].loss = some ⟨e.zone, .fault⟩ ∧
      (notify = true → t.attention[e.poster].done = some ⟨e.tag, e.zone, .applied⟩)

/-! ### Output lines and inputs -/

/-- SENSED_VALUE_CHANGE: the sensed value is kept, and while the zone is driven with a check time the monitor acts as
R124's table gives; nothing else changes (R123, R124). That the comparison is made at this row, at the present count
value, is the model's choice (log 6). -/
def Obligations.SensingMovesTheMonitor : Prop :=
  ∀ (s : State) (z : ZoneId) (v : Value),
    ∃ t, exec (.sensedValueChange z v) s = .next t ∧ t = { s with zones := t.zones } ∧ OtherZonesKept s t z ∧
      t.zones[z] = { s.zones[z] with sensed := v, monitor := t.zones[z].monitor } ∧
      (s.zones[z].driven = none ∨ s.config.zones[z].checkTime = 0 → t.zones[z].monitor = s.zones[z].monitor) ∧
      ∀ d, s.zones[z].driven = some d → s.config.zones[z].checkTime ≠ 0 →
        (s.zones[z].monitor = .matching →
          t.zones[z].monitor = if v = d then .matching else .checking s.timeCount (v ^^^ d)) ∧
        ∀ since l, s.zones[z].monitor = .checking since l →
          t.zones[z].monitor = if v = d then .matching else .checking since (v ^^^ d)

/-- READBACK_CHECK_EXPIRY when the check timer has run the check time: the zone is FAULTED and undriven, the fault
record holds what it drove and the mismatched lines, a holder loses it with cause FAULT and its entries are dropped with
ACTION_DROPPED each, and every permitted ATTACHED master, no other, gets ZONE_FAULT (R124, R127, R128). That the zone
drives by the law of driving is a premise: only then is a zone under check not FAULTED already. That before then the row
is no event is the model's choice (log 2). -/
def Obligations.CheckExpiryFaultsTheZone : Prop :=
  ∀ (s : State) (z : ZoneId), ZoneDrives s z →
    ∃ t, exec (.readbackCheckExpiry z) s = .next t ∧
      match s.zones[z].monitor with
      | .checking since l =>
        if s.config.zones[z].checkTime.toNat * 1000 ≤ (s.timeCount - since).toNat then
          OtherZonesKept s t z ∧ t.zones[z].authority = .faulted ∧ t.zones[z].driven = none ∧
            (∀ d, s.zones[z].driven = some d → t.zones[z].monitor = .fault ⟨d, l⟩) ∧
            t.zones[z].commanded = s.fallback z ∧ EpochFollows s t z ∧
            t.zones[z].inhibit = s.zones[z].inhibit ∧ SetsFollow s t z ∧ TimersFollow s t ∧
            (∀ h, s.zones[z].authority.holder = some h →
              t.queue = s.queue.filter (fun e => decide (¬ (e.poster = h ∧ e.zone = z))) ∧
                (s.isAttached h = true →
                  Flag.lost.mem t.attention[h].flags = true ∧ t.attention[h].loss = some ⟨z, .fault⟩)) ∧
            (s.zones[z].authority.holder = none → t.queue = s.queue) ∧
            (∀ p, s.zones[z].authority.request = some p → s.isAttached p.requester = true →
              t.attention[p.requester].result = some ⟨z, .dropped⟩) ∧
            (∀ n : Master, s.isAttached n = true → s.permits z n = true →
              Flag.zoneFault.mem t.attention[n].flags = true) ∧
            (∀ n : Master, s.isAttached n = false ∨ s.permits z n = false →
              Flag.zoneFault.mem t.attention[n].flags = Flag.zoneFault.mem s.attention[n].flags) ∧
            Faults s t (fun y => decide (y = z)) ∧
            t = { s with zones := t.zones, changeSets := t.changeSets, sessions := t.sessions,
                         attention := t.attention, queue := t.queue }
        else t = s
      | _ => t = s

/-- RAW_LEVEL_CHANGE: the sample of the present count value sets the raw level, and the filter acts on it as R135 and
R137 give; nothing else changes. That the row is the sample of the present count value, so that several rows at one
count value are several samples, is the model's choice (log 5). -/
def Obligations.SamplingMovesTheFilter : Prop :=
  ∀ (s : State) (i : InputId) (level : Level),
    ∃ t, exec (.rawLevelChange i level) s = .next t ∧ t = { s with inputs := t.inputs } ∧
      (∀ j : InputId, j ≠ i → t.inputs[j] = s.inputs[j]) ∧ t.inputs[i].raw = level ∧
      match s.inputs[i].live with
      | .disabled => t.inputs[i].live = .disabled
      | .establishing none => t.inputs[i].live = .establishing (some (level, s.timeCount))
      | .establishing (some (candidate, since)) =>
        t.inputs[i].live =
          .establishing (some (if level = candidate then (candidate, since) else (level, s.timeCount)))
      | .tracking recognised none =>
        t.inputs[i].live = .tracking recognised (if level = recognised then none else some s.timeCount)
      | .tracking recognised (some since) =>
        t.inputs[i].live = .tracking recognised (if level = recognised then none else some since)

/-- FIRST_RECOGNITION of an ESTABLISHING input whose level, the sample of this count value included, has stood for the
filter time, which is at the first sample for a filter time of 0: the input is TRACKING at that level, no capture is
made, every other input is as it was, it stays in its zones' inhibit sets exactly if the level is its forcing level, and
each master is told INHIBIT_CHANGE for the zones it holds whose inhibit ends, and nothing else (R137, R148 to R150).
That before then, and in any other live state, the row is no event, and that it takes the sample of this count value
first, is the model's choice (logs 2, 5). -/
def Clauses.FirstRecognitionEstablishes : Prop :=
  ∀ (s : State) (i : InputId),
    ∃ t, exec (.firstRecognition i) s = .next t ∧
      t = { s with inputs := t.inputs, zones := t.zones, attention := t.attention } ∧
      (∀ progress, s.inputs[i].live = .establishing progress →
        let since :=
          match progress with
          | some (candidate, began) => if s.inputs[i].raw = candidate then began else s.timeCount
          | none => s.timeCount
        if s.config.inputs[i].filterTime.toNat * 10 ≤ (s.timeCount - since).toNat then
          t.inputs = s.inputs.set i { s.inputs[i] with live := .tracking s.inputs[i].raw none } ∧
            InhibitFollows s t i ∧ ∀ n : Master, t.attention[n] = s.told n (s.inhibitReports t n)
        else t = s) ∧
      ((∀ progress, s.inputs[i].live ≠ .establishing progress) → t = s)

/-- RECOGNISED_CHANGE of a TRACKING input whose other level, the sample of this count value included, has stood for the
filter time, which is at the first sample for a filter time of 0: that level is recognised, a capture record is appended
exactly if the edge mode selects it and a master is ATTACHED, every other input is as it was, and the inhibit sets
follow; each master is told exactly what the append and the inhibits give, and a session changes only where its cursor
was at the record removed (R135, R139, R140, R143, R144, R148 to R150). That before then, and in any other live state,
the row is no event, and that it takes the sample of this count value first, is the model's choice (logs 2, 5). -/
def Clauses.RecognisedChangeIsCaptured : Prop :=
  ∀ (s : State) (i : InputId),
    ∃ t, exec (.recognisedChange i) s = .next t ∧
      t = { s with inputs := t.inputs, zones := t.zones, attention := t.attention, sessions := t.sessions,
                   ring := t.ring, nextSerial := t.nextSerial } ∧
      (∀ recognised progress, s.inputs[i].live = .tracking recognised progress →
        s.inputs[i].raw = Level.other recognised →
        let since := progress.getD s.timeCount
        if s.config.inputs[i].filterTime.toNat * 10 ≤ (s.timeCount - since).toNat then
          t.inputs = s.inputs.set i { s.inputs[i] with live := .tracking (Level.other recognised) none } ∧
            InhibitFollows s t i ∧
            if EdgeMode.captures (Level.other recognised) s.config.inputs[i].edge = true ∧
                ∃ n, s.isAttached n = true then
              t.nextSerial = s.nextSerial + 1 ∧
                t.ring =
                  (if s.ring.length < 64 then s.ring else s.ring.drop 1) ++
                    [⟨s.nextSerial, i, Level.other recognised, s.timeCount⟩] ∧
                ∀ n : Master,
                  t.sessions[n] = s.sessionAfterAppend n ∧
                    t.attention[n] = s.told n (s.captureReports i n ++ s.inhibitReports t n)
            else
              t.nextSerial = s.nextSerial ∧ t.ring = s.ring ∧ t.sessions = s.sessions ∧
                ∀ n : Master, t.attention[n] = s.told n (s.inhibitReports t n)
        else t = s) ∧
      (∀ recognised progress, s.inputs[i].live = .tracking recognised progress → s.inputs[i].raw = recognised → t = s) ∧
      ((∀ recognised progress, s.inputs[i].live ≠ .tracking recognised progress) → t = s)

/-- READ CAPTURES answers the first n unread records, moves the sender's cursor past them, frees exactly what no
ATTACHED master's cursor needs, and answers the cursor and the number left; n outside 1 to 4 is refused with RANGE
(R142, R145). The law of the ring is a premise: it says what unread means. -/
def Obligations.ReadCapturesMovesTheCursor : Prop :=
  ∀ (s : State) (m : Master) (n : Byte) (cursor : Serial), s.serves m .readCaptures [n] →
    s.sessions[m].standing = .attached cursor → LawOfRing s →
    ∃ t, exec (.readCaptures m [n]) s = .next t ∧
      t = { s with sessions := t.sessions, ring := t.ring, ports := t.ports } ∧
      (∀ k : Master, k ≠ m → t.sessions[k] = s.sessions[k]) ∧
      if 1 ≤ n.toNat ∧ n.toNat ≤ 4 then
        let unread := s.ring.drop (s.ring.length - (s.nextSerial - cursor).toNat)
        let read := unread.take n.toNat
        t.sessions[m] = { s.sessions[m] with standing := .attached (cursor + BitVec.ofNat 32 read.length) } ∧
          RingFreed s t ∧
          Answered s t m .readCaptures .ok
            (read.flatMap encodeCapture ++ encodeSerial (cursor + BitVec.ofNat 32 read.length) ++
              [byteOf (unread.length - read.length)])
      else Answered s t m .readCaptures .range [] ∧ t.ring = s.ring ∧ t.sessions = s.sessions

/-! ### Flags -/

/-- ACKNOWLEDGE clears the flags named, and with SUPERVISION_WARNING a pending strike; records, enables and mask stay;
a set naming bit 15 is refused with RANGE (R157, R31). -/
def Clauses.AcknowledgeClearsTheFlagsNamed : Prop :=
  ∀ (s : State) (m : Master) (hi lo : Byte), s.serves m .acknowledge [hi, lo] →
    ∃ t, exec (.acknowledge m [hi, lo]) s = .next t ∧
      t = { s with attention := t.attention, sessions := t.sessions, ports := t.ports } ∧
      if hi.getLsbD 7 = true then Answered s t m .acknowledge .range [] ∧ OnlyAnswered s t
      else
        let named : FlagSet := (hi ++ lo).setWidth 15
        t.attention = s.attention.set m { s.attention[m] with flags := s.attention[m].flags &&& ~~~named } ∧
          t.sessions =
            s.sessions.set m
              { s.sessions[m] with
                strike := s.sessions[m].strike && !Flag.supervisionWarning.mem named } ∧
          Answered s t m .acknowledge .ok (encodeFlags t.attention[m].flags)

/-- SET ENABLES replaces enables and mask, and sets or clears no flag; a set naming bit 15 is refused with RANGE
(R159). -/
def Clauses.SetEnablesReplacesEnablesAndMask : Prop :=
  ∀ (s : State) (m : Master) (hi lo mask : Byte), s.serves m .setEnables [hi, lo, mask] →
    ∃ t, exec (.setEnables m [hi, lo, mask]) s = .next t ∧
      t = { s with attention := t.attention, ports := t.ports } ∧
      if hi.getLsbD 7 = true then Answered s t m .setEnables .range [] ∧ OnlyAnswered s t
      else
        t.attention =
            s.attention.set m { s.attention[m] with enables := (hi ++ lo).setWidth 15, notifyMask := mask } ∧
          Answered s t m .setEnables .ok
            (encodeFlags ((hi ++ lo).setWidth 15) ++ [mask, yesNo (t.attn m)])

/-! ### Configuration and store -/

/-- WRITE ZONE CONFIG makes its checks in R177's order; when it is taken the configuration is replaced whole, the new
fallback value is commanded and driven, and no change set gains the zone (R177). The monitor takes the check time first:
an unchanged one leaves it, 0 makes it OFF, 1 to 255 ms begins it fresh against the value then driven (R126); then it
responds to the new fallback value where that changes the driven value (R125). -/
def Obligations.WriteZoneConfigIsCheckedAndTaken : Prop :=
  ∀ (s : State) (m : Master) (zb : Byte) (rest : List Byte), s.serves m .writeZoneConfig (zb :: rest) →
    ∃ t, exec (.writeZoneConfig m (zb :: rest)) s = .next t ∧
      t = { s with zones := t.zones, config := t.config, ports := t.ports } ∧
      if s.device = .operational then Answered s t m .writeZoneConfig .wrongState [] ∧ OnlyAnswered s t
      else if s.device.isStoring = true then Answered s t m .writeZoneConfig .busy [] ∧ OnlyAnswered s t
      else
        match zoneOf zb with
        | none => Answered s t m .writeZoneConfig .range [] ∧ OnlyAnswered s t
        | some z =>
          if s.zones[z].authority ≠ .vacant then
            Answered s t m .writeZoneConfig .wrongState [] ∧ OnlyAnswered s t
          else
            match zoneConfigOf rest with
            | none => Answered s t m .writeZoneConfig .range [] ∧ OnlyAnswered s t
            | some c =>
              t.config = { s.config with zones := s.config.zones.set z c } ∧ OtherZonesKept s t z ∧
                t.zones[z].authority = .vacant ∧ t.zones[z].epoch = s.zones[z].epoch ∧
                t.zones[z].commanded = c.fallback ∧ t.zones[z].driven = some c.fallback ∧
                t.zones[z].inhibit = s.zones[z].inhibit ∧ t.zones[z].sensed = s.zones[z].sensed ∧
                (c.checkTime = s.config.zones[z].checkTime → s.zones[z].driven = some c.fallback →
                  t.zones[z].monitor = s.zones[z].monitor) ∧
                (c.checkTime ≠ s.config.zones[z].checkTime → c.checkTime = 0 → s.zones[z].driven ≠ none →
                  t.zones[z].monitor = .off) ∧
                (∀ d, s.zones[z].driven = some d →
                  t.zones[z].monitor =
                    (if c.checkTime = s.config.zones[z].checkTime then s.zones[z].monitor
                      else if c.checkTime = 0 then .off
                      else if s.zones[z].sensed = d then .matching
                      else .checking s.timeCount (s.zones[z].sensed ^^^ d)).respond
                      s.timeCount s.zones[z].sensed d c.fallback) ∧
                (s.zones[z].driven = none →
                  t.zones[z].monitor = freshMonitor c.checkTime s.timeCount c.fallback s.zones[z].sensed) ∧
                Answered s t m .writeZoneConfig .ok []

/-- A zone configuration that ten bytes spell is in range, and its encoding is those bytes; every configuration in range
has such bytes (R177, R179). -/
def Clauses.ZoneConfigurationsEncodeAndDecode : Prop :=
  (∀ c : ZoneConfig, c.InRange → zoneConfigOf (encodeZoneConfig c) = some c) ∧
    ∀ (b : List Byte) (c : ZoneConfig), zoneConfigOf b = some c → c.InRange ∧ encodeZoneConfig c = b

/-- WRITE INPUT CONFIG makes its checks in R178's order; when it is taken the configuration is replaced, the input is
ESTABLISHING with an empty progress or DISABLED, and its memberships follow, whatever the states of the zones (R138,
R148), with the lines and the monitors of zones whose driven value changes (R120, R125); each master is told
INHIBIT_CHANGE for the zones it holds whose inhibit starts or ends, and nothing else (R149, R150, R178). -/
def Clauses.WriteInputConfigIsCheckedAndTaken : Prop :=
  ∀ (s : State) (m : Master) (ib : Byte) (rest : List Byte), s.serves m .writeInputConfig (ib :: rest) →
    ∃ t, exec (.writeInputConfig m (ib :: rest)) s = .next t ∧
      t = { s with zones := t.zones, inputs := t.inputs, attention := t.attention, config := t.config,
                   ports := t.ports } ∧
      if s.device = .operational then Answered s t m .writeInputConfig .wrongState [] ∧ OnlyAnswered s t
      else if s.device.isStoring = true then Answered s t m .writeInputConfig .busy [] ∧ OnlyAnswered s t
      else
        match inputOf ib, inputConfigOf rest with
        | some i, some c =>
          t.config = { s.config with inputs := s.config.inputs.set i c } ∧
            t.inputs =
              s.inputs.set i { s.inputs[i] with live := if c.enabled then .establishing none else .disabled } ∧
            InhibitFollows s t i ∧ (∀ n : Master, t.attention[n] = s.told n (s.inhibitReports t n)) ∧
            Answered s t m .writeInputConfig .ok []
        | _, _ => Answered s t m .writeInputConfig .range [] ∧ OnlyAnswered s t

/-- Every input configuration has five bytes that spell it, and the bytes that spell one are its encoding; five bytes
spell none exactly where enabled, edge mode or forcing level is outside its listed values (R170, R178, R179). -/
def Clauses.InputConfigurationsEncodeAndDecode : Prop :=
  (∀ c : InputConfig, inputConfigOf (encodeInputConfig c) = some c) ∧
    (∀ (b : List Byte) (c : InputConfig), inputConfigOf b = some c → encodeInputConfig c = b) ∧
    ∀ enabled edge filter zones forcing : Byte,
      inputConfigOf [enabled, edge, filter, zones, forcing] = none ↔
        2 ≤ enabled.toNat ∨ 3 ≤ edge.toNat ∨ 2 ≤ forcing.toNat

/-- WRITE MASTER POLICY makes its checks in R178's order; when it is taken the required strictness is replaced and no
session changes (R33, R178). -/
def Clauses.WriteMasterPolicyIsCheckedAndTaken : Prop :=
  ∀ (s : State) (m : Master) (mb code : Byte), s.serves m .writeMasterPolicy [mb, code] →
    ∃ t, exec (.writeMasterPolicy m [mb, code]) s = .next t ∧ t = { s with config := t.config, ports := t.ports } ∧
      if s.device = .operational then Answered s t m .writeMasterPolicy .wrongState [] ∧ OnlyAnswered s t
      else if s.device.isStoring = true then Answered s t m .writeMasterPolicy .busy [] ∧ OnlyAnswered s t
      else
        match masterOf mb, modeOf code with
        | none, _ => Answered s t m .writeMasterPolicy .range [] ∧ OnlyAnswered s t
        | some _, none => Answered s t m .writeMasterPolicy .codeError [] ∧ OnlyAnswered s t
        | some n, some mode =>
          t.config = { s.config with strictness := s.config.strictness.set n mode } ∧
            Answered s t m .writeMasterPolicy .ok []

/-- COMMIT makes its checks in R180's order; when it is taken the device is STORING with the image of the working
configuration, marked, the store CORRUPT until the write ends, and the answer OK is loaded at once. -/
def Obligations.CommitEntersStoring : Prop :=
  ∀ (s : State) (m : Master), s.serves m .commit [] →
    ∃ t, exec (.commit m []) s = .next t ∧
      t = { s with device := t.device, store := t.store, presentStore := t.presentStore, ports := t.ports } ∧
      if s.device = .operational then Answered s t m .commit .wrongState [] ∧ OnlyAnswered s t
      else if s.device.isStoring = true then Answered s t m .commit .busy [] ∧ OnlyAnswered s t
      else if ∃ z : ZoneId, s.zones[z].authority ≠ .vacant then
        Answered s t m .commit .wrongState [] ∧ OnlyAnswered s t
      else
        t.device = .storing m (imageOf s.config true) ∧ t.presentStore = some .corrupt ∧
          t.store.read = .corrupt ∧ Answered s t m .commit .ok []

/-- STORE_WRITE_END in STORING: a matching verify leaves the image in the store and takes the COMMIT restart; a mismatch
returns the device to COMMISSIONING with everything as it stood, the store CORRUPT, and sets the committing master's
STORE_FAILED unless it is DETACHED (R175, R180). That a committing master that has attached again is told STORE_FAILED
too (log 16), that in any other device state the row is no event (log 2), the levels the restart keeps, with CFG as the
row's operand (logs 9, 10), what SDO shows of a transaction it cuts (log 15), and that the commands that wait still wait
(log 4), are the model's choices. -/
def Obligations.StoreWriteEndsEitherWay : Prop :=
  ∀ (s : State) (cfg : Level),
    (∀ m image, s.device = .storing m image →
      (∃ t, exec (.storeWriteEnd true cfg) s = .next t ∧ AfterReset s t .commitRestart cfg (.image image)) ∧
      ∃ t, exec (.storeWriteEnd false cfg) s = .next t ∧ t.device = .commissioning ∧
        t = { s with device := .commissioning, attention := t.attention } ∧
        (∀ n : Master, n ≠ m → t.attention[n] = s.attention[n]) ∧
        t.attention[m] =
          if s.sessions[m].standing = .detached then s.attention[m] else s.attention[m].after .storeFailed) ∧
    ((∀ m image, s.device ≠ .storing m image) → ∀ v, exec (.storeWriteEnd v cfg) s = .next s)

/-- The image of a configuration in range, as COMMIT writes it, is read back VALID with the same configuration and mark
(R173; the order of its bytes is the model's, log 11). -/
def Clauses.StoreImageReadsBack : Prop :=
  ∀ (c : WorkingConfig) (marked : Bool), c.InRange → readImage (imageOf c marked) = .valid c marked

/-- START_UP_DECISION in STARTING: device state, working configuration, source and store states by the table of R174;
on leaving for HALTED zones and inputs stay as they are, else every zone is VACANT at its fallback value with its epoch
kept, driven by the configuration just loaded with a fresh monitor, and every enabled input ESTABLISHING (R4, R121,
R125, R136, R173, R174, R179). Nothing else changes; for sessions, flags and change sets the premise is that every
master is DETACHED and every zone DARK, as both are in STARTING (R4, R24). That in any other device state the row is no
event is the model's choice (log 2). -/
def Obligations.StartUpDecidesByStrapAndStore : Prop :=
  ∀ s : State,
    ∃ t, exec .startUpDecision s = .next t ∧
      if s.device = .starting then
        (match s.store.read with
        | .valid c marked =>
          t.config = c ∧ t.source = .store ∧ t.presentStore = some .valid ∧
            t.startupStore = some (if s.cfg = .high then .strapped else .valid) ∧
            t.device = if s.cfg = .low ∧ marked = true then .operational else .commissioning
        | .blank =>
          t.config = .default ∧ t.source = .defaults ∧ t.presentStore = some .blank ∧
            t.startupStore = some (if s.cfg = .high then .strapped else .blank) ∧ t.device = .commissioning
        | .corrupt =>
          t.config = .default ∧ t.source = .defaults ∧ t.presentStore = some .corrupt ∧
            t.startupStore = some (if s.cfg = .high then .strapped else .corrupt) ∧
            t.device = if s.cfg = .high then .commissioning else .halted) ∧
        (t.device = .halted → t.zones = s.zones ∧ t.inputs = s.inputs ∧ t.sessions = s.sessions ∧
          t.attention = s.attention ∧ t.changeSets = s.changeSets) ∧
        (t.device ≠ .halted →
          (∀ z : ZoneId, t.zones[z].authority = .vacant ∧ t.zones[z].commanded = t.fallback z ∧
            t.zones[z].driven = some (t.fallback z) ∧ t.zones[z].sensed = s.zones[z].sensed ∧
            (s.zones[z].driven = none →
              t.zones[z].monitor =
                freshMonitor t.config.zones[z].checkTime s.timeCount (t.fallback z) s.zones[z].sensed) ∧
            (s.zones[z].authority = .dark → t.zones[z].epoch = s.zones[z].epoch)) ∧
          (∀ i : InputId, t.inputs[i] =
            { s.inputs[i] with live := if t.config.inputs[i].enabled then .establishing none else .disabled }) ∧
          ∀ (z : ZoneId) (i : InputId), t.zones[z].inhibit.getLsbD i.val =
            (t.config.inputs[i].enabled && t.config.inputs[i].interlock.getLsbD z.val)) ∧
        ((∀ m : Master, s.sessions[m].standing = .detached) → (∀ z : ZoneId, s.zones[z].authority = .dark) →
          t.sessions = s.sessions ∧ t.attention = s.attention ∧ t.changeSets = s.changeSets) ∧
        t = { s with device := t.device, config := t.config, source := t.source, startupStore := t.startupStore,
                     presentStore := t.presentStore, zones := t.zones, inputs := t.inputs, sessions := t.sessions,
                     attention := t.attention, changeSets := t.changeSets }
      else t = s

/-! ### The time count -/

/-- TIME_COUNT_ADVANCE takes what is still due at the present count value and then steps the count by one: no entry due
at the old value is left in the queue, and no settle timer and no handover timer stands at or past its end (R86, R96;
that the advance closes the microsecond is the model's, log 3). -/
def Clauses.TheAdvanceLeavesNothingDue : Prop :=
  ∀ s : State, LawOfQueue s →
    ∃ t, exec .timeCountAdvance s = .next t ∧ t.timeCount = s.timeCount + 1 ∧
      (∀ e ∈ t.queue, s.timeCount < e.due) ∧
      (∀ (z : ZoneId) (c : Candidate), t.zones[z].authority = .settling c → 0 < c.settle.toNat →
        (s.timeCount - c.since).toNat < c.settle.toNat * 10000) ∧
      (∀ (z : ZoneId) (h : Master) (p : Pending), t.zones[z].authority = .transfer h p → 0 < p.timeout.toNat →
        (s.timeCount - p.since).toNat < p.timeout.toNat * 10000) ∧
      t.banks = s.banks ∧ t.config = s.config ∧ t.ports = s.ports ∧ t.device = s.device ∧ t.store = s.store

/-- TIME_COUNT_ADVANCE leaves no timer at or past its end at the count value it closes: no supervision timer of an
ATTACHED master, none CLOSED past its first half, no readback check timer, and no input with a level that has stood for
its filter time or none sampled (R25 to R28, R124, R135, R137; that the advance takes their events is the model's,
log 3). The law of driving is a premise of the check timers alone: only then is a zone under check driven. -/
def Clauses.TheAdvanceLeavesNoTimerDue : Prop :=
  ∀ s : State,
    ∃ t, exec .timeCountAdvance s = .next t ∧
      (∀ (m : Master) (since : TimeCount), t.isAttached m = true →
        (t.sessions[m].timer = .running since ∨ t.sessions[m].timer = .opened since →
          (s.timeCount - since).toNat < t.sessions[m].period.micros) ∧
        (t.sessions[m].timer = .closed since → (s.timeCount - since).toNat < t.sessions[m].period.micros / 2)) ∧
      (LawOfDriving s → ∀ (z : ZoneId) (since : TimeCount) (l : LineSet), t.zones[z].monitor = .checking since l →
        (s.timeCount - since).toNat < t.config.zones[z].checkTime.toNat * 1000) ∧
      ∀ i : InputId,
        t.inputs[i].live ≠ .establishing none ∧
          (∀ (level : Level) (since : TimeCount), t.inputs[i].live = .establishing (some (level, since)) →
            (s.timeCount - since).toNat < t.config.inputs[i].filterTime.toNat * 10) ∧
          ∀ (level : Level) (since : TimeCount), t.inputs[i].live = .tracking level (some since) →
            (s.timeCount - since).toNat < t.config.inputs[i].filterTime.toNat * 10

/-! ### Statements of several clauses -/

/-- The manual's worked frames (R161, R162) and the code tables of R169 and R170. -/
def Obligations.KnownFramesAndCodes : Prop :=
  Clauses.KnownFrames ∧ Clauses.CodeTables

/-- TRANSACTION_END: the frame checks of R163 for a transaction begun from IDLE, the discarding of any other (R165), the
bytes shifted out (R161), no transaction to end (log 21), and the law of the turn (R167). -/
def Obligations.TransactionEndChecksOrDiscards : Prop :=
  Clauses.FrameChecksAtTheRelease ∧ Clauses.OtherFramesAreDiscarded ∧ Clauses.TransactionsShiftOutTheResponse ∧
    Clauses.NoTransactionEndsWhereNoneRuns ∧ Clauses.EveryStepKeepsTheLawOfTheTurn

/-- The gating of R166: its order, and the refusal it leads to, by which the turn passes on (log 30). -/
def Obligations.GatingInOrder : Prop :=
  Clauses.GatesInOrder ∧ Clauses.GatedRequestsAreRefused

/-- STATUS and READ CONFIG (R176, R179). -/
def Obligations.StatusAndConfigurationAreReported : Prop :=
  Clauses.StatusReports ∧ Clauses.ReadConfigReturnsASection

/-- READ ZONE and READ ZONE CHANGES (R13, R21, R22, R171). -/
def Obligations.ReadZoneAndReadZoneChanges : Prop :=
  Clauses.ReadZoneReturnsTheRecord ∧ Clauses.ReadZoneOutOfRangeIsRefused ∧ Clauses.ReadZoneChangesEmptiesTheSet

/-- SUPERVISION_EXPIRY and WINDOW_OPEN (R25 to R28). -/
def Obligations.SupervisionTimerEvents : Prop :=
  Clauses.SupervisionExpiryStrikesOrRevokes ∧ Clauses.WindowOpensAtHalfThePeriod

/-- CLAIM (R14, R15). -/
def Obligations.ClaimIsCheckedAndTaken : Prop :=
  Clauses.ClaimTakenFromVacant ∧ Clauses.ClaimRefusedByTheFirstCheck

/-- RELEASE (R17, R18, R59). -/
def Obligations.ReleaseIsCheckedAndTaken : Prop :=
  Clauses.ReleaseFromHeld ∧ Clauses.ReleaseInTransferAndByOthers

/-- REQUEST HANDOVER (R48, R49). -/
def Obligations.RequestHandoverIsCheckedAndTaken : Prop :=
  Clauses.RequestHandoverTaken ∧ Clauses.RequestHandoverRefusedByTheFirstCheck

/-- REFUSE and WITHDRAW (R54, R55). -/
def Obligations.RefuseAndWithdrawEndTheRequest : Prop :=
  Clauses.RefuseEndsTheRequest ∧ Clauses.WithdrawEndsTheRequest

/-- POST ACTION and POST SEQUENCE (R90, R93, R94, R112, R113). -/
def Obligations.PostsAreCheckedAndInserted : Prop :=
  Clauses.PostsInsertOneEntry ∧ Clauses.PostsRefusedByTheFirstCheck

/-- DUE_EVENT: of one SINGLE entry, of one SEQUENCE entry, of none (log 2), of several, and at a zone whose check timer
has expired (R96 to R99, R114 to R117, R119, R125). -/
def Obligations.DueEventTakesTheDueEntry : Prop :=
  Clauses.DueSingleIsAppliedOrDropped ∧ Clauses.DueStepIsAppliedAndGoesOn ∧ Clauses.NoEntryDueChangesNothing ∧
    Clauses.DueEntriesAreTakenInQueueOrder ∧ Clauses.AnExpiryFollowsTheDueEvent ∧
    Clauses.AnEntryAtAnExpiredTimerIsAppliedThenFaults

/-- FIRST_RECOGNITION and RECOGNISED_CHANGE (R135, R137, R139, R140, R143, R144, R148 to R150). -/
def Obligations.RecognitionOfInputs : Prop :=
  Clauses.FirstRecognitionEstablishes ∧ Clauses.RecognisedChangeIsCaptured

/-- ACKNOWLEDGE and SET ENABLES (R157, R159). -/
def Obligations.AcknowledgeAndSetEnables : Prop :=
  Clauses.AcknowledgeClearsTheFlagsNamed ∧ Clauses.SetEnablesReplacesEnablesAndMask

/-- WRITE INPUT CONFIG, with the bytes of an input configuration, and WRITE MASTER POLICY (R178). -/
def Obligations.InputAndPolicyWritesAreCheckedAndTaken : Prop :=
  Clauses.WriteInputConfigIsCheckedAndTaken ∧ Clauses.InputConfigurationsEncodeAndDecode ∧
    Clauses.WriteMasterPolicyIsCheckedAndTaken

/-- Zone configurations and store images read back as they were written (R173, R177, R179). -/
def Obligations.ConfigurationsReadBack : Prop :=
  Clauses.ZoneConfigurationsEncodeAndDecode ∧ Clauses.StoreImageReadsBack

/-- The time count: what sets it, and what its advance leaves (R86, R96). -/
def Obligations.TheTimeCountAdvances : Prop :=
  Clauses.TimeCountChangesAtResetsAndAdvances ∧ Clauses.TheAdvanceLeavesNothingDue ∧ Clauses.TheAdvanceLeavesNoTimerDue
end

