-- ==== Sys2Proof/Laws/State.lean ====
section
/-! SUPPORT. One lemma per field per update of the state, so that no later proof unfolds a record update. -/

namespace Sys2Proof.Machine

/-! ### withTimeCount -/

@[simp] theorem State.withTimeCount_timeCount (s : State) (t : TimeCount) : (s.withTimeCount t).timeCount = t := rfl
@[simp] theorem State.withTimeCount_queue (s : State) (t : TimeCount) : (s.withTimeCount t).queue = s.queue := rfl
@[simp] theorem State.withTimeCount_banks (s : State) (t : TimeCount) : (s.withTimeCount t).banks = s.banks := rfl
@[simp] theorem State.withTimeCount_zones (s : State) (t : TimeCount) : (s.withTimeCount t).zones = s.zones := rfl
@[simp] theorem State.withTimeCount_changeSets (s : State) (t : TimeCount) : (s.withTimeCount t).changeSets = s.changeSets := rfl
@[simp] theorem State.withTimeCount_lastServed (s : State) (t : TimeCount) : (s.withTimeCount t).lastServed = s.lastServed := rfl
@[simp] theorem State.withTimeCount_chosen (s : State) (t : TimeCount) : (s.withTimeCount t).chosen = s.chosen := rfl
@[simp] theorem State.withTimeCount_sessions (s : State) (t : TimeCount) : (s.withTimeCount t).sessions = s.sessions := rfl
@[simp] theorem State.withTimeCount_attention (s : State) (t : TimeCount) : (s.withTimeCount t).attention = s.attention := rfl
@[simp] theorem State.withTimeCount_inputs (s : State) (t : TimeCount) : (s.withTimeCount t).inputs = s.inputs := rfl
@[simp] theorem State.withTimeCount_nextSerial (s : State) (t : TimeCount) : (s.withTimeCount t).nextSerial = s.nextSerial := rfl
@[simp] theorem State.withTimeCount_ring (s : State) (t : TimeCount) : (s.withTimeCount t).ring = s.ring := rfl
@[simp] theorem State.withTimeCount_ports (s : State) (t : TimeCount) : (s.withTimeCount t).ports = s.ports := rfl
@[simp] theorem State.withTimeCount_device (s : State) (t : TimeCount) : (s.withTimeCount t).device = s.device := rfl
@[simp] theorem State.withTimeCount_resetCause (s : State) (t : TimeCount) : (s.withTimeCount t).resetCause = s.resetCause := rfl
@[simp] theorem State.withTimeCount_cfg (s : State) (t : TimeCount) : (s.withTimeCount t).cfg = s.cfg := rfl
@[simp] theorem State.withTimeCount_startupStore (s : State) (t : TimeCount) : (s.withTimeCount t).startupStore = s.startupStore := rfl
@[simp] theorem State.withTimeCount_presentStore (s : State) (t : TimeCount) : (s.withTimeCount t).presentStore = s.presentStore := rfl
@[simp] theorem State.withTimeCount_store (s : State) (t : TimeCount) : (s.withTimeCount t).store = s.store := rfl
@[simp] theorem State.withTimeCount_config (s : State) (t : TimeCount) : (s.withTimeCount t).config = s.config := rfl
@[simp] theorem State.withTimeCount_source (s : State) (t : TimeCount) : (s.withTimeCount t).source = s.source := rfl
@[simp] theorem State.withTimeCount_pending (s : State) (t : TimeCount) : (s.withTimeCount t).pending = s.pending := rfl

/-! ### withQueue -/

@[simp] theorem State.withQueue_timeCount (s : State) (q : List Entry) : (s.withQueue q).timeCount = s.timeCount := rfl
@[simp] theorem State.withQueue_queue (s : State) (q : List Entry) : (s.withQueue q).queue = q := rfl
@[simp] theorem State.withQueue_banks (s : State) (q : List Entry) : (s.withQueue q).banks = s.banks := rfl
@[simp] theorem State.withQueue_zones (s : State) (q : List Entry) : (s.withQueue q).zones = s.zones := rfl
@[simp] theorem State.withQueue_changeSets (s : State) (q : List Entry) : (s.withQueue q).changeSets = s.changeSets := rfl
@[simp] theorem State.withQueue_lastServed (s : State) (q : List Entry) : (s.withQueue q).lastServed = s.lastServed := rfl
@[simp] theorem State.withQueue_chosen (s : State) (q : List Entry) : (s.withQueue q).chosen = s.chosen := rfl
@[simp] theorem State.withQueue_sessions (s : State) (q : List Entry) : (s.withQueue q).sessions = s.sessions := rfl
@[simp] theorem State.withQueue_attention (s : State) (q : List Entry) : (s.withQueue q).attention = s.attention := rfl
@[simp] theorem State.withQueue_inputs (s : State) (q : List Entry) : (s.withQueue q).inputs = s.inputs := rfl
@[simp] theorem State.withQueue_nextSerial (s : State) (q : List Entry) : (s.withQueue q).nextSerial = s.nextSerial := rfl
@[simp] theorem State.withQueue_ring (s : State) (q : List Entry) : (s.withQueue q).ring = s.ring := rfl
@[simp] theorem State.withQueue_ports (s : State) (q : List Entry) : (s.withQueue q).ports = s.ports := rfl
@[simp] theorem State.withQueue_device (s : State) (q : List Entry) : (s.withQueue q).device = s.device := rfl
@[simp] theorem State.withQueue_resetCause (s : State) (q : List Entry) : (s.withQueue q).resetCause = s.resetCause := rfl
@[simp] theorem State.withQueue_cfg (s : State) (q : List Entry) : (s.withQueue q).cfg = s.cfg := rfl
@[simp] theorem State.withQueue_startupStore (s : State) (q : List Entry) : (s.withQueue q).startupStore = s.startupStore := rfl
@[simp] theorem State.withQueue_presentStore (s : State) (q : List Entry) : (s.withQueue q).presentStore = s.presentStore := rfl
@[simp] theorem State.withQueue_store (s : State) (q : List Entry) : (s.withQueue q).store = s.store := rfl
@[simp] theorem State.withQueue_config (s : State) (q : List Entry) : (s.withQueue q).config = s.config := rfl
@[simp] theorem State.withQueue_source (s : State) (q : List Entry) : (s.withQueue q).source = s.source := rfl
@[simp] theorem State.withQueue_pending (s : State) (q : List Entry) : (s.withQueue q).pending = s.pending := rfl

/-! ### withBank -/

@[simp] theorem State.withBank_timeCount (s : State) (m : Master) (b : Vector Step 16) : (s.withBank m b).timeCount = s.timeCount := rfl
@[simp] theorem State.withBank_queue (s : State) (m : Master) (b : Vector Step 16) : (s.withBank m b).queue = s.queue := rfl
@[simp] theorem State.withBank_banks (s : State) (m : Master) (b : Vector Step 16) : (s.withBank m b).banks = s.banks.set m b := rfl
@[simp] theorem State.withBank_zones (s : State) (m : Master) (b : Vector Step 16) : (s.withBank m b).zones = s.zones := rfl
@[simp] theorem State.withBank_changeSets (s : State) (m : Master) (b : Vector Step 16) : (s.withBank m b).changeSets = s.changeSets := rfl
@[simp] theorem State.withBank_lastServed (s : State) (m : Master) (b : Vector Step 16) : (s.withBank m b).lastServed = s.lastServed := rfl
@[simp] theorem State.withBank_chosen (s : State) (m : Master) (b : Vector Step 16) : (s.withBank m b).chosen = s.chosen := rfl
@[simp] theorem State.withBank_sessions (s : State) (m : Master) (b : Vector Step 16) : (s.withBank m b).sessions = s.sessions := rfl
@[simp] theorem State.withBank_attention (s : State) (m : Master) (b : Vector Step 16) : (s.withBank m b).attention = s.attention := rfl
@[simp] theorem State.withBank_inputs (s : State) (m : Master) (b : Vector Step 16) : (s.withBank m b).inputs = s.inputs := rfl
@[simp] theorem State.withBank_nextSerial (s : State) (m : Master) (b : Vector Step 16) : (s.withBank m b).nextSerial = s.nextSerial := rfl
@[simp] theorem State.withBank_ring (s : State) (m : Master) (b : Vector Step 16) : (s.withBank m b).ring = s.ring := rfl
@[simp] theorem State.withBank_ports (s : State) (m : Master) (b : Vector Step 16) : (s.withBank m b).ports = s.ports := rfl
@[simp] theorem State.withBank_device (s : State) (m : Master) (b : Vector Step 16) : (s.withBank m b).device = s.device := rfl
@[simp] theorem State.withBank_resetCause (s : State) (m : Master) (b : Vector Step 16) : (s.withBank m b).resetCause = s.resetCause := rfl
@[simp] theorem State.withBank_cfg (s : State) (m : Master) (b : Vector Step 16) : (s.withBank m b).cfg = s.cfg := rfl
@[simp] theorem State.withBank_startupStore (s : State) (m : Master) (b : Vector Step 16) : (s.withBank m b).startupStore = s.startupStore := rfl
@[simp] theorem State.withBank_presentStore (s : State) (m : Master) (b : Vector Step 16) : (s.withBank m b).presentStore = s.presentStore := rfl
@[simp] theorem State.withBank_store (s : State) (m : Master) (b : Vector Step 16) : (s.withBank m b).store = s.store := rfl
@[simp] theorem State.withBank_config (s : State) (m : Master) (b : Vector Step 16) : (s.withBank m b).config = s.config := rfl
@[simp] theorem State.withBank_source (s : State) (m : Master) (b : Vector Step 16) : (s.withBank m b).source = s.source := rfl
@[simp] theorem State.withBank_pending (s : State) (m : Master) (b : Vector Step 16) : (s.withBank m b).pending = s.pending := rfl

/-! ### withZone -/

@[simp] theorem State.withZone_timeCount (s : State) (z : ZoneId) (r : Zone) : (s.withZone z r).timeCount = s.timeCount := rfl
@[simp] theorem State.withZone_queue (s : State) (z : ZoneId) (r : Zone) : (s.withZone z r).queue = s.queue := rfl
@[simp] theorem State.withZone_banks (s : State) (z : ZoneId) (r : Zone) : (s.withZone z r).banks = s.banks := rfl
@[simp] theorem State.withZone_zones (s : State) (z : ZoneId) (r : Zone) : (s.withZone z r).zones = s.zones.set z r := rfl
@[simp] theorem State.withZone_changeSets (s : State) (z : ZoneId) (r : Zone) : (s.withZone z r).changeSets = s.changeSets := rfl
@[simp] theorem State.withZone_lastServed (s : State) (z : ZoneId) (r : Zone) : (s.withZone z r).lastServed = s.lastServed := rfl
@[simp] theorem State.withZone_chosen (s : State) (z : ZoneId) (r : Zone) : (s.withZone z r).chosen = s.chosen := rfl
@[simp] theorem State.withZone_sessions (s : State) (z : ZoneId) (r : Zone) : (s.withZone z r).sessions = s.sessions := rfl
@[simp] theorem State.withZone_attention (s : State) (z : ZoneId) (r : Zone) : (s.withZone z r).attention = s.attention := rfl
@[simp] theorem State.withZone_inputs (s : State) (z : ZoneId) (r : Zone) : (s.withZone z r).inputs = s.inputs := rfl
@[simp] theorem State.withZone_nextSerial (s : State) (z : ZoneId) (r : Zone) : (s.withZone z r).nextSerial = s.nextSerial := rfl
@[simp] theorem State.withZone_ring (s : State) (z : ZoneId) (r : Zone) : (s.withZone z r).ring = s.ring := rfl
@[simp] theorem State.withZone_ports (s : State) (z : ZoneId) (r : Zone) : (s.withZone z r).ports = s.ports := rfl
@[simp] theorem State.withZone_device (s : State) (z : ZoneId) (r : Zone) : (s.withZone z r).device = s.device := rfl
@[simp] theorem State.withZone_resetCause (s : State) (z : ZoneId) (r : Zone) : (s.withZone z r).resetCause = s.resetCause := rfl
@[simp] theorem State.withZone_cfg (s : State) (z : ZoneId) (r : Zone) : (s.withZone z r).cfg = s.cfg := rfl
@[simp] theorem State.withZone_startupStore (s : State) (z : ZoneId) (r : Zone) : (s.withZone z r).startupStore = s.startupStore := rfl
@[simp] theorem State.withZone_presentStore (s : State) (z : ZoneId) (r : Zone) : (s.withZone z r).presentStore = s.presentStore := rfl
@[simp] theorem State.withZone_store (s : State) (z : ZoneId) (r : Zone) : (s.withZone z r).store = s.store := rfl
@[simp] theorem State.withZone_config (s : State) (z : ZoneId) (r : Zone) : (s.withZone z r).config = s.config := rfl
@[simp] theorem State.withZone_source (s : State) (z : ZoneId) (r : Zone) : (s.withZone z r).source = s.source := rfl
@[simp] theorem State.withZone_pending (s : State) (z : ZoneId) (r : Zone) : (s.withZone z r).pending = s.pending := rfl

/-! ### withChangeSet -/

@[simp] theorem State.withChangeSet_timeCount (s : State) (m : Master) (c : ZoneSet) : (s.withChangeSet m c).timeCount = s.timeCount := rfl
@[simp] theorem State.withChangeSet_queue (s : State) (m : Master) (c : ZoneSet) : (s.withChangeSet m c).queue = s.queue := rfl
@[simp] theorem State.withChangeSet_banks (s : State) (m : Master) (c : ZoneSet) : (s.withChangeSet m c).banks = s.banks := rfl
@[simp] theorem State.withChangeSet_zones (s : State) (m : Master) (c : ZoneSet) : (s.withChangeSet m c).zones = s.zones := rfl
@[simp] theorem State.withChangeSet_changeSets (s : State) (m : Master) (c : ZoneSet) : (s.withChangeSet m c).changeSets = s.changeSets.set m c := rfl
@[simp] theorem State.withChangeSet_lastServed (s : State) (m : Master) (c : ZoneSet) : (s.withChangeSet m c).lastServed = s.lastServed := rfl
@[simp] theorem State.withChangeSet_chosen (s : State) (m : Master) (c : ZoneSet) : (s.withChangeSet m c).chosen = s.chosen := rfl
@[simp] theorem State.withChangeSet_sessions (s : State) (m : Master) (c : ZoneSet) : (s.withChangeSet m c).sessions = s.sessions := rfl
@[simp] theorem State.withChangeSet_attention (s : State) (m : Master) (c : ZoneSet) : (s.withChangeSet m c).attention = s.attention := rfl
@[simp] theorem State.withChangeSet_inputs (s : State) (m : Master) (c : ZoneSet) : (s.withChangeSet m c).inputs = s.inputs := rfl
@[simp] theorem State.withChangeSet_nextSerial (s : State) (m : Master) (c : ZoneSet) : (s.withChangeSet m c).nextSerial = s.nextSerial := rfl
@[simp] theorem State.withChangeSet_ring (s : State) (m : Master) (c : ZoneSet) : (s.withChangeSet m c).ring = s.ring := rfl
@[simp] theorem State.withChangeSet_ports (s : State) (m : Master) (c : ZoneSet) : (s.withChangeSet m c).ports = s.ports := rfl
@[simp] theorem State.withChangeSet_device (s : State) (m : Master) (c : ZoneSet) : (s.withChangeSet m c).device = s.device := rfl
@[simp] theorem State.withChangeSet_resetCause (s : State) (m : Master) (c : ZoneSet) : (s.withChangeSet m c).resetCause = s.resetCause := rfl
@[simp] theorem State.withChangeSet_cfg (s : State) (m : Master) (c : ZoneSet) : (s.withChangeSet m c).cfg = s.cfg := rfl
@[simp] theorem State.withChangeSet_startupStore (s : State) (m : Master) (c : ZoneSet) : (s.withChangeSet m c).startupStore = s.startupStore := rfl
@[simp] theorem State.withChangeSet_presentStore (s : State) (m : Master) (c : ZoneSet) : (s.withChangeSet m c).presentStore = s.presentStore := rfl
@[simp] theorem State.withChangeSet_store (s : State) (m : Master) (c : ZoneSet) : (s.withChangeSet m c).store = s.store := rfl
@[simp] theorem State.withChangeSet_config (s : State) (m : Master) (c : ZoneSet) : (s.withChangeSet m c).config = s.config := rfl
@[simp] theorem State.withChangeSet_source (s : State) (m : Master) (c : ZoneSet) : (s.withChangeSet m c).source = s.source := rfl
@[simp] theorem State.withChangeSet_pending (s : State) (m : Master) (c : ZoneSet) : (s.withChangeSet m c).pending = s.pending := rfl

/-! ### withService -/

@[simp] theorem State.withService_timeCount (s : State) (l : Master) (c : Option Master) : (s.withService l c).timeCount = s.timeCount := rfl
@[simp] theorem State.withService_queue (s : State) (l : Master) (c : Option Master) : (s.withService l c).queue = s.queue := rfl
@[simp] theorem State.withService_banks (s : State) (l : Master) (c : Option Master) : (s.withService l c).banks = s.banks := rfl
@[simp] theorem State.withService_zones (s : State) (l : Master) (c : Option Master) : (s.withService l c).zones = s.zones := rfl
@[simp] theorem State.withService_changeSets (s : State) (l : Master) (c : Option Master) : (s.withService l c).changeSets = s.changeSets := rfl
@[simp] theorem State.withService_lastServed (s : State) (l : Master) (c : Option Master) : (s.withService l c).lastServed = l := rfl
@[simp] theorem State.withService_chosen (s : State) (l : Master) (c : Option Master) : (s.withService l c).chosen = c := rfl
@[simp] theorem State.withService_sessions (s : State) (l : Master) (c : Option Master) : (s.withService l c).sessions = s.sessions := rfl
@[simp] theorem State.withService_attention (s : State) (l : Master) (c : Option Master) : (s.withService l c).attention = s.attention := rfl
@[simp] theorem State.withService_inputs (s : State) (l : Master) (c : Option Master) : (s.withService l c).inputs = s.inputs := rfl
@[simp] theorem State.withService_nextSerial (s : State) (l : Master) (c : Option Master) : (s.withService l c).nextSerial = s.nextSerial := rfl
@[simp] theorem State.withService_ring (s : State) (l : Master) (c : Option Master) : (s.withService l c).ring = s.ring := rfl
@[simp] theorem State.withService_ports (s : State) (l : Master) (c : Option Master) : (s.withService l c).ports = s.ports := rfl
@[simp] theorem State.withService_device (s : State) (l : Master) (c : Option Master) : (s.withService l c).device = s.device := rfl
@[simp] theorem State.withService_resetCause (s : State) (l : Master) (c : Option Master) : (s.withService l c).resetCause = s.resetCause := rfl
@[simp] theorem State.withService_cfg (s : State) (l : Master) (c : Option Master) : (s.withService l c).cfg = s.cfg := rfl
@[simp] theorem State.withService_startupStore (s : State) (l : Master) (c : Option Master) : (s.withService l c).startupStore = s.startupStore := rfl
@[simp] theorem State.withService_presentStore (s : State) (l : Master) (c : Option Master) : (s.withService l c).presentStore = s.presentStore := rfl
@[simp] theorem State.withService_store (s : State) (l : Master) (c : Option Master) : (s.withService l c).store = s.store := rfl
@[simp] theorem State.withService_config (s : State) (l : Master) (c : Option Master) : (s.withService l c).config = s.config := rfl
@[simp] theorem State.withService_source (s : State) (l : Master) (c : Option Master) : (s.withService l c).source = s.source := rfl
@[simp] theorem State.withService_pending (s : State) (l : Master) (c : Option Master) : (s.withService l c).pending = s.pending := rfl

/-! ### withSession -/

@[simp] theorem State.withSession_timeCount (s : State) (m : Master) (r : Session) : (s.withSession m r).timeCount = s.timeCount := rfl
@[simp] theorem State.withSession_queue (s : State) (m : Master) (r : Session) : (s.withSession m r).queue = s.queue := rfl
@[simp] theorem State.withSession_banks (s : State) (m : Master) (r : Session) : (s.withSession m r).banks = s.banks := rfl
@[simp] theorem State.withSession_zones (s : State) (m : Master) (r : Session) : (s.withSession m r).zones = s.zones := rfl
@[simp] theorem State.withSession_changeSets (s : State) (m : Master) (r : Session) : (s.withSession m r).changeSets = s.changeSets := rfl
@[simp] theorem State.withSession_lastServed (s : State) (m : Master) (r : Session) : (s.withSession m r).lastServed = s.lastServed := rfl
@[simp] theorem State.withSession_chosen (s : State) (m : Master) (r : Session) : (s.withSession m r).chosen = s.chosen := rfl
@[simp] theorem State.withSession_sessions (s : State) (m : Master) (r : Session) : (s.withSession m r).sessions = s.sessions.set m r := rfl
@[simp] theorem State.withSession_attention (s : State) (m : Master) (r : Session) : (s.withSession m r).attention = s.attention := rfl
@[simp] theorem State.withSession_inputs (s : State) (m : Master) (r : Session) : (s.withSession m r).inputs = s.inputs := rfl
@[simp] theorem State.withSession_nextSerial (s : State) (m : Master) (r : Session) : (s.withSession m r).nextSerial = s.nextSerial := rfl
@[simp] theorem State.withSession_ring (s : State) (m : Master) (r : Session) : (s.withSession m r).ring = s.ring := rfl
@[simp] theorem State.withSession_ports (s : State) (m : Master) (r : Session) : (s.withSession m r).ports = s.ports := rfl
@[simp] theorem State.withSession_device (s : State) (m : Master) (r : Session) : (s.withSession m r).device = s.device := rfl
@[simp] theorem State.withSession_resetCause (s : State) (m : Master) (r : Session) : (s.withSession m r).resetCause = s.resetCause := rfl
@[simp] theorem State.withSession_cfg (s : State) (m : Master) (r : Session) : (s.withSession m r).cfg = s.cfg := rfl
@[simp] theorem State.withSession_startupStore (s : State) (m : Master) (r : Session) : (s.withSession m r).startupStore = s.startupStore := rfl
@[simp] theorem State.withSession_presentStore (s : State) (m : Master) (r : Session) : (s.withSession m r).presentStore = s.presentStore := rfl
@[simp] theorem State.withSession_store (s : State) (m : Master) (r : Session) : (s.withSession m r).store = s.store := rfl
@[simp] theorem State.withSession_config (s : State) (m : Master) (r : Session) : (s.withSession m r).config = s.config := rfl
@[simp] theorem State.withSession_source (s : State) (m : Master) (r : Session) : (s.withSession m r).source = s.source := rfl
@[simp] theorem State.withSession_pending (s : State) (m : Master) (r : Session) : (s.withSession m r).pending = s.pending := rfl

/-! ### withAttention -/

@[simp] theorem State.withAttention_timeCount (s : State) (m : Master) (a : Attention) : (s.withAttention m a).timeCount = s.timeCount := rfl
@[simp] theorem State.withAttention_queue (s : State) (m : Master) (a : Attention) : (s.withAttention m a).queue = s.queue := rfl
@[simp] theorem State.withAttention_banks (s : State) (m : Master) (a : Attention) : (s.withAttention m a).banks = s.banks := rfl
@[simp] theorem State.withAttention_zones (s : State) (m : Master) (a : Attention) : (s.withAttention m a).zones = s.zones := rfl
@[simp] theorem State.withAttention_changeSets (s : State) (m : Master) (a : Attention) : (s.withAttention m a).changeSets = s.changeSets := rfl
@[simp] theorem State.withAttention_lastServed (s : State) (m : Master) (a : Attention) : (s.withAttention m a).lastServed = s.lastServed := rfl
@[simp] theorem State.withAttention_chosen (s : State) (m : Master) (a : Attention) : (s.withAttention m a).chosen = s.chosen := rfl
@[simp] theorem State.withAttention_sessions (s : State) (m : Master) (a : Attention) : (s.withAttention m a).sessions = s.sessions := rfl
@[simp] theorem State.withAttention_attention (s : State) (m : Master) (a : Attention) : (s.withAttention m a).attention = s.attention.set m a := rfl
@[simp] theorem State.withAttention_inputs (s : State) (m : Master) (a : Attention) : (s.withAttention m a).inputs = s.inputs := rfl
@[simp] theorem State.withAttention_nextSerial (s : State) (m : Master) (a : Attention) : (s.withAttention m a).nextSerial = s.nextSerial := rfl
@[simp] theorem State.withAttention_ring (s : State) (m : Master) (a : Attention) : (s.withAttention m a).ring = s.ring := rfl
@[simp] theorem State.withAttention_ports (s : State) (m : Master) (a : Attention) : (s.withAttention m a).ports = s.ports := rfl
@[simp] theorem State.withAttention_device (s : State) (m : Master) (a : Attention) : (s.withAttention m a).device = s.device := rfl
@[simp] theorem State.withAttention_resetCause (s : State) (m : Master) (a : Attention) : (s.withAttention m a).resetCause = s.resetCause := rfl
@[simp] theorem State.withAttention_cfg (s : State) (m : Master) (a : Attention) : (s.withAttention m a).cfg = s.cfg := rfl
@[simp] theorem State.withAttention_startupStore (s : State) (m : Master) (a : Attention) : (s.withAttention m a).startupStore = s.startupStore := rfl
@[simp] theorem State.withAttention_presentStore (s : State) (m : Master) (a : Attention) : (s.withAttention m a).presentStore = s.presentStore := rfl
@[simp] theorem State.withAttention_store (s : State) (m : Master) (a : Attention) : (s.withAttention m a).store = s.store := rfl
@[simp] theorem State.withAttention_config (s : State) (m : Master) (a : Attention) : (s.withAttention m a).config = s.config := rfl
@[simp] theorem State.withAttention_source (s : State) (m : Master) (a : Attention) : (s.withAttention m a).source = s.source := rfl
@[simp] theorem State.withAttention_pending (s : State) (m : Master) (a : Attention) : (s.withAttention m a).pending = s.pending := rfl

/-! ### withInput -/

@[simp] theorem State.withInput_timeCount (s : State) (i : InputId) (r : Input) : (s.withInput i r).timeCount = s.timeCount := rfl
@[simp] theorem State.withInput_queue (s : State) (i : InputId) (r : Input) : (s.withInput i r).queue = s.queue := rfl
@[simp] theorem State.withInput_banks (s : State) (i : InputId) (r : Input) : (s.withInput i r).banks = s.banks := rfl
@[simp] theorem State.withInput_zones (s : State) (i : InputId) (r : Input) : (s.withInput i r).zones = s.zones := rfl
@[simp] theorem State.withInput_changeSets (s : State) (i : InputId) (r : Input) : (s.withInput i r).changeSets = s.changeSets := rfl
@[simp] theorem State.withInput_lastServed (s : State) (i : InputId) (r : Input) : (s.withInput i r).lastServed = s.lastServed := rfl
@[simp] theorem State.withInput_chosen (s : State) (i : InputId) (r : Input) : (s.withInput i r).chosen = s.chosen := rfl
@[simp] theorem State.withInput_sessions (s : State) (i : InputId) (r : Input) : (s.withInput i r).sessions = s.sessions := rfl
@[simp] theorem State.withInput_attention (s : State) (i : InputId) (r : Input) : (s.withInput i r).attention = s.attention := rfl
@[simp] theorem State.withInput_inputs (s : State) (i : InputId) (r : Input) : (s.withInput i r).inputs = s.inputs.set i r := rfl
@[simp] theorem State.withInput_nextSerial (s : State) (i : InputId) (r : Input) : (s.withInput i r).nextSerial = s.nextSerial := rfl
@[simp] theorem State.withInput_ring (s : State) (i : InputId) (r : Input) : (s.withInput i r).ring = s.ring := rfl
@[simp] theorem State.withInput_ports (s : State) (i : InputId) (r : Input) : (s.withInput i r).ports = s.ports := rfl
@[simp] theorem State.withInput_device (s : State) (i : InputId) (r : Input) : (s.withInput i r).device = s.device := rfl
@[simp] theorem State.withInput_resetCause (s : State) (i : InputId) (r : Input) : (s.withInput i r).resetCause = s.resetCause := rfl
@[simp] theorem State.withInput_cfg (s : State) (i : InputId) (r : Input) : (s.withInput i r).cfg = s.cfg := rfl
@[simp] theorem State.withInput_startupStore (s : State) (i : InputId) (r : Input) : (s.withInput i r).startupStore = s.startupStore := rfl
@[simp] theorem State.withInput_presentStore (s : State) (i : InputId) (r : Input) : (s.withInput i r).presentStore = s.presentStore := rfl
@[simp] theorem State.withInput_store (s : State) (i : InputId) (r : Input) : (s.withInput i r).store = s.store := rfl
@[simp] theorem State.withInput_config (s : State) (i : InputId) (r : Input) : (s.withInput i r).config = s.config := rfl
@[simp] theorem State.withInput_source (s : State) (i : InputId) (r : Input) : (s.withInput i r).source = s.source := rfl
@[simp] theorem State.withInput_pending (s : State) (i : InputId) (r : Input) : (s.withInput i r).pending = s.pending := rfl

/-! ### withCaptures -/

@[simp] theorem State.withCaptures_timeCount (s : State) (g : List CaptureRecord) (n : Serial) : (s.withCaptures g n).timeCount = s.timeCount := rfl
@[simp] theorem State.withCaptures_queue (s : State) (g : List CaptureRecord) (n : Serial) : (s.withCaptures g n).queue = s.queue := rfl
@[simp] theorem State.withCaptures_banks (s : State) (g : List CaptureRecord) (n : Serial) : (s.withCaptures g n).banks = s.banks := rfl
@[simp] theorem State.withCaptures_zones (s : State) (g : List CaptureRecord) (n : Serial) : (s.withCaptures g n).zones = s.zones := rfl
@[simp] theorem State.withCaptures_changeSets (s : State) (g : List CaptureRecord) (n : Serial) : (s.withCaptures g n).changeSets = s.changeSets := rfl
@[simp] theorem State.withCaptures_lastServed (s : State) (g : List CaptureRecord) (n : Serial) : (s.withCaptures g n).lastServed = s.lastServed := rfl
@[simp] theorem State.withCaptures_chosen (s : State) (g : List CaptureRecord) (n : Serial) : (s.withCaptures g n).chosen = s.chosen := rfl
@[simp] theorem State.withCaptures_sessions (s : State) (g : List CaptureRecord) (n : Serial) : (s.withCaptures g n).sessions = s.sessions := rfl
@[simp] theorem State.withCaptures_attention (s : State) (g : List CaptureRecord) (n : Serial) : (s.withCaptures g n).attention = s.attention := rfl
@[simp] theorem State.withCaptures_inputs (s : State) (g : List CaptureRecord) (n : Serial) : (s.withCaptures g n).inputs = s.inputs := rfl
@[simp] theorem State.withCaptures_nextSerial (s : State) (g : List CaptureRecord) (n : Serial) : (s.withCaptures g n).nextSerial = n := rfl
@[simp] theorem State.withCaptures_ring (s : State) (g : List CaptureRecord) (n : Serial) : (s.withCaptures g n).ring = g := rfl
@[simp] theorem State.withCaptures_ports (s : State) (g : List CaptureRecord) (n : Serial) : (s.withCaptures g n).ports = s.ports := rfl
@[simp] theorem State.withCaptures_device (s : State) (g : List CaptureRecord) (n : Serial) : (s.withCaptures g n).device = s.device := rfl
@[simp] theorem State.withCaptures_resetCause (s : State) (g : List CaptureRecord) (n : Serial) : (s.withCaptures g n).resetCause = s.resetCause := rfl
@[simp] theorem State.withCaptures_cfg (s : State) (g : List CaptureRecord) (n : Serial) : (s.withCaptures g n).cfg = s.cfg := rfl
@[simp] theorem State.withCaptures_startupStore (s : State) (g : List CaptureRecord) (n : Serial) : (s.withCaptures g n).startupStore = s.startupStore := rfl
@[simp] theorem State.withCaptures_presentStore (s : State) (g : List CaptureRecord) (n : Serial) : (s.withCaptures g n).presentStore = s.presentStore := rfl
@[simp] theorem State.withCaptures_store (s : State) (g : List CaptureRecord) (n : Serial) : (s.withCaptures g n).store = s.store := rfl
@[simp] theorem State.withCaptures_config (s : State) (g : List CaptureRecord) (n : Serial) : (s.withCaptures g n).config = s.config := rfl
@[simp] theorem State.withCaptures_source (s : State) (g : List CaptureRecord) (n : Serial) : (s.withCaptures g n).source = s.source := rfl
@[simp] theorem State.withCaptures_pending (s : State) (g : List CaptureRecord) (n : Serial) : (s.withCaptures g n).pending = s.pending := rfl

/-! ### withPort -/

@[simp] theorem State.withPort_timeCount (s : State) (p : Master) (r : Port) : (s.withPort p r).timeCount = s.timeCount := rfl
@[simp] theorem State.withPort_queue (s : State) (p : Master) (r : Port) : (s.withPort p r).queue = s.queue := rfl
@[simp] theorem State.withPort_banks (s : State) (p : Master) (r : Port) : (s.withPort p r).banks = s.banks := rfl
@[simp] theorem State.withPort_zones (s : State) (p : Master) (r : Port) : (s.withPort p r).zones = s.zones := rfl
@[simp] theorem State.withPort_changeSets (s : State) (p : Master) (r : Port) : (s.withPort p r).changeSets = s.changeSets := rfl
@[simp] theorem State.withPort_lastServed (s : State) (p : Master) (r : Port) : (s.withPort p r).lastServed = s.lastServed := rfl
@[simp] theorem State.withPort_chosen (s : State) (p : Master) (r : Port) : (s.withPort p r).chosen = s.chosen := rfl
@[simp] theorem State.withPort_sessions (s : State) (p : Master) (r : Port) : (s.withPort p r).sessions = s.sessions := rfl
@[simp] theorem State.withPort_attention (s : State) (p : Master) (r : Port) : (s.withPort p r).attention = s.attention := rfl
@[simp] theorem State.withPort_inputs (s : State) (p : Master) (r : Port) : (s.withPort p r).inputs = s.inputs := rfl
@[simp] theorem State.withPort_nextSerial (s : State) (p : Master) (r : Port) : (s.withPort p r).nextSerial = s.nextSerial := rfl
@[simp] theorem State.withPort_ring (s : State) (p : Master) (r : Port) : (s.withPort p r).ring = s.ring := rfl
@[simp] theorem State.withPort_ports (s : State) (p : Master) (r : Port) : (s.withPort p r).ports = s.ports.set p r := rfl
@[simp] theorem State.withPort_device (s : State) (p : Master) (r : Port) : (s.withPort p r).device = s.device := rfl
@[simp] theorem State.withPort_resetCause (s : State) (p : Master) (r : Port) : (s.withPort p r).resetCause = s.resetCause := rfl
@[simp] theorem State.withPort_cfg (s : State) (p : Master) (r : Port) : (s.withPort p r).cfg = s.cfg := rfl
@[simp] theorem State.withPort_startupStore (s : State) (p : Master) (r : Port) : (s.withPort p r).startupStore = s.startupStore := rfl
@[simp] theorem State.withPort_presentStore (s : State) (p : Master) (r : Port) : (s.withPort p r).presentStore = s.presentStore := rfl
@[simp] theorem State.withPort_store (s : State) (p : Master) (r : Port) : (s.withPort p r).store = s.store := rfl
@[simp] theorem State.withPort_config (s : State) (p : Master) (r : Port) : (s.withPort p r).config = s.config := rfl
@[simp] theorem State.withPort_source (s : State) (p : Master) (r : Port) : (s.withPort p r).source = s.source := rfl
@[simp] theorem State.withPort_pending (s : State) (p : Master) (r : Port) : (s.withPort p r).pending = s.pending := rfl

/-! ### withDevice -/

@[simp] theorem State.withDevice_timeCount (s : State) (d : DeviceState) : (s.withDevice d).timeCount = s.timeCount := rfl
@[simp] theorem State.withDevice_queue (s : State) (d : DeviceState) : (s.withDevice d).queue = s.queue := rfl
@[simp] theorem State.withDevice_banks (s : State) (d : DeviceState) : (s.withDevice d).banks = s.banks := rfl
@[simp] theorem State.withDevice_zones (s : State) (d : DeviceState) : (s.withDevice d).zones = s.zones := rfl
@[simp] theorem State.withDevice_changeSets (s : State) (d : DeviceState) : (s.withDevice d).changeSets = s.changeSets := rfl
@[simp] theorem State.withDevice_lastServed (s : State) (d : DeviceState) : (s.withDevice d).lastServed = s.lastServed := rfl
@[simp] theorem State.withDevice_chosen (s : State) (d : DeviceState) : (s.withDevice d).chosen = s.chosen := rfl
@[simp] theorem State.withDevice_sessions (s : State) (d : DeviceState) : (s.withDevice d).sessions = s.sessions := rfl
@[simp] theorem State.withDevice_attention (s : State) (d : DeviceState) : (s.withDevice d).attention = s.attention := rfl
@[simp] theorem State.withDevice_inputs (s : State) (d : DeviceState) : (s.withDevice d).inputs = s.inputs := rfl
@[simp] theorem State.withDevice_nextSerial (s : State) (d : DeviceState) : (s.withDevice d).nextSerial = s.nextSerial := rfl
@[simp] theorem State.withDevice_ring (s : State) (d : DeviceState) : (s.withDevice d).ring = s.ring := rfl
@[simp] theorem State.withDevice_ports (s : State) (d : DeviceState) : (s.withDevice d).ports = s.ports := rfl
@[simp] theorem State.withDevice_device (s : State) (d : DeviceState) : (s.withDevice d).device = d := rfl
@[simp] theorem State.withDevice_resetCause (s : State) (d : DeviceState) : (s.withDevice d).resetCause = s.resetCause := rfl
@[simp] theorem State.withDevice_cfg (s : State) (d : DeviceState) : (s.withDevice d).cfg = s.cfg := rfl
@[simp] theorem State.withDevice_startupStore (s : State) (d : DeviceState) : (s.withDevice d).startupStore = s.startupStore := rfl
@[simp] theorem State.withDevice_presentStore (s : State) (d : DeviceState) : (s.withDevice d).presentStore = s.presentStore := rfl
@[simp] theorem State.withDevice_store (s : State) (d : DeviceState) : (s.withDevice d).store = s.store := rfl
@[simp] theorem State.withDevice_config (s : State) (d : DeviceState) : (s.withDevice d).config = s.config := rfl
@[simp] theorem State.withDevice_source (s : State) (d : DeviceState) : (s.withDevice d).source = s.source := rfl
@[simp] theorem State.withDevice_pending (s : State) (d : DeviceState) : (s.withDevice d).pending = s.pending := rfl

/-! ### withConfig -/

@[simp] theorem State.withConfig_timeCount (s : State) (c : WorkingConfig) : (s.withConfig c).timeCount = s.timeCount := rfl
@[simp] theorem State.withConfig_queue (s : State) (c : WorkingConfig) : (s.withConfig c).queue = s.queue := rfl
@[simp] theorem State.withConfig_banks (s : State) (c : WorkingConfig) : (s.withConfig c).banks = s.banks := rfl
@[simp] theorem State.withConfig_zones (s : State) (c : WorkingConfig) : (s.withConfig c).zones = s.zones := rfl
@[simp] theorem State.withConfig_changeSets (s : State) (c : WorkingConfig) : (s.withConfig c).changeSets = s.changeSets := rfl
@[simp] theorem State.withConfig_lastServed (s : State) (c : WorkingConfig) : (s.withConfig c).lastServed = s.lastServed := rfl
@[simp] theorem State.withConfig_chosen (s : State) (c : WorkingConfig) : (s.withConfig c).chosen = s.chosen := rfl
@[simp] theorem State.withConfig_sessions (s : State) (c : WorkingConfig) : (s.withConfig c).sessions = s.sessions := rfl
@[simp] theorem State.withConfig_attention (s : State) (c : WorkingConfig) : (s.withConfig c).attention = s.attention := rfl
@[simp] theorem State.withConfig_inputs (s : State) (c : WorkingConfig) : (s.withConfig c).inputs = s.inputs := rfl
@[simp] theorem State.withConfig_nextSerial (s : State) (c : WorkingConfig) : (s.withConfig c).nextSerial = s.nextSerial := rfl
@[simp] theorem State.withConfig_ring (s : State) (c : WorkingConfig) : (s.withConfig c).ring = s.ring := rfl
@[simp] theorem State.withConfig_ports (s : State) (c : WorkingConfig) : (s.withConfig c).ports = s.ports := rfl
@[simp] theorem State.withConfig_device (s : State) (c : WorkingConfig) : (s.withConfig c).device = s.device := rfl
@[simp] theorem State.withConfig_resetCause (s : State) (c : WorkingConfig) : (s.withConfig c).resetCause = s.resetCause := rfl
@[simp] theorem State.withConfig_cfg (s : State) (c : WorkingConfig) : (s.withConfig c).cfg = s.cfg := rfl
@[simp] theorem State.withConfig_startupStore (s : State) (c : WorkingConfig) : (s.withConfig c).startupStore = s.startupStore := rfl
@[simp] theorem State.withConfig_presentStore (s : State) (c : WorkingConfig) : (s.withConfig c).presentStore = s.presentStore := rfl
@[simp] theorem State.withConfig_store (s : State) (c : WorkingConfig) : (s.withConfig c).store = s.store := rfl
@[simp] theorem State.withConfig_config (s : State) (c : WorkingConfig) : (s.withConfig c).config = c := rfl
@[simp] theorem State.withConfig_source (s : State) (c : WorkingConfig) : (s.withConfig c).source = s.source := rfl
@[simp] theorem State.withConfig_pending (s : State) (c : WorkingConfig) : (s.withConfig c).pending = s.pending := rfl

/-! ### withStore -/

@[simp] theorem State.withStore_timeCount (s : State) (i : StoreImage) (p : Option StoreClass) : (s.withStore i p).timeCount = s.timeCount := rfl
@[simp] theorem State.withStore_queue (s : State) (i : StoreImage) (p : Option StoreClass) : (s.withStore i p).queue = s.queue := rfl
@[simp] theorem State.withStore_banks (s : State) (i : StoreImage) (p : Option StoreClass) : (s.withStore i p).banks = s.banks := rfl
@[simp] theorem State.withStore_zones (s : State) (i : StoreImage) (p : Option StoreClass) : (s.withStore i p).zones = s.zones := rfl
@[simp] theorem State.withStore_changeSets (s : State) (i : StoreImage) (p : Option StoreClass) : (s.withStore i p).changeSets = s.changeSets := rfl
@[simp] theorem State.withStore_lastServed (s : State) (i : StoreImage) (p : Option StoreClass) : (s.withStore i p).lastServed = s.lastServed := rfl
@[simp] theorem State.withStore_chosen (s : State) (i : StoreImage) (p : Option StoreClass) : (s.withStore i p).chosen = s.chosen := rfl
@[simp] theorem State.withStore_sessions (s : State) (i : StoreImage) (p : Option StoreClass) : (s.withStore i p).sessions = s.sessions := rfl
@[simp] theorem State.withStore_attention (s : State) (i : StoreImage) (p : Option StoreClass) : (s.withStore i p).attention = s.attention := rfl
@[simp] theorem State.withStore_inputs (s : State) (i : StoreImage) (p : Option StoreClass) : (s.withStore i p).inputs = s.inputs := rfl
@[simp] theorem State.withStore_nextSerial (s : State) (i : StoreImage) (p : Option StoreClass) : (s.withStore i p).nextSerial = s.nextSerial := rfl
@[simp] theorem State.withStore_ring (s : State) (i : StoreImage) (p : Option StoreClass) : (s.withStore i p).ring = s.ring := rfl
@[simp] theorem State.withStore_ports (s : State) (i : StoreImage) (p : Option StoreClass) : (s.withStore i p).ports = s.ports := rfl
@[simp] theorem State.withStore_device (s : State) (i : StoreImage) (p : Option StoreClass) : (s.withStore i p).device = s.device := rfl
@[simp] theorem State.withStore_resetCause (s : State) (i : StoreImage) (p : Option StoreClass) : (s.withStore i p).resetCause = s.resetCause := rfl
@[simp] theorem State.withStore_cfg (s : State) (i : StoreImage) (p : Option StoreClass) : (s.withStore i p).cfg = s.cfg := rfl
@[simp] theorem State.withStore_startupStore (s : State) (i : StoreImage) (p : Option StoreClass) : (s.withStore i p).startupStore = s.startupStore := rfl
@[simp] theorem State.withStore_presentStore (s : State) (i : StoreImage) (p : Option StoreClass) : (s.withStore i p).presentStore = p := rfl
@[simp] theorem State.withStore_store (s : State) (i : StoreImage) (p : Option StoreClass) : (s.withStore i p).store = i := rfl
@[simp] theorem State.withStore_config (s : State) (i : StoreImage) (p : Option StoreClass) : (s.withStore i p).config = s.config := rfl
@[simp] theorem State.withStore_source (s : State) (i : StoreImage) (p : Option StoreClass) : (s.withStore i p).source = s.source := rfl
@[simp] theorem State.withStore_pending (s : State) (i : StoreImage) (p : Option StoreClass) : (s.withStore i p).pending = s.pending := rfl

end Sys2Proof.Machine
end

