-- ==== Sys2Proof/Laws/Fields.lean ====
section
/-! SUPPORT. What each shared operation leaves as it was: one lemma per operation and untouched field, so that no later
proof unfolds an operation to learn what it does not do. -/

namespace Sys2Proof.Machine

/-- A fold of an operation that keeps a part of the state keeps it. -/
theorem foldl_keeps {α β : Type} (g : State → β) (f : State → α → State) (h : ∀ s a, g (f s a) = g s) (l : List α)
    (s : State) : g (l.foldl f s) = g s := by
  induction l generalizing s with
  | nil => rfl
  | cons a l ih => rw [List.foldl_cons, ih, h]

/-! ### signal -/

@[simp] theorem State.signal_timeCount (s : State) (m : Master) (e : Signal) :
    (s.signal m e).timeCount = s.timeCount := by unfold State.signal; split <;> rfl
@[simp] theorem State.signal_queue (s : State) (m : Master) (e : Signal) :
    (s.signal m e).queue = s.queue := by unfold State.signal; split <;> rfl
@[simp] theorem State.signal_banks (s : State) (m : Master) (e : Signal) :
    (s.signal m e).banks = s.banks := by unfold State.signal; split <;> rfl
@[simp] theorem State.signal_zones (s : State) (m : Master) (e : Signal) :
    (s.signal m e).zones = s.zones := by unfold State.signal; split <;> rfl
@[simp] theorem State.signal_changeSets (s : State) (m : Master) (e : Signal) :
    (s.signal m e).changeSets = s.changeSets := by unfold State.signal; split <;> rfl
@[simp] theorem State.signal_lastServed (s : State) (m : Master) (e : Signal) :
    (s.signal m e).lastServed = s.lastServed := by unfold State.signal; split <;> rfl
@[simp] theorem State.signal_chosen (s : State) (m : Master) (e : Signal) :
    (s.signal m e).chosen = s.chosen := by unfold State.signal; split <;> rfl
@[simp] theorem State.signal_sessions (s : State) (m : Master) (e : Signal) :
    (s.signal m e).sessions = s.sessions := by unfold State.signal; split <;> rfl
@[simp] theorem State.signal_inputs (s : State) (m : Master) (e : Signal) :
    (s.signal m e).inputs = s.inputs := by unfold State.signal; split <;> rfl
@[simp] theorem State.signal_nextSerial (s : State) (m : Master) (e : Signal) :
    (s.signal m e).nextSerial = s.nextSerial := by unfold State.signal; split <;> rfl
@[simp] theorem State.signal_ring (s : State) (m : Master) (e : Signal) :
    (s.signal m e).ring = s.ring := by unfold State.signal; split <;> rfl
@[simp] theorem State.signal_ports (s : State) (m : Master) (e : Signal) :
    (s.signal m e).ports = s.ports := by unfold State.signal; split <;> rfl
@[simp] theorem State.signal_device (s : State) (m : Master) (e : Signal) :
    (s.signal m e).device = s.device := by unfold State.signal; split <;> rfl
@[simp] theorem State.signal_resetCause (s : State) (m : Master) (e : Signal) :
    (s.signal m e).resetCause = s.resetCause := by unfold State.signal; split <;> rfl
@[simp] theorem State.signal_cfg (s : State) (m : Master) (e : Signal) :
    (s.signal m e).cfg = s.cfg := by unfold State.signal; split <;> rfl
@[simp] theorem State.signal_startupStore (s : State) (m : Master) (e : Signal) :
    (s.signal m e).startupStore = s.startupStore := by unfold State.signal; split <;> rfl
@[simp] theorem State.signal_presentStore (s : State) (m : Master) (e : Signal) :
    (s.signal m e).presentStore = s.presentStore := by unfold State.signal; split <;> rfl
@[simp] theorem State.signal_store (s : State) (m : Master) (e : Signal) :
    (s.signal m e).store = s.store := by unfold State.signal; split <;> rfl
@[simp] theorem State.signal_config (s : State) (m : Master) (e : Signal) :
    (s.signal m e).config = s.config := by unfold State.signal; split <;> rfl
@[simp] theorem State.signal_source (s : State) (m : Master) (e : Signal) :
    (s.signal m e).source = s.source := by unfold State.signal; split <;> rfl
@[simp] theorem State.signal_pending (s : State) (m : Master) (e : Signal) :
    (s.signal m e).pending = s.pending := by unfold State.signal; split <;> rfl

/-! ### noteFor -/

@[simp] theorem State.noteFor_timeCount (z : ZoneId) (s : State) (m : Master) :
    (State.noteFor z s m).timeCount = s.timeCount := by unfold State.noteFor; (repeat' split) <;> simp
@[simp] theorem State.noteFor_queue (z : ZoneId) (s : State) (m : Master) :
    (State.noteFor z s m).queue = s.queue := by unfold State.noteFor; (repeat' split) <;> simp
@[simp] theorem State.noteFor_banks (z : ZoneId) (s : State) (m : Master) :
    (State.noteFor z s m).banks = s.banks := by unfold State.noteFor; (repeat' split) <;> simp
@[simp] theorem State.noteFor_zones (z : ZoneId) (s : State) (m : Master) :
    (State.noteFor z s m).zones = s.zones := by unfold State.noteFor; (repeat' split) <;> simp
@[simp] theorem State.noteFor_lastServed (z : ZoneId) (s : State) (m : Master) :
    (State.noteFor z s m).lastServed = s.lastServed := by unfold State.noteFor; (repeat' split) <;> simp
@[simp] theorem State.noteFor_chosen (z : ZoneId) (s : State) (m : Master) :
    (State.noteFor z s m).chosen = s.chosen := by unfold State.noteFor; (repeat' split) <;> simp
@[simp] theorem State.noteFor_sessions (z : ZoneId) (s : State) (m : Master) :
    (State.noteFor z s m).sessions = s.sessions := by unfold State.noteFor; (repeat' split) <;> simp
@[simp] theorem State.noteFor_inputs (z : ZoneId) (s : State) (m : Master) :
    (State.noteFor z s m).inputs = s.inputs := by unfold State.noteFor; (repeat' split) <;> simp
@[simp] theorem State.noteFor_nextSerial (z : ZoneId) (s : State) (m : Master) :
    (State.noteFor z s m).nextSerial = s.nextSerial := by unfold State.noteFor; (repeat' split) <;> simp
@[simp] theorem State.noteFor_ring (z : ZoneId) (s : State) (m : Master) :
    (State.noteFor z s m).ring = s.ring := by unfold State.noteFor; (repeat' split) <;> simp
@[simp] theorem State.noteFor_ports (z : ZoneId) (s : State) (m : Master) :
    (State.noteFor z s m).ports = s.ports := by unfold State.noteFor; (repeat' split) <;> simp
@[simp] theorem State.noteFor_device (z : ZoneId) (s : State) (m : Master) :
    (State.noteFor z s m).device = s.device := by unfold State.noteFor; (repeat' split) <;> simp
@[simp] theorem State.noteFor_resetCause (z : ZoneId) (s : State) (m : Master) :
    (State.noteFor z s m).resetCause = s.resetCause := by unfold State.noteFor; (repeat' split) <;> simp
@[simp] theorem State.noteFor_cfg (z : ZoneId) (s : State) (m : Master) :
    (State.noteFor z s m).cfg = s.cfg := by unfold State.noteFor; (repeat' split) <;> simp
@[simp] theorem State.noteFor_startupStore (z : ZoneId) (s : State) (m : Master) :
    (State.noteFor z s m).startupStore = s.startupStore := by unfold State.noteFor; (repeat' split) <;> simp
@[simp] theorem State.noteFor_presentStore (z : ZoneId) (s : State) (m : Master) :
    (State.noteFor z s m).presentStore = s.presentStore := by unfold State.noteFor; (repeat' split) <;> simp
@[simp] theorem State.noteFor_store (z : ZoneId) (s : State) (m : Master) :
    (State.noteFor z s m).store = s.store := by unfold State.noteFor; (repeat' split) <;> simp
@[simp] theorem State.noteFor_config (z : ZoneId) (s : State) (m : Master) :
    (State.noteFor z s m).config = s.config := by unfold State.noteFor; (repeat' split) <;> simp
@[simp] theorem State.noteFor_source (z : ZoneId) (s : State) (m : Master) :
    (State.noteFor z s m).source = s.source := by unfold State.noteFor; (repeat' split) <;> simp
@[simp] theorem State.noteFor_pending (z : ZoneId) (s : State) (m : Master) :
    (State.noteFor z s m).pending = s.pending := by unfold State.noteFor; (repeat' split) <;> simp

/-! ### noteChange -/

@[simp] theorem State.noteChange_timeCount (s : State) (z : ZoneId) :
    (s.noteChange z).timeCount = s.timeCount := 
  foldl_keeps State.timeCount _ (fun _ _ => by simp) _ _
@[simp] theorem State.noteChange_queue (s : State) (z : ZoneId) :
    (s.noteChange z).queue = s.queue := 
  foldl_keeps State.queue _ (fun _ _ => by simp) _ _
@[simp] theorem State.noteChange_banks (s : State) (z : ZoneId) :
    (s.noteChange z).banks = s.banks := 
  foldl_keeps State.banks _ (fun _ _ => by simp) _ _
@[simp] theorem State.noteChange_zones (s : State) (z : ZoneId) :
    (s.noteChange z).zones = s.zones := 
  foldl_keeps State.zones _ (fun _ _ => by simp) _ _
@[simp] theorem State.noteChange_lastServed (s : State) (z : ZoneId) :
    (s.noteChange z).lastServed = s.lastServed := 
  foldl_keeps State.lastServed _ (fun _ _ => by simp) _ _
@[simp] theorem State.noteChange_chosen (s : State) (z : ZoneId) :
    (s.noteChange z).chosen = s.chosen := 
  foldl_keeps State.chosen _ (fun _ _ => by simp) _ _
@[simp] theorem State.noteChange_sessions (s : State) (z : ZoneId) :
    (s.noteChange z).sessions = s.sessions := 
  foldl_keeps State.sessions _ (fun _ _ => by simp) _ _
@[simp] theorem State.noteChange_inputs (s : State) (z : ZoneId) :
    (s.noteChange z).inputs = s.inputs := 
  foldl_keeps State.inputs _ (fun _ _ => by simp) _ _
@[simp] theorem State.noteChange_nextSerial (s : State) (z : ZoneId) :
    (s.noteChange z).nextSerial = s.nextSerial := 
  foldl_keeps State.nextSerial _ (fun _ _ => by simp) _ _
@[simp] theorem State.noteChange_ring (s : State) (z : ZoneId) :
    (s.noteChange z).ring = s.ring := 
  foldl_keeps State.ring _ (fun _ _ => by simp) _ _
@[simp] theorem State.noteChange_ports (s : State) (z : ZoneId) :
    (s.noteChange z).ports = s.ports := 
  foldl_keeps State.ports _ (fun _ _ => by simp) _ _
@[simp] theorem State.noteChange_device (s : State) (z : ZoneId) :
    (s.noteChange z).device = s.device := 
  foldl_keeps State.device _ (fun _ _ => by simp) _ _
@[simp] theorem State.noteChange_resetCause (s : State) (z : ZoneId) :
    (s.noteChange z).resetCause = s.resetCause := 
  foldl_keeps State.resetCause _ (fun _ _ => by simp) _ _
@[simp] theorem State.noteChange_cfg (s : State) (z : ZoneId) :
    (s.noteChange z).cfg = s.cfg := 
  foldl_keeps State.cfg _ (fun _ _ => by simp) _ _
@[simp] theorem State.noteChange_startupStore (s : State) (z : ZoneId) :
    (s.noteChange z).startupStore = s.startupStore := 
  foldl_keeps State.startupStore _ (fun _ _ => by simp) _ _
@[simp] theorem State.noteChange_presentStore (s : State) (z : ZoneId) :
    (s.noteChange z).presentStore = s.presentStore := 
  foldl_keeps State.presentStore _ (fun _ _ => by simp) _ _
@[simp] theorem State.noteChange_store (s : State) (z : ZoneId) :
    (s.noteChange z).store = s.store := 
  foldl_keeps State.store _ (fun _ _ => by simp) _ _
@[simp] theorem State.noteChange_config (s : State) (z : ZoneId) :
    (s.noteChange z).config = s.config := 
  foldl_keeps State.config _ (fun _ _ => by simp) _ _
@[simp] theorem State.noteChange_source (s : State) (z : ZoneId) :
    (s.noteChange z).source = s.source := 
  foldl_keeps State.source _ (fun _ _ => by simp) _ _
@[simp] theorem State.noteChange_pending (s : State) (z : ZoneId) :
    (s.noteChange z).pending = s.pending := 
  foldl_keeps State.pending _ (fun _ _ => by simp) _ _

/-! ### withTimer -/

@[simp] theorem State.withTimer_timeCount (s : State) (m : Master) (t : SupervisionTimer) :
    (s.withTimer m t).timeCount = s.timeCount := rfl
@[simp] theorem State.withTimer_queue (s : State) (m : Master) (t : SupervisionTimer) :
    (s.withTimer m t).queue = s.queue := rfl
@[simp] theorem State.withTimer_banks (s : State) (m : Master) (t : SupervisionTimer) :
    (s.withTimer m t).banks = s.banks := rfl
@[simp] theorem State.withTimer_zones (s : State) (m : Master) (t : SupervisionTimer) :
    (s.withTimer m t).zones = s.zones := rfl
@[simp] theorem State.withTimer_changeSets (s : State) (m : Master) (t : SupervisionTimer) :
    (s.withTimer m t).changeSets = s.changeSets := rfl
@[simp] theorem State.withTimer_lastServed (s : State) (m : Master) (t : SupervisionTimer) :
    (s.withTimer m t).lastServed = s.lastServed := rfl
@[simp] theorem State.withTimer_chosen (s : State) (m : Master) (t : SupervisionTimer) :
    (s.withTimer m t).chosen = s.chosen := rfl
@[simp] theorem State.withTimer_attention (s : State) (m : Master) (t : SupervisionTimer) :
    (s.withTimer m t).attention = s.attention := rfl
@[simp] theorem State.withTimer_inputs (s : State) (m : Master) (t : SupervisionTimer) :
    (s.withTimer m t).inputs = s.inputs := rfl
@[simp] theorem State.withTimer_nextSerial (s : State) (m : Master) (t : SupervisionTimer) :
    (s.withTimer m t).nextSerial = s.nextSerial := rfl
@[simp] theorem State.withTimer_ring (s : State) (m : Master) (t : SupervisionTimer) :
    (s.withTimer m t).ring = s.ring := rfl
@[simp] theorem State.withTimer_ports (s : State) (m : Master) (t : SupervisionTimer) :
    (s.withTimer m t).ports = s.ports := rfl
@[simp] theorem State.withTimer_device (s : State) (m : Master) (t : SupervisionTimer) :
    (s.withTimer m t).device = s.device := rfl
@[simp] theorem State.withTimer_resetCause (s : State) (m : Master) (t : SupervisionTimer) :
    (s.withTimer m t).resetCause = s.resetCause := rfl
@[simp] theorem State.withTimer_cfg (s : State) (m : Master) (t : SupervisionTimer) :
    (s.withTimer m t).cfg = s.cfg := rfl
@[simp] theorem State.withTimer_startupStore (s : State) (m : Master) (t : SupervisionTimer) :
    (s.withTimer m t).startupStore = s.startupStore := rfl
@[simp] theorem State.withTimer_presentStore (s : State) (m : Master) (t : SupervisionTimer) :
    (s.withTimer m t).presentStore = s.presentStore := rfl
@[simp] theorem State.withTimer_store (s : State) (m : Master) (t : SupervisionTimer) :
    (s.withTimer m t).store = s.store := rfl
@[simp] theorem State.withTimer_config (s : State) (m : Master) (t : SupervisionTimer) :
    (s.withTimer m t).config = s.config := rfl
@[simp] theorem State.withTimer_source (s : State) (m : Master) (t : SupervisionTimer) :
    (s.withTimer m t).source = s.source := rfl
@[simp] theorem State.withTimer_pending (s : State) (m : Master) (t : SupervisionTimer) :
    (s.withTimer m t).pending = s.pending := rfl

/-! ### putZone -/

@[simp] theorem State.putZone_timeCount (s : State) (z : ZoneId) (r : Zone) :
    (s.putZone z r).timeCount = s.timeCount := rfl
@[simp] theorem State.putZone_queue (s : State) (z : ZoneId) (r : Zone) :
    (s.putZone z r).queue = s.queue := rfl
@[simp] theorem State.putZone_banks (s : State) (z : ZoneId) (r : Zone) :
    (s.putZone z r).banks = s.banks := rfl
@[simp] theorem State.putZone_changeSets (s : State) (z : ZoneId) (r : Zone) :
    (s.putZone z r).changeSets = s.changeSets := rfl
@[simp] theorem State.putZone_lastServed (s : State) (z : ZoneId) (r : Zone) :
    (s.putZone z r).lastServed = s.lastServed := rfl
@[simp] theorem State.putZone_chosen (s : State) (z : ZoneId) (r : Zone) :
    (s.putZone z r).chosen = s.chosen := rfl
@[simp] theorem State.putZone_sessions (s : State) (z : ZoneId) (r : Zone) :
    (s.putZone z r).sessions = s.sessions := rfl
@[simp] theorem State.putZone_attention (s : State) (z : ZoneId) (r : Zone) :
    (s.putZone z r).attention = s.attention := rfl
@[simp] theorem State.putZone_inputs (s : State) (z : ZoneId) (r : Zone) :
    (s.putZone z r).inputs = s.inputs := rfl
@[simp] theorem State.putZone_nextSerial (s : State) (z : ZoneId) (r : Zone) :
    (s.putZone z r).nextSerial = s.nextSerial := rfl
@[simp] theorem State.putZone_ring (s : State) (z : ZoneId) (r : Zone) :
    (s.putZone z r).ring = s.ring := rfl
@[simp] theorem State.putZone_ports (s : State) (z : ZoneId) (r : Zone) :
    (s.putZone z r).ports = s.ports := rfl
@[simp] theorem State.putZone_device (s : State) (z : ZoneId) (r : Zone) :
    (s.putZone z r).device = s.device := rfl
@[simp] theorem State.putZone_resetCause (s : State) (z : ZoneId) (r : Zone) :
    (s.putZone z r).resetCause = s.resetCause := rfl
@[simp] theorem State.putZone_cfg (s : State) (z : ZoneId) (r : Zone) :
    (s.putZone z r).cfg = s.cfg := rfl
@[simp] theorem State.putZone_startupStore (s : State) (z : ZoneId) (r : Zone) :
    (s.putZone z r).startupStore = s.startupStore := rfl
@[simp] theorem State.putZone_presentStore (s : State) (z : ZoneId) (r : Zone) :
    (s.putZone z r).presentStore = s.presentStore := rfl
@[simp] theorem State.putZone_store (s : State) (z : ZoneId) (r : Zone) :
    (s.putZone z r).store = s.store := rfl
@[simp] theorem State.putZone_config (s : State) (z : ZoneId) (r : Zone) :
    (s.putZone z r).config = s.config := rfl
@[simp] theorem State.putZone_source (s : State) (z : ZoneId) (r : Zone) :
    (s.putZone z r).source = s.source := rfl
@[simp] theorem State.putZone_pending (s : State) (z : ZoneId) (r : Zone) :
    (s.putZone z r).pending = s.pending := rfl

/-! ### setCommanded -/

@[simp] theorem State.setCommanded_timeCount (s : State) (z : ZoneId) (v : Value) :
    (s.setCommanded z v).timeCount = s.timeCount := rfl
@[simp] theorem State.setCommanded_queue (s : State) (z : ZoneId) (v : Value) :
    (s.setCommanded z v).queue = s.queue := rfl
@[simp] theorem State.setCommanded_banks (s : State) (z : ZoneId) (v : Value) :
    (s.setCommanded z v).banks = s.banks := rfl
@[simp] theorem State.setCommanded_changeSets (s : State) (z : ZoneId) (v : Value) :
    (s.setCommanded z v).changeSets = s.changeSets := rfl
@[simp] theorem State.setCommanded_lastServed (s : State) (z : ZoneId) (v : Value) :
    (s.setCommanded z v).lastServed = s.lastServed := rfl
@[simp] theorem State.setCommanded_chosen (s : State) (z : ZoneId) (v : Value) :
    (s.setCommanded z v).chosen = s.chosen := rfl
@[simp] theorem State.setCommanded_sessions (s : State) (z : ZoneId) (v : Value) :
    (s.setCommanded z v).sessions = s.sessions := rfl
@[simp] theorem State.setCommanded_attention (s : State) (z : ZoneId) (v : Value) :
    (s.setCommanded z v).attention = s.attention := rfl
@[simp] theorem State.setCommanded_inputs (s : State) (z : ZoneId) (v : Value) :
    (s.setCommanded z v).inputs = s.inputs := rfl
@[simp] theorem State.setCommanded_nextSerial (s : State) (z : ZoneId) (v : Value) :
    (s.setCommanded z v).nextSerial = s.nextSerial := rfl
@[simp] theorem State.setCommanded_ring (s : State) (z : ZoneId) (v : Value) :
    (s.setCommanded z v).ring = s.ring := rfl
@[simp] theorem State.setCommanded_ports (s : State) (z : ZoneId) (v : Value) :
    (s.setCommanded z v).ports = s.ports := rfl
@[simp] theorem State.setCommanded_device (s : State) (z : ZoneId) (v : Value) :
    (s.setCommanded z v).device = s.device := rfl
@[simp] theorem State.setCommanded_resetCause (s : State) (z : ZoneId) (v : Value) :
    (s.setCommanded z v).resetCause = s.resetCause := rfl
@[simp] theorem State.setCommanded_cfg (s : State) (z : ZoneId) (v : Value) :
    (s.setCommanded z v).cfg = s.cfg := rfl
@[simp] theorem State.setCommanded_startupStore (s : State) (z : ZoneId) (v : Value) :
    (s.setCommanded z v).startupStore = s.startupStore := rfl
@[simp] theorem State.setCommanded_presentStore (s : State) (z : ZoneId) (v : Value) :
    (s.setCommanded z v).presentStore = s.presentStore := rfl
@[simp] theorem State.setCommanded_store (s : State) (z : ZoneId) (v : Value) :
    (s.setCommanded z v).store = s.store := rfl
@[simp] theorem State.setCommanded_config (s : State) (z : ZoneId) (v : Value) :
    (s.setCommanded z v).config = s.config := rfl
@[simp] theorem State.setCommanded_source (s : State) (z : ZoneId) (v : Value) :
    (s.setCommanded z v).source = s.source := rfl
@[simp] theorem State.setCommanded_pending (s : State) (z : ZoneId) (v : Value) :
    (s.setCommanded z v).pending = s.pending := rfl

/-! ### autoTimer -/

@[simp] theorem State.autoTimer_timeCount (b s : State) (m : Master) :
    (State.autoTimer b s m).timeCount = s.timeCount := by unfold State.autoTimer; (repeat' split) <;> simp
@[simp] theorem State.autoTimer_queue (b s : State) (m : Master) :
    (State.autoTimer b s m).queue = s.queue := by unfold State.autoTimer; (repeat' split) <;> simp
@[simp] theorem State.autoTimer_banks (b s : State) (m : Master) :
    (State.autoTimer b s m).banks = s.banks := by unfold State.autoTimer; (repeat' split) <;> simp
@[simp] theorem State.autoTimer_zones (b s : State) (m : Master) :
    (State.autoTimer b s m).zones = s.zones := by unfold State.autoTimer; (repeat' split) <;> simp
@[simp] theorem State.autoTimer_changeSets (b s : State) (m : Master) :
    (State.autoTimer b s m).changeSets = s.changeSets := by unfold State.autoTimer; (repeat' split) <;> simp
@[simp] theorem State.autoTimer_lastServed (b s : State) (m : Master) :
    (State.autoTimer b s m).lastServed = s.lastServed := by unfold State.autoTimer; (repeat' split) <;> simp
@[simp] theorem State.autoTimer_chosen (b s : State) (m : Master) :
    (State.autoTimer b s m).chosen = s.chosen := by unfold State.autoTimer; (repeat' split) <;> simp
@[simp] theorem State.autoTimer_attention (b s : State) (m : Master) :
    (State.autoTimer b s m).attention = s.attention := by unfold State.autoTimer; (repeat' split) <;> simp
@[simp] theorem State.autoTimer_inputs (b s : State) (m : Master) :
    (State.autoTimer b s m).inputs = s.inputs := by unfold State.autoTimer; (repeat' split) <;> simp
@[simp] theorem State.autoTimer_nextSerial (b s : State) (m : Master) :
    (State.autoTimer b s m).nextSerial = s.nextSerial := by unfold State.autoTimer; (repeat' split) <;> simp
@[simp] theorem State.autoTimer_ring (b s : State) (m : Master) :
    (State.autoTimer b s m).ring = s.ring := by unfold State.autoTimer; (repeat' split) <;> simp
@[simp] theorem State.autoTimer_ports (b s : State) (m : Master) :
    (State.autoTimer b s m).ports = s.ports := by unfold State.autoTimer; (repeat' split) <;> simp
@[simp] theorem State.autoTimer_device (b s : State) (m : Master) :
    (State.autoTimer b s m).device = s.device := by unfold State.autoTimer; (repeat' split) <;> simp
@[simp] theorem State.autoTimer_resetCause (b s : State) (m : Master) :
    (State.autoTimer b s m).resetCause = s.resetCause := by unfold State.autoTimer; (repeat' split) <;> simp
@[simp] theorem State.autoTimer_cfg (b s : State) (m : Master) :
    (State.autoTimer b s m).cfg = s.cfg := by unfold State.autoTimer; (repeat' split) <;> simp
@[simp] theorem State.autoTimer_startupStore (b s : State) (m : Master) :
    (State.autoTimer b s m).startupStore = s.startupStore := by unfold State.autoTimer; (repeat' split) <;> simp
@[simp] theorem State.autoTimer_presentStore (b s : State) (m : Master) :
    (State.autoTimer b s m).presentStore = s.presentStore := by unfold State.autoTimer; (repeat' split) <;> simp
@[simp] theorem State.autoTimer_store (b s : State) (m : Master) :
    (State.autoTimer b s m).store = s.store := by unfold State.autoTimer; (repeat' split) <;> simp
@[simp] theorem State.autoTimer_config (b s : State) (m : Master) :
    (State.autoTimer b s m).config = s.config := by unfold State.autoTimer; (repeat' split) <;> simp
@[simp] theorem State.autoTimer_source (b s : State) (m : Master) :
    (State.autoTimer b s m).source = s.source := by unfold State.autoTimer; (repeat' split) <;> simp
@[simp] theorem State.autoTimer_pending (b s : State) (m : Master) :
    (State.autoTimer b s m).pending = s.pending := by unfold State.autoTimer; (repeat' split) <;> simp

/-! ### setAuthority -/

@[simp] theorem State.setAuthority_timeCount (s : State) (z : ZoneId) (a : Authority) (v : Value) :
    (s.setAuthority z a v).timeCount = s.timeCount := by
  unfold State.setAuthority
  refine (foldl_keeps State.timeCount _ (fun _ _ => by simp) _ _).trans ?_
  split <;> simp
@[simp] theorem State.setAuthority_queue (s : State) (z : ZoneId) (a : Authority) (v : Value) :
    (s.setAuthority z a v).queue = s.queue := by
  unfold State.setAuthority
  refine (foldl_keeps State.queue _ (fun _ _ => by simp) _ _).trans ?_
  split <;> simp
@[simp] theorem State.setAuthority_banks (s : State) (z : ZoneId) (a : Authority) (v : Value) :
    (s.setAuthority z a v).banks = s.banks := by
  unfold State.setAuthority
  refine (foldl_keeps State.banks _ (fun _ _ => by simp) _ _).trans ?_
  split <;> simp
@[simp] theorem State.setAuthority_lastServed (s : State) (z : ZoneId) (a : Authority) (v : Value) :
    (s.setAuthority z a v).lastServed = s.lastServed := by
  unfold State.setAuthority
  refine (foldl_keeps State.lastServed _ (fun _ _ => by simp) _ _).trans ?_
  split <;> simp
@[simp] theorem State.setAuthority_chosen (s : State) (z : ZoneId) (a : Authority) (v : Value) :
    (s.setAuthority z a v).chosen = s.chosen := by
  unfold State.setAuthority
  refine (foldl_keeps State.chosen _ (fun _ _ => by simp) _ _).trans ?_
  split <;> simp
@[simp] theorem State.setAuthority_inputs (s : State) (z : ZoneId) (a : Authority) (v : Value) :
    (s.setAuthority z a v).inputs = s.inputs := by
  unfold State.setAuthority
  refine (foldl_keeps State.inputs _ (fun _ _ => by simp) _ _).trans ?_
  split <;> simp
@[simp] theorem State.setAuthority_nextSerial (s : State) (z : ZoneId) (a : Authority) (v : Value) :
    (s.setAuthority z a v).nextSerial = s.nextSerial := by
  unfold State.setAuthority
  refine (foldl_keeps State.nextSerial _ (fun _ _ => by simp) _ _).trans ?_
  split <;> simp
@[simp] theorem State.setAuthority_ring (s : State) (z : ZoneId) (a : Authority) (v : Value) :
    (s.setAuthority z a v).ring = s.ring := by
  unfold State.setAuthority
  refine (foldl_keeps State.ring _ (fun _ _ => by simp) _ _).trans ?_
  split <;> simp
@[simp] theorem State.setAuthority_ports (s : State) (z : ZoneId) (a : Authority) (v : Value) :
    (s.setAuthority z a v).ports = s.ports := by
  unfold State.setAuthority
  refine (foldl_keeps State.ports _ (fun _ _ => by simp) _ _).trans ?_
  split <;> simp
@[simp] theorem State.setAuthority_device (s : State) (z : ZoneId) (a : Authority) (v : Value) :
    (s.setAuthority z a v).device = s.device := by
  unfold State.setAuthority
  refine (foldl_keeps State.device _ (fun _ _ => by simp) _ _).trans ?_
  split <;> simp
@[simp] theorem State.setAuthority_resetCause (s : State) (z : ZoneId) (a : Authority) (v : Value) :
    (s.setAuthority z a v).resetCause = s.resetCause := by
  unfold State.setAuthority
  refine (foldl_keeps State.resetCause _ (fun _ _ => by simp) _ _).trans ?_
  split <;> simp
@[simp] theorem State.setAuthority_cfg (s : State) (z : ZoneId) (a : Authority) (v : Value) :
    (s.setAuthority z a v).cfg = s.cfg := by
  unfold State.setAuthority
  refine (foldl_keeps State.cfg _ (fun _ _ => by simp) _ _).trans ?_
  split <;> simp
@[simp] theorem State.setAuthority_startupStore (s : State) (z : ZoneId) (a : Authority) (v : Value) :
    (s.setAuthority z a v).startupStore = s.startupStore := by
  unfold State.setAuthority
  refine (foldl_keeps State.startupStore _ (fun _ _ => by simp) _ _).trans ?_
  split <;> simp
@[simp] theorem State.setAuthority_presentStore (s : State) (z : ZoneId) (a : Authority) (v : Value) :
    (s.setAuthority z a v).presentStore = s.presentStore := by
  unfold State.setAuthority
  refine (foldl_keeps State.presentStore _ (fun _ _ => by simp) _ _).trans ?_
  split <;> simp
@[simp] theorem State.setAuthority_store (s : State) (z : ZoneId) (a : Authority) (v : Value) :
    (s.setAuthority z a v).store = s.store := by
  unfold State.setAuthority
  refine (foldl_keeps State.store _ (fun _ _ => by simp) _ _).trans ?_
  split <;> simp
@[simp] theorem State.setAuthority_config (s : State) (z : ZoneId) (a : Authority) (v : Value) :
    (s.setAuthority z a v).config = s.config := by
  unfold State.setAuthority
  refine (foldl_keeps State.config _ (fun _ _ => by simp) _ _).trans ?_
  split <;> simp
@[simp] theorem State.setAuthority_source (s : State) (z : ZoneId) (a : Authority) (v : Value) :
    (s.setAuthority z a v).source = s.source := by
  unfold State.setAuthority
  refine (foldl_keeps State.source _ (fun _ _ => by simp) _ _).trans ?_
  split <;> simp
@[simp] theorem State.setAuthority_pending (s : State) (z : ZoneId) (a : Authority) (v : Value) :
    (s.setAuthority z a v).pending = s.pending := by
  unfold State.setAuthority
  refine (foldl_keeps State.pending _ (fun _ _ => by simp) _ _).trans ?_
  split <;> simp

/-! ### tellHolderInhibit -/

@[simp] theorem State.tellHolderInhibit_timeCount (s : State) (z : ZoneId) :
    (s.tellHolderInhibit z).timeCount = s.timeCount := by unfold State.tellHolderInhibit; split <;> simp
@[simp] theorem State.tellHolderInhibit_queue (s : State) (z : ZoneId) :
    (s.tellHolderInhibit z).queue = s.queue := by unfold State.tellHolderInhibit; split <;> simp
@[simp] theorem State.tellHolderInhibit_banks (s : State) (z : ZoneId) :
    (s.tellHolderInhibit z).banks = s.banks := by unfold State.tellHolderInhibit; split <;> simp
@[simp] theorem State.tellHolderInhibit_zones (s : State) (z : ZoneId) :
    (s.tellHolderInhibit z).zones = s.zones := by unfold State.tellHolderInhibit; split <;> simp
@[simp] theorem State.tellHolderInhibit_changeSets (s : State) (z : ZoneId) :
    (s.tellHolderInhibit z).changeSets = s.changeSets := by unfold State.tellHolderInhibit; split <;> simp
@[simp] theorem State.tellHolderInhibit_lastServed (s : State) (z : ZoneId) :
    (s.tellHolderInhibit z).lastServed = s.lastServed := by unfold State.tellHolderInhibit; split <;> simp
@[simp] theorem State.tellHolderInhibit_chosen (s : State) (z : ZoneId) :
    (s.tellHolderInhibit z).chosen = s.chosen := by unfold State.tellHolderInhibit; split <;> simp
@[simp] theorem State.tellHolderInhibit_sessions (s : State) (z : ZoneId) :
    (s.tellHolderInhibit z).sessions = s.sessions := by unfold State.tellHolderInhibit; split <;> simp
@[simp] theorem State.tellHolderInhibit_inputs (s : State) (z : ZoneId) :
    (s.tellHolderInhibit z).inputs = s.inputs := by unfold State.tellHolderInhibit; split <;> simp
@[simp] theorem State.tellHolderInhibit_nextSerial (s : State) (z : ZoneId) :
    (s.tellHolderInhibit z).nextSerial = s.nextSerial := by unfold State.tellHolderInhibit; split <;> simp
@[simp] theorem State.tellHolderInhibit_ring (s : State) (z : ZoneId) :
    (s.tellHolderInhibit z).ring = s.ring := by unfold State.tellHolderInhibit; split <;> simp
@[simp] theorem State.tellHolderInhibit_ports (s : State) (z : ZoneId) :
    (s.tellHolderInhibit z).ports = s.ports := by unfold State.tellHolderInhibit; split <;> simp
@[simp] theorem State.tellHolderInhibit_device (s : State) (z : ZoneId) :
    (s.tellHolderInhibit z).device = s.device := by unfold State.tellHolderInhibit; split <;> simp
@[simp] theorem State.tellHolderInhibit_resetCause (s : State) (z : ZoneId) :
    (s.tellHolderInhibit z).resetCause = s.resetCause := by unfold State.tellHolderInhibit; split <;> simp
@[simp] theorem State.tellHolderInhibit_cfg (s : State) (z : ZoneId) :
    (s.tellHolderInhibit z).cfg = s.cfg := by unfold State.tellHolderInhibit; split <;> simp
@[simp] theorem State.tellHolderInhibit_startupStore (s : State) (z : ZoneId) :
    (s.tellHolderInhibit z).startupStore = s.startupStore := by unfold State.tellHolderInhibit; split <;> simp
@[simp] theorem State.tellHolderInhibit_presentStore (s : State) (z : ZoneId) :
    (s.tellHolderInhibit z).presentStore = s.presentStore := by unfold State.tellHolderInhibit; split <;> simp
@[simp] theorem State.tellHolderInhibit_store (s : State) (z : ZoneId) :
    (s.tellHolderInhibit z).store = s.store := by unfold State.tellHolderInhibit; split <;> simp
@[simp] theorem State.tellHolderInhibit_config (s : State) (z : ZoneId) :
    (s.tellHolderInhibit z).config = s.config := by unfold State.tellHolderInhibit; split <;> simp
@[simp] theorem State.tellHolderInhibit_source (s : State) (z : ZoneId) :
    (s.tellHolderInhibit z).source = s.source := by unfold State.tellHolderInhibit; split <;> simp
@[simp] theorem State.tellHolderInhibit_pending (s : State) (z : ZoneId) :
    (s.tellHolderInhibit z).pending = s.pending := by unfold State.tellHolderInhibit; split <;> simp

/-! ### setInhibit -/

@[simp] theorem State.setInhibit_timeCount (s : State) (z : ZoneId) (n : InputSet) :
    (s.setInhibit z n).timeCount = s.timeCount := by unfold State.setInhibit; dsimp only; (repeat' split) <;> simp
@[simp] theorem State.setInhibit_queue (s : State) (z : ZoneId) (n : InputSet) :
    (s.setInhibit z n).queue = s.queue := by unfold State.setInhibit; dsimp only; (repeat' split) <;> simp
@[simp] theorem State.setInhibit_banks (s : State) (z : ZoneId) (n : InputSet) :
    (s.setInhibit z n).banks = s.banks := by unfold State.setInhibit; dsimp only; (repeat' split) <;> simp
@[simp] theorem State.setInhibit_changeSets (s : State) (z : ZoneId) (n : InputSet) :
    (s.setInhibit z n).changeSets = s.changeSets := by unfold State.setInhibit; dsimp only; (repeat' split) <;> simp
@[simp] theorem State.setInhibit_lastServed (s : State) (z : ZoneId) (n : InputSet) :
    (s.setInhibit z n).lastServed = s.lastServed := by unfold State.setInhibit; dsimp only; (repeat' split) <;> simp
@[simp] theorem State.setInhibit_chosen (s : State) (z : ZoneId) (n : InputSet) :
    (s.setInhibit z n).chosen = s.chosen := by unfold State.setInhibit; dsimp only; (repeat' split) <;> simp
@[simp] theorem State.setInhibit_sessions (s : State) (z : ZoneId) (n : InputSet) :
    (s.setInhibit z n).sessions = s.sessions := by unfold State.setInhibit; dsimp only; (repeat' split) <;> simp
@[simp] theorem State.setInhibit_inputs (s : State) (z : ZoneId) (n : InputSet) :
    (s.setInhibit z n).inputs = s.inputs := by unfold State.setInhibit; dsimp only; (repeat' split) <;> simp
@[simp] theorem State.setInhibit_nextSerial (s : State) (z : ZoneId) (n : InputSet) :
    (s.setInhibit z n).nextSerial = s.nextSerial := by unfold State.setInhibit; dsimp only; (repeat' split) <;> simp
@[simp] theorem State.setInhibit_ring (s : State) (z : ZoneId) (n : InputSet) :
    (s.setInhibit z n).ring = s.ring := by unfold State.setInhibit; dsimp only; (repeat' split) <;> simp
@[simp] theorem State.setInhibit_ports (s : State) (z : ZoneId) (n : InputSet) :
    (s.setInhibit z n).ports = s.ports := by unfold State.setInhibit; dsimp only; (repeat' split) <;> simp
@[simp] theorem State.setInhibit_device (s : State) (z : ZoneId) (n : InputSet) :
    (s.setInhibit z n).device = s.device := by unfold State.setInhibit; dsimp only; (repeat' split) <;> simp
@[simp] theorem State.setInhibit_resetCause (s : State) (z : ZoneId) (n : InputSet) :
    (s.setInhibit z n).resetCause = s.resetCause := by unfold State.setInhibit; dsimp only; (repeat' split) <;> simp
@[simp] theorem State.setInhibit_cfg (s : State) (z : ZoneId) (n : InputSet) :
    (s.setInhibit z n).cfg = s.cfg := by unfold State.setInhibit; dsimp only; (repeat' split) <;> simp
@[simp] theorem State.setInhibit_startupStore (s : State) (z : ZoneId) (n : InputSet) :
    (s.setInhibit z n).startupStore = s.startupStore := by unfold State.setInhibit; dsimp only; (repeat' split) <;> simp
@[simp] theorem State.setInhibit_presentStore (s : State) (z : ZoneId) (n : InputSet) :
    (s.setInhibit z n).presentStore = s.presentStore := by unfold State.setInhibit; dsimp only; (repeat' split) <;> simp
@[simp] theorem State.setInhibit_store (s : State) (z : ZoneId) (n : InputSet) :
    (s.setInhibit z n).store = s.store := by unfold State.setInhibit; dsimp only; (repeat' split) <;> simp
@[simp] theorem State.setInhibit_config (s : State) (z : ZoneId) (n : InputSet) :
    (s.setInhibit z n).config = s.config := by unfold State.setInhibit; dsimp only; (repeat' split) <;> simp
@[simp] theorem State.setInhibit_source (s : State) (z : ZoneId) (n : InputSet) :
    (s.setInhibit z n).source = s.source := by unfold State.setInhibit; dsimp only; (repeat' split) <;> simp
@[simp] theorem State.setInhibit_pending (s : State) (z : ZoneId) (n : InputSet) :
    (s.setInhibit z n).pending = s.pending := by unfold State.setInhibit; dsimp only; (repeat' split) <;> simp

/-! ### removeEntries -/

@[simp] theorem State.removeEntries_timeCount (s : State) (p : Entry → Bool) :
    (s.removeEntries p).timeCount = s.timeCount := rfl
@[simp] theorem State.removeEntries_banks (s : State) (p : Entry → Bool) :
    (s.removeEntries p).banks = s.banks := rfl
@[simp] theorem State.removeEntries_zones (s : State) (p : Entry → Bool) :
    (s.removeEntries p).zones = s.zones := rfl
@[simp] theorem State.removeEntries_changeSets (s : State) (p : Entry → Bool) :
    (s.removeEntries p).changeSets = s.changeSets := rfl
@[simp] theorem State.removeEntries_lastServed (s : State) (p : Entry → Bool) :
    (s.removeEntries p).lastServed = s.lastServed := rfl
@[simp] theorem State.removeEntries_chosen (s : State) (p : Entry → Bool) :
    (s.removeEntries p).chosen = s.chosen := rfl
@[simp] theorem State.removeEntries_sessions (s : State) (p : Entry → Bool) :
    (s.removeEntries p).sessions = s.sessions := rfl
@[simp] theorem State.removeEntries_attention (s : State) (p : Entry → Bool) :
    (s.removeEntries p).attention = s.attention := rfl
@[simp] theorem State.removeEntries_inputs (s : State) (p : Entry → Bool) :
    (s.removeEntries p).inputs = s.inputs := rfl
@[simp] theorem State.removeEntries_nextSerial (s : State) (p : Entry → Bool) :
    (s.removeEntries p).nextSerial = s.nextSerial := rfl
@[simp] theorem State.removeEntries_ring (s : State) (p : Entry → Bool) :
    (s.removeEntries p).ring = s.ring := rfl
@[simp] theorem State.removeEntries_ports (s : State) (p : Entry → Bool) :
    (s.removeEntries p).ports = s.ports := rfl
@[simp] theorem State.removeEntries_device (s : State) (p : Entry → Bool) :
    (s.removeEntries p).device = s.device := rfl
@[simp] theorem State.removeEntries_resetCause (s : State) (p : Entry → Bool) :
    (s.removeEntries p).resetCause = s.resetCause := rfl
@[simp] theorem State.removeEntries_cfg (s : State) (p : Entry → Bool) :
    (s.removeEntries p).cfg = s.cfg := rfl
@[simp] theorem State.removeEntries_startupStore (s : State) (p : Entry → Bool) :
    (s.removeEntries p).startupStore = s.startupStore := rfl
@[simp] theorem State.removeEntries_presentStore (s : State) (p : Entry → Bool) :
    (s.removeEntries p).presentStore = s.presentStore := rfl
@[simp] theorem State.removeEntries_store (s : State) (p : Entry → Bool) :
    (s.removeEntries p).store = s.store := rfl
@[simp] theorem State.removeEntries_config (s : State) (p : Entry → Bool) :
    (s.removeEntries p).config = s.config := rfl
@[simp] theorem State.removeEntries_source (s : State) (p : Entry → Bool) :
    (s.removeEntries p).source = s.source := rfl
@[simp] theorem State.removeEntries_pending (s : State) (p : Entry → Bool) :
    (s.removeEntries p).pending = s.pending := rfl

/-! ### tellLostEntry -/

@[simp] theorem State.tellLostEntry_timeCount (s : State) (e : Entry) :
    (s.tellLostEntry e).timeCount = s.timeCount := by simp [State.tellLostEntry]
@[simp] theorem State.tellLostEntry_queue (s : State) (e : Entry) :
    (s.tellLostEntry e).queue = s.queue := by simp [State.tellLostEntry]
@[simp] theorem State.tellLostEntry_banks (s : State) (e : Entry) :
    (s.tellLostEntry e).banks = s.banks := by simp [State.tellLostEntry]
@[simp] theorem State.tellLostEntry_zones (s : State) (e : Entry) :
    (s.tellLostEntry e).zones = s.zones := by simp [State.tellLostEntry]
@[simp] theorem State.tellLostEntry_changeSets (s : State) (e : Entry) :
    (s.tellLostEntry e).changeSets = s.changeSets := by simp [State.tellLostEntry]
@[simp] theorem State.tellLostEntry_lastServed (s : State) (e : Entry) :
    (s.tellLostEntry e).lastServed = s.lastServed := by simp [State.tellLostEntry]
@[simp] theorem State.tellLostEntry_chosen (s : State) (e : Entry) :
    (s.tellLostEntry e).chosen = s.chosen := by simp [State.tellLostEntry]
@[simp] theorem State.tellLostEntry_sessions (s : State) (e : Entry) :
    (s.tellLostEntry e).sessions = s.sessions := by simp [State.tellLostEntry]
@[simp] theorem State.tellLostEntry_inputs (s : State) (e : Entry) :
    (s.tellLostEntry e).inputs = s.inputs := by simp [State.tellLostEntry]
@[simp] theorem State.tellLostEntry_nextSerial (s : State) (e : Entry) :
    (s.tellLostEntry e).nextSerial = s.nextSerial := by simp [State.tellLostEntry]
@[simp] theorem State.tellLostEntry_ring (s : State) (e : Entry) :
    (s.tellLostEntry e).ring = s.ring := by simp [State.tellLostEntry]
@[simp] theorem State.tellLostEntry_ports (s : State) (e : Entry) :
    (s.tellLostEntry e).ports = s.ports := by simp [State.tellLostEntry]
@[simp] theorem State.tellLostEntry_device (s : State) (e : Entry) :
    (s.tellLostEntry e).device = s.device := by simp [State.tellLostEntry]
@[simp] theorem State.tellLostEntry_resetCause (s : State) (e : Entry) :
    (s.tellLostEntry e).resetCause = s.resetCause := by simp [State.tellLostEntry]
@[simp] theorem State.tellLostEntry_cfg (s : State) (e : Entry) :
    (s.tellLostEntry e).cfg = s.cfg := by simp [State.tellLostEntry]
@[simp] theorem State.tellLostEntry_startupStore (s : State) (e : Entry) :
    (s.tellLostEntry e).startupStore = s.startupStore := by simp [State.tellLostEntry]
@[simp] theorem State.tellLostEntry_presentStore (s : State) (e : Entry) :
    (s.tellLostEntry e).presentStore = s.presentStore := by simp [State.tellLostEntry]
@[simp] theorem State.tellLostEntry_store (s : State) (e : Entry) :
    (s.tellLostEntry e).store = s.store := by simp [State.tellLostEntry]
@[simp] theorem State.tellLostEntry_config (s : State) (e : Entry) :
    (s.tellLostEntry e).config = s.config := by simp [State.tellLostEntry]
@[simp] theorem State.tellLostEntry_source (s : State) (e : Entry) :
    (s.tellLostEntry e).source = s.source := by simp [State.tellLostEntry]
@[simp] theorem State.tellLostEntry_pending (s : State) (e : Entry) :
    (s.tellLostEntry e).pending = s.pending := by simp [State.tellLostEntry]

/-! ### dropEntries -/

@[simp] theorem State.dropEntries_timeCount (s : State) (p : Entry → Bool) :
    (s.dropEntries p).timeCount = s.timeCount := by
  unfold State.dropEntries
  exact (foldl_keeps State.timeCount _ (fun _ _ => by simp) _ _).trans (by simp)
@[simp] theorem State.dropEntries_banks (s : State) (p : Entry → Bool) :
    (s.dropEntries p).banks = s.banks := by
  unfold State.dropEntries
  exact (foldl_keeps State.banks _ (fun _ _ => by simp) _ _).trans (by simp)
@[simp] theorem State.dropEntries_zones (s : State) (p : Entry → Bool) :
    (s.dropEntries p).zones = s.zones := by
  unfold State.dropEntries
  exact (foldl_keeps State.zones _ (fun _ _ => by simp) _ _).trans (by simp)
@[simp] theorem State.dropEntries_changeSets (s : State) (p : Entry → Bool) :
    (s.dropEntries p).changeSets = s.changeSets := by
  unfold State.dropEntries
  exact (foldl_keeps State.changeSets _ (fun _ _ => by simp) _ _).trans (by simp)
@[simp] theorem State.dropEntries_lastServed (s : State) (p : Entry → Bool) :
    (s.dropEntries p).lastServed = s.lastServed := by
  unfold State.dropEntries
  exact (foldl_keeps State.lastServed _ (fun _ _ => by simp) _ _).trans (by simp)
@[simp] theorem State.dropEntries_chosen (s : State) (p : Entry → Bool) :
    (s.dropEntries p).chosen = s.chosen := by
  unfold State.dropEntries
  exact (foldl_keeps State.chosen _ (fun _ _ => by simp) _ _).trans (by simp)
@[simp] theorem State.dropEntries_sessions (s : State) (p : Entry → Bool) :
    (s.dropEntries p).sessions = s.sessions := by
  unfold State.dropEntries
  exact (foldl_keeps State.sessions _ (fun _ _ => by simp) _ _).trans (by simp)
@[simp] theorem State.dropEntries_inputs (s : State) (p : Entry → Bool) :
    (s.dropEntries p).inputs = s.inputs := by
  unfold State.dropEntries
  exact (foldl_keeps State.inputs _ (fun _ _ => by simp) _ _).trans (by simp)
@[simp] theorem State.dropEntries_nextSerial (s : State) (p : Entry → Bool) :
    (s.dropEntries p).nextSerial = s.nextSerial := by
  unfold State.dropEntries
  exact (foldl_keeps State.nextSerial _ (fun _ _ => by simp) _ _).trans (by simp)
@[simp] theorem State.dropEntries_ring (s : State) (p : Entry → Bool) :
    (s.dropEntries p).ring = s.ring := by
  unfold State.dropEntries
  exact (foldl_keeps State.ring _ (fun _ _ => by simp) _ _).trans (by simp)
@[simp] theorem State.dropEntries_ports (s : State) (p : Entry → Bool) :
    (s.dropEntries p).ports = s.ports := by
  unfold State.dropEntries
  exact (foldl_keeps State.ports _ (fun _ _ => by simp) _ _).trans (by simp)
@[simp] theorem State.dropEntries_device (s : State) (p : Entry → Bool) :
    (s.dropEntries p).device = s.device := by
  unfold State.dropEntries
  exact (foldl_keeps State.device _ (fun _ _ => by simp) _ _).trans (by simp)
@[simp] theorem State.dropEntries_resetCause (s : State) (p : Entry → Bool) :
    (s.dropEntries p).resetCause = s.resetCause := by
  unfold State.dropEntries
  exact (foldl_keeps State.resetCause _ (fun _ _ => by simp) _ _).trans (by simp)
@[simp] theorem State.dropEntries_cfg (s : State) (p : Entry → Bool) :
    (s.dropEntries p).cfg = s.cfg := by
  unfold State.dropEntries
  exact (foldl_keeps State.cfg _ (fun _ _ => by simp) _ _).trans (by simp)
@[simp] theorem State.dropEntries_startupStore (s : State) (p : Entry → Bool) :
    (s.dropEntries p).startupStore = s.startupStore := by
  unfold State.dropEntries
  exact (foldl_keeps State.startupStore _ (fun _ _ => by simp) _ _).trans (by simp)
@[simp] theorem State.dropEntries_presentStore (s : State) (p : Entry → Bool) :
    (s.dropEntries p).presentStore = s.presentStore := by
  unfold State.dropEntries
  exact (foldl_keeps State.presentStore _ (fun _ _ => by simp) _ _).trans (by simp)
@[simp] theorem State.dropEntries_store (s : State) (p : Entry → Bool) :
    (s.dropEntries p).store = s.store := by
  unfold State.dropEntries
  exact (foldl_keeps State.store _ (fun _ _ => by simp) _ _).trans (by simp)
@[simp] theorem State.dropEntries_config (s : State) (p : Entry → Bool) :
    (s.dropEntries p).config = s.config := by
  unfold State.dropEntries
  exact (foldl_keeps State.config _ (fun _ _ => by simp) _ _).trans (by simp)
@[simp] theorem State.dropEntries_source (s : State) (p : Entry → Bool) :
    (s.dropEntries p).source = s.source := by
  unfold State.dropEntries
  exact (foldl_keeps State.source _ (fun _ _ => by simp) _ _).trans (by simp)
@[simp] theorem State.dropEntries_pending (s : State) (p : Entry → Bool) :
    (s.dropEntries p).pending = s.pending := by
  unfold State.dropEntries
  exact (foldl_keeps State.pending _ (fun _ _ => by simp) _ _).trans (by simp)

/-! ### freeRing -/

@[simp] theorem State.freeRing_timeCount (s : State) :
    (s.freeRing).timeCount = s.timeCount := by unfold State.freeRing; split <;> simp
@[simp] theorem State.freeRing_queue (s : State) :
    (s.freeRing).queue = s.queue := by unfold State.freeRing; split <;> simp
@[simp] theorem State.freeRing_banks (s : State) :
    (s.freeRing).banks = s.banks := by unfold State.freeRing; split <;> simp
@[simp] theorem State.freeRing_zones (s : State) :
    (s.freeRing).zones = s.zones := by unfold State.freeRing; split <;> simp
@[simp] theorem State.freeRing_changeSets (s : State) :
    (s.freeRing).changeSets = s.changeSets := by unfold State.freeRing; split <;> simp
@[simp] theorem State.freeRing_lastServed (s : State) :
    (s.freeRing).lastServed = s.lastServed := by unfold State.freeRing; split <;> simp
@[simp] theorem State.freeRing_chosen (s : State) :
    (s.freeRing).chosen = s.chosen := by unfold State.freeRing; split <;> simp
@[simp] theorem State.freeRing_sessions (s : State) :
    (s.freeRing).sessions = s.sessions := by unfold State.freeRing; split <;> simp
@[simp] theorem State.freeRing_attention (s : State) :
    (s.freeRing).attention = s.attention := by unfold State.freeRing; split <;> simp
@[simp] theorem State.freeRing_inputs (s : State) :
    (s.freeRing).inputs = s.inputs := by unfold State.freeRing; split <;> simp
@[simp] theorem State.freeRing_nextSerial (s : State) :
    (s.freeRing).nextSerial = s.nextSerial := by unfold State.freeRing; split <;> simp
@[simp] theorem State.freeRing_ports (s : State) :
    (s.freeRing).ports = s.ports := by unfold State.freeRing; split <;> simp
@[simp] theorem State.freeRing_device (s : State) :
    (s.freeRing).device = s.device := by unfold State.freeRing; split <;> simp
@[simp] theorem State.freeRing_resetCause (s : State) :
    (s.freeRing).resetCause = s.resetCause := by unfold State.freeRing; split <;> simp
@[simp] theorem State.freeRing_cfg (s : State) :
    (s.freeRing).cfg = s.cfg := by unfold State.freeRing; split <;> simp
@[simp] theorem State.freeRing_startupStore (s : State) :
    (s.freeRing).startupStore = s.startupStore := by unfold State.freeRing; split <;> simp
@[simp] theorem State.freeRing_presentStore (s : State) :
    (s.freeRing).presentStore = s.presentStore := by unfold State.freeRing; split <;> simp
@[simp] theorem State.freeRing_store (s : State) :
    (s.freeRing).store = s.store := by unfold State.freeRing; split <;> simp
@[simp] theorem State.freeRing_config (s : State) :
    (s.freeRing).config = s.config := by unfold State.freeRing; split <;> simp
@[simp] theorem State.freeRing_source (s : State) :
    (s.freeRing).source = s.source := by unfold State.freeRing; split <;> simp
@[simp] theorem State.freeRing_pending (s : State) :
    (s.freeRing).pending = s.pending := by unfold State.freeRing; split <;> simp

/-! ### overflowFor -/

@[simp] theorem State.overflowFor_timeCount (k : Serial) (s : State) (m : Master) :
    (State.overflowFor k s m).timeCount = s.timeCount := by unfold State.overflowFor; split <;> simp
@[simp] theorem State.overflowFor_queue (k : Serial) (s : State) (m : Master) :
    (State.overflowFor k s m).queue = s.queue := by unfold State.overflowFor; split <;> simp
@[simp] theorem State.overflowFor_banks (k : Serial) (s : State) (m : Master) :
    (State.overflowFor k s m).banks = s.banks := by unfold State.overflowFor; split <;> simp
@[simp] theorem State.overflowFor_zones (k : Serial) (s : State) (m : Master) :
    (State.overflowFor k s m).zones = s.zones := by unfold State.overflowFor; split <;> simp
@[simp] theorem State.overflowFor_changeSets (k : Serial) (s : State) (m : Master) :
    (State.overflowFor k s m).changeSets = s.changeSets := by unfold State.overflowFor; split <;> simp
@[simp] theorem State.overflowFor_lastServed (k : Serial) (s : State) (m : Master) :
    (State.overflowFor k s m).lastServed = s.lastServed := by unfold State.overflowFor; split <;> simp
@[simp] theorem State.overflowFor_chosen (k : Serial) (s : State) (m : Master) :
    (State.overflowFor k s m).chosen = s.chosen := by unfold State.overflowFor; split <;> simp
@[simp] theorem State.overflowFor_inputs (k : Serial) (s : State) (m : Master) :
    (State.overflowFor k s m).inputs = s.inputs := by unfold State.overflowFor; split <;> simp
@[simp] theorem State.overflowFor_nextSerial (k : Serial) (s : State) (m : Master) :
    (State.overflowFor k s m).nextSerial = s.nextSerial := by unfold State.overflowFor; split <;> simp
@[simp] theorem State.overflowFor_ring (k : Serial) (s : State) (m : Master) :
    (State.overflowFor k s m).ring = s.ring := by unfold State.overflowFor; split <;> simp
@[simp] theorem State.overflowFor_ports (k : Serial) (s : State) (m : Master) :
    (State.overflowFor k s m).ports = s.ports := by unfold State.overflowFor; split <;> simp
@[simp] theorem State.overflowFor_device (k : Serial) (s : State) (m : Master) :
    (State.overflowFor k s m).device = s.device := by unfold State.overflowFor; split <;> simp
@[simp] theorem State.overflowFor_resetCause (k : Serial) (s : State) (m : Master) :
    (State.overflowFor k s m).resetCause = s.resetCause := by unfold State.overflowFor; split <;> simp
@[simp] theorem State.overflowFor_cfg (k : Serial) (s : State) (m : Master) :
    (State.overflowFor k s m).cfg = s.cfg := by unfold State.overflowFor; split <;> simp
@[simp] theorem State.overflowFor_startupStore (k : Serial) (s : State) (m : Master) :
    (State.overflowFor k s m).startupStore = s.startupStore := by unfold State.overflowFor; split <;> simp
@[simp] theorem State.overflowFor_presentStore (k : Serial) (s : State) (m : Master) :
    (State.overflowFor k s m).presentStore = s.presentStore := by unfold State.overflowFor; split <;> simp
@[simp] theorem State.overflowFor_store (k : Serial) (s : State) (m : Master) :
    (State.overflowFor k s m).store = s.store := by unfold State.overflowFor; split <;> simp
@[simp] theorem State.overflowFor_config (k : Serial) (s : State) (m : Master) :
    (State.overflowFor k s m).config = s.config := by unfold State.overflowFor; split <;> simp
@[simp] theorem State.overflowFor_source (k : Serial) (s : State) (m : Master) :
    (State.overflowFor k s m).source = s.source := by unfold State.overflowFor; split <;> simp
@[simp] theorem State.overflowFor_pending (k : Serial) (s : State) (m : Master) :
    (State.overflowFor k s m).pending = s.pending := by unfold State.overflowFor; split <;> simp

/-! ### makeRoom -/

@[simp] theorem State.makeRoom_timeCount (s : State) :
    (s.makeRoom).timeCount = s.timeCount := by
  unfold State.makeRoom
  split
  · rfl
  · split
    · exact (foldl_keeps State.timeCount _ (fun _ _ => by simp) _ _).trans (by simp)
    · rfl
@[simp] theorem State.makeRoom_queue (s : State) :
    (s.makeRoom).queue = s.queue := by
  unfold State.makeRoom
  split
  · rfl
  · split
    · exact (foldl_keeps State.queue _ (fun _ _ => by simp) _ _).trans (by simp)
    · rfl
@[simp] theorem State.makeRoom_banks (s : State) :
    (s.makeRoom).banks = s.banks := by
  unfold State.makeRoom
  split
  · rfl
  · split
    · exact (foldl_keeps State.banks _ (fun _ _ => by simp) _ _).trans (by simp)
    · rfl
@[simp] theorem State.makeRoom_zones (s : State) :
    (s.makeRoom).zones = s.zones := by
  unfold State.makeRoom
  split
  · rfl
  · split
    · exact (foldl_keeps State.zones _ (fun _ _ => by simp) _ _).trans (by simp)
    · rfl
@[simp] theorem State.makeRoom_changeSets (s : State) :
    (s.makeRoom).changeSets = s.changeSets := by
  unfold State.makeRoom
  split
  · rfl
  · split
    · exact (foldl_keeps State.changeSets _ (fun _ _ => by simp) _ _).trans (by simp)
    · rfl
@[simp] theorem State.makeRoom_lastServed (s : State) :
    (s.makeRoom).lastServed = s.lastServed := by
  unfold State.makeRoom
  split
  · rfl
  · split
    · exact (foldl_keeps State.lastServed _ (fun _ _ => by simp) _ _).trans (by simp)
    · rfl
@[simp] theorem State.makeRoom_chosen (s : State) :
    (s.makeRoom).chosen = s.chosen := by
  unfold State.makeRoom
  split
  · rfl
  · split
    · exact (foldl_keeps State.chosen _ (fun _ _ => by simp) _ _).trans (by simp)
    · rfl
@[simp] theorem State.makeRoom_inputs (s : State) :
    (s.makeRoom).inputs = s.inputs := by
  unfold State.makeRoom
  split
  · rfl
  · split
    · exact (foldl_keeps State.inputs _ (fun _ _ => by simp) _ _).trans (by simp)
    · rfl
@[simp] theorem State.makeRoom_nextSerial (s : State) :
    (s.makeRoom).nextSerial = s.nextSerial := by
  unfold State.makeRoom
  split
  · rfl
  · split
    · exact (foldl_keeps State.nextSerial _ (fun _ _ => by simp) _ _).trans (by simp)
    · rfl
@[simp] theorem State.makeRoom_ports (s : State) :
    (s.makeRoom).ports = s.ports := by
  unfold State.makeRoom
  split
  · rfl
  · split
    · exact (foldl_keeps State.ports _ (fun _ _ => by simp) _ _).trans (by simp)
    · rfl
@[simp] theorem State.makeRoom_device (s : State) :
    (s.makeRoom).device = s.device := by
  unfold State.makeRoom
  split
  · rfl
  · split
    · exact (foldl_keeps State.device _ (fun _ _ => by simp) _ _).trans (by simp)
    · rfl
@[simp] theorem State.makeRoom_resetCause (s : State) :
    (s.makeRoom).resetCause = s.resetCause := by
  unfold State.makeRoom
  split
  · rfl
  · split
    · exact (foldl_keeps State.resetCause _ (fun _ _ => by simp) _ _).trans (by simp)
    · rfl
@[simp] theorem State.makeRoom_cfg (s : State) :
    (s.makeRoom).cfg = s.cfg := by
  unfold State.makeRoom
  split
  · rfl
  · split
    · exact (foldl_keeps State.cfg _ (fun _ _ => by simp) _ _).trans (by simp)
    · rfl
@[simp] theorem State.makeRoom_startupStore (s : State) :
    (s.makeRoom).startupStore = s.startupStore := by
  unfold State.makeRoom
  split
  · rfl
  · split
    · exact (foldl_keeps State.startupStore _ (fun _ _ => by simp) _ _).trans (by simp)
    · rfl
@[simp] theorem State.makeRoom_presentStore (s : State) :
    (s.makeRoom).presentStore = s.presentStore := by
  unfold State.makeRoom
  split
  · rfl
  · split
    · exact (foldl_keeps State.presentStore _ (fun _ _ => by simp) _ _).trans (by simp)
    · rfl
@[simp] theorem State.makeRoom_store (s : State) :
    (s.makeRoom).store = s.store := by
  unfold State.makeRoom
  split
  · rfl
  · split
    · exact (foldl_keeps State.store _ (fun _ _ => by simp) _ _).trans (by simp)
    · rfl
@[simp] theorem State.makeRoom_config (s : State) :
    (s.makeRoom).config = s.config := by
  unfold State.makeRoom
  split
  · rfl
  · split
    · exact (foldl_keeps State.config _ (fun _ _ => by simp) _ _).trans (by simp)
    · rfl
@[simp] theorem State.makeRoom_source (s : State) :
    (s.makeRoom).source = s.source := by
  unfold State.makeRoom
  split
  · rfl
  · split
    · exact (foldl_keeps State.source _ (fun _ _ => by simp) _ _).trans (by simp)
    · rfl
@[simp] theorem State.makeRoom_pending (s : State) :
    (s.makeRoom).pending = s.pending := by
  unfold State.makeRoom
  split
  · rfl
  · split
    · exact (foldl_keeps State.pending _ (fun _ _ => by simp) _ _).trans (by simp)
    · rfl

/-! ### availableFor -/

@[simp] theorem State.availableFor_timeCount (i : InputId) (s : State) (m : Master) :
    (State.availableFor i s m).timeCount = s.timeCount := by unfold State.availableFor; split <;> simp
@[simp] theorem State.availableFor_queue (i : InputId) (s : State) (m : Master) :
    (State.availableFor i s m).queue = s.queue := by unfold State.availableFor; split <;> simp
@[simp] theorem State.availableFor_banks (i : InputId) (s : State) (m : Master) :
    (State.availableFor i s m).banks = s.banks := by unfold State.availableFor; split <;> simp
@[simp] theorem State.availableFor_zones (i : InputId) (s : State) (m : Master) :
    (State.availableFor i s m).zones = s.zones := by unfold State.availableFor; split <;> simp
@[simp] theorem State.availableFor_changeSets (i : InputId) (s : State) (m : Master) :
    (State.availableFor i s m).changeSets = s.changeSets := by unfold State.availableFor; split <;> simp
@[simp] theorem State.availableFor_lastServed (i : InputId) (s : State) (m : Master) :
    (State.availableFor i s m).lastServed = s.lastServed := by unfold State.availableFor; split <;> simp
@[simp] theorem State.availableFor_chosen (i : InputId) (s : State) (m : Master) :
    (State.availableFor i s m).chosen = s.chosen := by unfold State.availableFor; split <;> simp
@[simp] theorem State.availableFor_sessions (i : InputId) (s : State) (m : Master) :
    (State.availableFor i s m).sessions = s.sessions := by unfold State.availableFor; split <;> simp
@[simp] theorem State.availableFor_inputs (i : InputId) (s : State) (m : Master) :
    (State.availableFor i s m).inputs = s.inputs := by unfold State.availableFor; split <;> simp
@[simp] theorem State.availableFor_nextSerial (i : InputId) (s : State) (m : Master) :
    (State.availableFor i s m).nextSerial = s.nextSerial := by unfold State.availableFor; split <;> simp
@[simp] theorem State.availableFor_ring (i : InputId) (s : State) (m : Master) :
    (State.availableFor i s m).ring = s.ring := by unfold State.availableFor; split <;> simp
@[simp] theorem State.availableFor_ports (i : InputId) (s : State) (m : Master) :
    (State.availableFor i s m).ports = s.ports := by unfold State.availableFor; split <;> simp
@[simp] theorem State.availableFor_device (i : InputId) (s : State) (m : Master) :
    (State.availableFor i s m).device = s.device := by unfold State.availableFor; split <;> simp
@[simp] theorem State.availableFor_resetCause (i : InputId) (s : State) (m : Master) :
    (State.availableFor i s m).resetCause = s.resetCause := by unfold State.availableFor; split <;> simp
@[simp] theorem State.availableFor_cfg (i : InputId) (s : State) (m : Master) :
    (State.availableFor i s m).cfg = s.cfg := by unfold State.availableFor; split <;> simp
@[simp] theorem State.availableFor_startupStore (i : InputId) (s : State) (m : Master) :
    (State.availableFor i s m).startupStore = s.startupStore := by unfold State.availableFor; split <;> simp
@[simp] theorem State.availableFor_presentStore (i : InputId) (s : State) (m : Master) :
    (State.availableFor i s m).presentStore = s.presentStore := by unfold State.availableFor; split <;> simp
@[simp] theorem State.availableFor_store (i : InputId) (s : State) (m : Master) :
    (State.availableFor i s m).store = s.store := by unfold State.availableFor; split <;> simp
@[simp] theorem State.availableFor_config (i : InputId) (s : State) (m : Master) :
    (State.availableFor i s m).config = s.config := by unfold State.availableFor; split <;> simp
@[simp] theorem State.availableFor_source (i : InputId) (s : State) (m : Master) :
    (State.availableFor i s m).source = s.source := by unfold State.availableFor; split <;> simp
@[simp] theorem State.availableFor_pending (i : InputId) (s : State) (m : Master) :
    (State.availableFor i s m).pending = s.pending := by unfold State.availableFor; split <;> simp

/-! ### appendCapture -/

@[simp] theorem State.appendCapture_timeCount (s : State) (i : InputId) (l : Level) :
    (s.appendCapture i l).timeCount = s.timeCount := by
  unfold State.appendCapture
  exact (foldl_keeps State.timeCount _ (fun _ _ => by simp) _ _).trans (by simp)
@[simp] theorem State.appendCapture_queue (s : State) (i : InputId) (l : Level) :
    (s.appendCapture i l).queue = s.queue := by
  unfold State.appendCapture
  exact (foldl_keeps State.queue _ (fun _ _ => by simp) _ _).trans (by simp)
@[simp] theorem State.appendCapture_banks (s : State) (i : InputId) (l : Level) :
    (s.appendCapture i l).banks = s.banks := by
  unfold State.appendCapture
  exact (foldl_keeps State.banks _ (fun _ _ => by simp) _ _).trans (by simp)
@[simp] theorem State.appendCapture_zones (s : State) (i : InputId) (l : Level) :
    (s.appendCapture i l).zones = s.zones := by
  unfold State.appendCapture
  exact (foldl_keeps State.zones _ (fun _ _ => by simp) _ _).trans (by simp)
@[simp] theorem State.appendCapture_changeSets (s : State) (i : InputId) (l : Level) :
    (s.appendCapture i l).changeSets = s.changeSets := by
  unfold State.appendCapture
  exact (foldl_keeps State.changeSets _ (fun _ _ => by simp) _ _).trans (by simp)
@[simp] theorem State.appendCapture_lastServed (s : State) (i : InputId) (l : Level) :
    (s.appendCapture i l).lastServed = s.lastServed := by
  unfold State.appendCapture
  exact (foldl_keeps State.lastServed _ (fun _ _ => by simp) _ _).trans (by simp)
@[simp] theorem State.appendCapture_chosen (s : State) (i : InputId) (l : Level) :
    (s.appendCapture i l).chosen = s.chosen := by
  unfold State.appendCapture
  exact (foldl_keeps State.chosen _ (fun _ _ => by simp) _ _).trans (by simp)
@[simp] theorem State.appendCapture_inputs (s : State) (i : InputId) (l : Level) :
    (s.appendCapture i l).inputs = s.inputs := by
  unfold State.appendCapture
  exact (foldl_keeps State.inputs _ (fun _ _ => by simp) _ _).trans (by simp)
@[simp] theorem State.appendCapture_ports (s : State) (i : InputId) (l : Level) :
    (s.appendCapture i l).ports = s.ports := by
  unfold State.appendCapture
  exact (foldl_keeps State.ports _ (fun _ _ => by simp) _ _).trans (by simp)
@[simp] theorem State.appendCapture_device (s : State) (i : InputId) (l : Level) :
    (s.appendCapture i l).device = s.device := by
  unfold State.appendCapture
  exact (foldl_keeps State.device _ (fun _ _ => by simp) _ _).trans (by simp)
@[simp] theorem State.appendCapture_resetCause (s : State) (i : InputId) (l : Level) :
    (s.appendCapture i l).resetCause = s.resetCause := by
  unfold State.appendCapture
  exact (foldl_keeps State.resetCause _ (fun _ _ => by simp) _ _).trans (by simp)
@[simp] theorem State.appendCapture_cfg (s : State) (i : InputId) (l : Level) :
    (s.appendCapture i l).cfg = s.cfg := by
  unfold State.appendCapture
  exact (foldl_keeps State.cfg _ (fun _ _ => by simp) _ _).trans (by simp)
@[simp] theorem State.appendCapture_startupStore (s : State) (i : InputId) (l : Level) :
    (s.appendCapture i l).startupStore = s.startupStore := by
  unfold State.appendCapture
  exact (foldl_keeps State.startupStore _ (fun _ _ => by simp) _ _).trans (by simp)
@[simp] theorem State.appendCapture_presentStore (s : State) (i : InputId) (l : Level) :
    (s.appendCapture i l).presentStore = s.presentStore := by
  unfold State.appendCapture
  exact (foldl_keeps State.presentStore _ (fun _ _ => by simp) _ _).trans (by simp)
@[simp] theorem State.appendCapture_store (s : State) (i : InputId) (l : Level) :
    (s.appendCapture i l).store = s.store := by
  unfold State.appendCapture
  exact (foldl_keeps State.store _ (fun _ _ => by simp) _ _).trans (by simp)
@[simp] theorem State.appendCapture_config (s : State) (i : InputId) (l : Level) :
    (s.appendCapture i l).config = s.config := by
  unfold State.appendCapture
  exact (foldl_keeps State.config _ (fun _ _ => by simp) _ _).trans (by simp)
@[simp] theorem State.appendCapture_source (s : State) (i : InputId) (l : Level) :
    (s.appendCapture i l).source = s.source := by
  unfold State.appendCapture
  exact (foldl_keeps State.source _ (fun _ _ => by simp) _ _).trans (by simp)
@[simp] theorem State.appendCapture_pending (s : State) (i : InputId) (l : Level) :
    (s.appendCapture i l).pending = s.pending := by
  unfold State.appendCapture
  exact (foldl_keeps State.pending _ (fun _ _ => by simp) _ _).trans (by simp)

/-! ### dropCandidacy -/

@[simp] theorem State.dropCandidacy_timeCount (s : State) (z : ZoneId) (c : Candidate) :
    (s.dropCandidacy z c).timeCount = s.timeCount := by simp [State.dropCandidacy]
@[simp] theorem State.dropCandidacy_queue (s : State) (z : ZoneId) (c : Candidate) :
    (s.dropCandidacy z c).queue = s.queue := by simp [State.dropCandidacy]
@[simp] theorem State.dropCandidacy_banks (s : State) (z : ZoneId) (c : Candidate) :
    (s.dropCandidacy z c).banks = s.banks := by simp [State.dropCandidacy]
@[simp] theorem State.dropCandidacy_lastServed (s : State) (z : ZoneId) (c : Candidate) :
    (s.dropCandidacy z c).lastServed = s.lastServed := by simp [State.dropCandidacy]
@[simp] theorem State.dropCandidacy_chosen (s : State) (z : ZoneId) (c : Candidate) :
    (s.dropCandidacy z c).chosen = s.chosen := by simp [State.dropCandidacy]
@[simp] theorem State.dropCandidacy_inputs (s : State) (z : ZoneId) (c : Candidate) :
    (s.dropCandidacy z c).inputs = s.inputs := by simp [State.dropCandidacy]
@[simp] theorem State.dropCandidacy_nextSerial (s : State) (z : ZoneId) (c : Candidate) :
    (s.dropCandidacy z c).nextSerial = s.nextSerial := by simp [State.dropCandidacy]
@[simp] theorem State.dropCandidacy_ring (s : State) (z : ZoneId) (c : Candidate) :
    (s.dropCandidacy z c).ring = s.ring := by simp [State.dropCandidacy]
@[simp] theorem State.dropCandidacy_ports (s : State) (z : ZoneId) (c : Candidate) :
    (s.dropCandidacy z c).ports = s.ports := by simp [State.dropCandidacy]
@[simp] theorem State.dropCandidacy_device (s : State) (z : ZoneId) (c : Candidate) :
    (s.dropCandidacy z c).device = s.device := by simp [State.dropCandidacy]
@[simp] theorem State.dropCandidacy_resetCause (s : State) (z : ZoneId) (c : Candidate) :
    (s.dropCandidacy z c).resetCause = s.resetCause := by simp [State.dropCandidacy]
@[simp] theorem State.dropCandidacy_cfg (s : State) (z : ZoneId) (c : Candidate) :
    (s.dropCandidacy z c).cfg = s.cfg := by simp [State.dropCandidacy]
@[simp] theorem State.dropCandidacy_startupStore (s : State) (z : ZoneId) (c : Candidate) :
    (s.dropCandidacy z c).startupStore = s.startupStore := by simp [State.dropCandidacy]
@[simp] theorem State.dropCandidacy_presentStore (s : State) (z : ZoneId) (c : Candidate) :
    (s.dropCandidacy z c).presentStore = s.presentStore := by simp [State.dropCandidacy]
@[simp] theorem State.dropCandidacy_store (s : State) (z : ZoneId) (c : Candidate) :
    (s.dropCandidacy z c).store = s.store := by simp [State.dropCandidacy]
@[simp] theorem State.dropCandidacy_config (s : State) (z : ZoneId) (c : Candidate) :
    (s.dropCandidacy z c).config = s.config := by simp [State.dropCandidacy]
@[simp] theorem State.dropCandidacy_source (s : State) (z : ZoneId) (c : Candidate) :
    (s.dropCandidacy z c).source = s.source := by simp [State.dropCandidacy]
@[simp] theorem State.dropCandidacy_pending (s : State) (z : ZoneId) (c : Candidate) :
    (s.dropCandidacy z c).pending = s.pending := by simp [State.dropCandidacy]

/-! ### dropRequest -/

@[simp] theorem State.dropRequest_timeCount (s : State) (z : ZoneId) (h r : Master) :
    (s.dropRequest z h r).timeCount = s.timeCount := by simp [State.dropRequest]
@[simp] theorem State.dropRequest_queue (s : State) (z : ZoneId) (h r : Master) :
    (s.dropRequest z h r).queue = s.queue := by simp [State.dropRequest]
@[simp] theorem State.dropRequest_banks (s : State) (z : ZoneId) (h r : Master) :
    (s.dropRequest z h r).banks = s.banks := by simp [State.dropRequest]
@[simp] theorem State.dropRequest_lastServed (s : State) (z : ZoneId) (h r : Master) :
    (s.dropRequest z h r).lastServed = s.lastServed := by simp [State.dropRequest]
@[simp] theorem State.dropRequest_chosen (s : State) (z : ZoneId) (h r : Master) :
    (s.dropRequest z h r).chosen = s.chosen := by simp [State.dropRequest]
@[simp] theorem State.dropRequest_inputs (s : State) (z : ZoneId) (h r : Master) :
    (s.dropRequest z h r).inputs = s.inputs := by simp [State.dropRequest]
@[simp] theorem State.dropRequest_nextSerial (s : State) (z : ZoneId) (h r : Master) :
    (s.dropRequest z h r).nextSerial = s.nextSerial := by simp [State.dropRequest]
@[simp] theorem State.dropRequest_ring (s : State) (z : ZoneId) (h r : Master) :
    (s.dropRequest z h r).ring = s.ring := by simp [State.dropRequest]
@[simp] theorem State.dropRequest_ports (s : State) (z : ZoneId) (h r : Master) :
    (s.dropRequest z h r).ports = s.ports := by simp [State.dropRequest]
@[simp] theorem State.dropRequest_device (s : State) (z : ZoneId) (h r : Master) :
    (s.dropRequest z h r).device = s.device := by simp [State.dropRequest]
@[simp] theorem State.dropRequest_resetCause (s : State) (z : ZoneId) (h r : Master) :
    (s.dropRequest z h r).resetCause = s.resetCause := by simp [State.dropRequest]
@[simp] theorem State.dropRequest_cfg (s : State) (z : ZoneId) (h r : Master) :
    (s.dropRequest z h r).cfg = s.cfg := by simp [State.dropRequest]
@[simp] theorem State.dropRequest_startupStore (s : State) (z : ZoneId) (h r : Master) :
    (s.dropRequest z h r).startupStore = s.startupStore := by simp [State.dropRequest]
@[simp] theorem State.dropRequest_presentStore (s : State) (z : ZoneId) (h r : Master) :
    (s.dropRequest z h r).presentStore = s.presentStore := by simp [State.dropRequest]
@[simp] theorem State.dropRequest_store (s : State) (z : ZoneId) (h r : Master) :
    (s.dropRequest z h r).store = s.store := by simp [State.dropRequest]
@[simp] theorem State.dropRequest_config (s : State) (z : ZoneId) (h r : Master) :
    (s.dropRequest z h r).config = s.config := by simp [State.dropRequest]
@[simp] theorem State.dropRequest_source (s : State) (z : ZoneId) (h r : Master) :
    (s.dropRequest z h r).source = s.source := by simp [State.dropRequest]
@[simp] theorem State.dropRequest_pending (s : State) (z : ZoneId) (h r : Master) :
    (s.dropRequest z h r).pending = s.pending := by simp [State.dropRequest]

/-! ### loseEligibilityAt -/

@[simp] theorem State.loseEligibilityAt_timeCount (m : Master) (s : State) (z : ZoneId) :
    (State.loseEligibilityAt m s z).timeCount = s.timeCount := by unfold State.loseEligibilityAt; (repeat' split) <;> simp
@[simp] theorem State.loseEligibilityAt_queue (m : Master) (s : State) (z : ZoneId) :
    (State.loseEligibilityAt m s z).queue = s.queue := by unfold State.loseEligibilityAt; (repeat' split) <;> simp
@[simp] theorem State.loseEligibilityAt_banks (m : Master) (s : State) (z : ZoneId) :
    (State.loseEligibilityAt m s z).banks = s.banks := by unfold State.loseEligibilityAt; (repeat' split) <;> simp
@[simp] theorem State.loseEligibilityAt_lastServed (m : Master) (s : State) (z : ZoneId) :
    (State.loseEligibilityAt m s z).lastServed = s.lastServed := by unfold State.loseEligibilityAt; (repeat' split) <;> simp
@[simp] theorem State.loseEligibilityAt_chosen (m : Master) (s : State) (z : ZoneId) :
    (State.loseEligibilityAt m s z).chosen = s.chosen := by unfold State.loseEligibilityAt; (repeat' split) <;> simp
@[simp] theorem State.loseEligibilityAt_inputs (m : Master) (s : State) (z : ZoneId) :
    (State.loseEligibilityAt m s z).inputs = s.inputs := by unfold State.loseEligibilityAt; (repeat' split) <;> simp
@[simp] theorem State.loseEligibilityAt_nextSerial (m : Master) (s : State) (z : ZoneId) :
    (State.loseEligibilityAt m s z).nextSerial = s.nextSerial := by unfold State.loseEligibilityAt; (repeat' split) <;> simp
@[simp] theorem State.loseEligibilityAt_ring (m : Master) (s : State) (z : ZoneId) :
    (State.loseEligibilityAt m s z).ring = s.ring := by unfold State.loseEligibilityAt; (repeat' split) <;> simp
@[simp] theorem State.loseEligibilityAt_ports (m : Master) (s : State) (z : ZoneId) :
    (State.loseEligibilityAt m s z).ports = s.ports := by unfold State.loseEligibilityAt; (repeat' split) <;> simp
@[simp] theorem State.loseEligibilityAt_device (m : Master) (s : State) (z : ZoneId) :
    (State.loseEligibilityAt m s z).device = s.device := by unfold State.loseEligibilityAt; (repeat' split) <;> simp
@[simp] theorem State.loseEligibilityAt_resetCause (m : Master) (s : State) (z : ZoneId) :
    (State.loseEligibilityAt m s z).resetCause = s.resetCause := by unfold State.loseEligibilityAt; (repeat' split) <;> simp
@[simp] theorem State.loseEligibilityAt_cfg (m : Master) (s : State) (z : ZoneId) :
    (State.loseEligibilityAt m s z).cfg = s.cfg := by unfold State.loseEligibilityAt; (repeat' split) <;> simp
@[simp] theorem State.loseEligibilityAt_startupStore (m : Master) (s : State) (z : ZoneId) :
    (State.loseEligibilityAt m s z).startupStore = s.startupStore := by unfold State.loseEligibilityAt; (repeat' split) <;> simp
@[simp] theorem State.loseEligibilityAt_presentStore (m : Master) (s : State) (z : ZoneId) :
    (State.loseEligibilityAt m s z).presentStore = s.presentStore := by unfold State.loseEligibilityAt; (repeat' split) <;> simp
@[simp] theorem State.loseEligibilityAt_store (m : Master) (s : State) (z : ZoneId) :
    (State.loseEligibilityAt m s z).store = s.store := by unfold State.loseEligibilityAt; (repeat' split) <;> simp
@[simp] theorem State.loseEligibilityAt_config (m : Master) (s : State) (z : ZoneId) :
    (State.loseEligibilityAt m s z).config = s.config := by unfold State.loseEligibilityAt; (repeat' split) <;> simp
@[simp] theorem State.loseEligibilityAt_source (m : Master) (s : State) (z : ZoneId) :
    (State.loseEligibilityAt m s z).source = s.source := by unfold State.loseEligibilityAt; (repeat' split) <;> simp
@[simp] theorem State.loseEligibilityAt_pending (m : Master) (s : State) (z : ZoneId) :
    (State.loseEligibilityAt m s z).pending = s.pending := by unfold State.loseEligibilityAt; (repeat' split) <;> simp

/-! ### recordStrike -/

@[simp] theorem State.recordStrike_timeCount (s : State) (m : Master) :
    (s.recordStrike m).timeCount = s.timeCount := by
  unfold State.recordStrike
  exact (foldl_keeps State.timeCount _ (fun _ _ => by simp) _ _).trans (by simp)
@[simp] theorem State.recordStrike_queue (s : State) (m : Master) :
    (s.recordStrike m).queue = s.queue := by
  unfold State.recordStrike
  exact (foldl_keeps State.queue _ (fun _ _ => by simp) _ _).trans (by simp)
@[simp] theorem State.recordStrike_banks (s : State) (m : Master) :
    (s.recordStrike m).banks = s.banks := by
  unfold State.recordStrike
  exact (foldl_keeps State.banks _ (fun _ _ => by simp) _ _).trans (by simp)
@[simp] theorem State.recordStrike_lastServed (s : State) (m : Master) :
    (s.recordStrike m).lastServed = s.lastServed := by
  unfold State.recordStrike
  exact (foldl_keeps State.lastServed _ (fun _ _ => by simp) _ _).trans (by simp)
@[simp] theorem State.recordStrike_chosen (s : State) (m : Master) :
    (s.recordStrike m).chosen = s.chosen := by
  unfold State.recordStrike
  exact (foldl_keeps State.chosen _ (fun _ _ => by simp) _ _).trans (by simp)
@[simp] theorem State.recordStrike_inputs (s : State) (m : Master) :
    (s.recordStrike m).inputs = s.inputs := by
  unfold State.recordStrike
  exact (foldl_keeps State.inputs _ (fun _ _ => by simp) _ _).trans (by simp)
@[simp] theorem State.recordStrike_nextSerial (s : State) (m : Master) :
    (s.recordStrike m).nextSerial = s.nextSerial := by
  unfold State.recordStrike
  exact (foldl_keeps State.nextSerial _ (fun _ _ => by simp) _ _).trans (by simp)
@[simp] theorem State.recordStrike_ring (s : State) (m : Master) :
    (s.recordStrike m).ring = s.ring := by
  unfold State.recordStrike
  exact (foldl_keeps State.ring _ (fun _ _ => by simp) _ _).trans (by simp)
@[simp] theorem State.recordStrike_ports (s : State) (m : Master) :
    (s.recordStrike m).ports = s.ports := by
  unfold State.recordStrike
  exact (foldl_keeps State.ports _ (fun _ _ => by simp) _ _).trans (by simp)
@[simp] theorem State.recordStrike_device (s : State) (m : Master) :
    (s.recordStrike m).device = s.device := by
  unfold State.recordStrike
  exact (foldl_keeps State.device _ (fun _ _ => by simp) _ _).trans (by simp)
@[simp] theorem State.recordStrike_resetCause (s : State) (m : Master) :
    (s.recordStrike m).resetCause = s.resetCause := by
  unfold State.recordStrike
  exact (foldl_keeps State.resetCause _ (fun _ _ => by simp) _ _).trans (by simp)
@[simp] theorem State.recordStrike_cfg (s : State) (m : Master) :
    (s.recordStrike m).cfg = s.cfg := by
  unfold State.recordStrike
  exact (foldl_keeps State.cfg _ (fun _ _ => by simp) _ _).trans (by simp)
@[simp] theorem State.recordStrike_startupStore (s : State) (m : Master) :
    (s.recordStrike m).startupStore = s.startupStore := by
  unfold State.recordStrike
  exact (foldl_keeps State.startupStore _ (fun _ _ => by simp) _ _).trans (by simp)
@[simp] theorem State.recordStrike_presentStore (s : State) (m : Master) :
    (s.recordStrike m).presentStore = s.presentStore := by
  unfold State.recordStrike
  exact (foldl_keeps State.presentStore _ (fun _ _ => by simp) _ _).trans (by simp)
@[simp] theorem State.recordStrike_store (s : State) (m : Master) :
    (s.recordStrike m).store = s.store := by
  unfold State.recordStrike
  exact (foldl_keeps State.store _ (fun _ _ => by simp) _ _).trans (by simp)
@[simp] theorem State.recordStrike_config (s : State) (m : Master) :
    (s.recordStrike m).config = s.config := by
  unfold State.recordStrike
  exact (foldl_keeps State.config _ (fun _ _ => by simp) _ _).trans (by simp)
@[simp] theorem State.recordStrike_source (s : State) (m : Master) :
    (s.recordStrike m).source = s.source := by
  unfold State.recordStrike
  exact (foldl_keeps State.source _ (fun _ _ => by simp) _ _).trans (by simp)
@[simp] theorem State.recordStrike_pending (s : State) (m : Master) :
    (s.recordStrike m).pending = s.pending := by
  unfold State.recordStrike
  exact (foldl_keeps State.pending _ (fun _ _ => by simp) _ _).trans (by simp)

/-! ### wakeIfParked -/

@[simp] theorem State.wakeIfParked_timeCount (s : State) (m : Master) :
    (s.wakeIfParked m).timeCount = s.timeCount := by unfold State.wakeIfParked; split <;> simp
@[simp] theorem State.wakeIfParked_queue (s : State) (m : Master) :
    (s.wakeIfParked m).queue = s.queue := by unfold State.wakeIfParked; split <;> simp
@[simp] theorem State.wakeIfParked_banks (s : State) (m : Master) :
    (s.wakeIfParked m).banks = s.banks := by unfold State.wakeIfParked; split <;> simp
@[simp] theorem State.wakeIfParked_zones (s : State) (m : Master) :
    (s.wakeIfParked m).zones = s.zones := by unfold State.wakeIfParked; split <;> simp
@[simp] theorem State.wakeIfParked_changeSets (s : State) (m : Master) :
    (s.wakeIfParked m).changeSets = s.changeSets := by unfold State.wakeIfParked; split <;> simp
@[simp] theorem State.wakeIfParked_lastServed (s : State) (m : Master) :
    (s.wakeIfParked m).lastServed = s.lastServed := by unfold State.wakeIfParked; split <;> simp
@[simp] theorem State.wakeIfParked_chosen (s : State) (m : Master) :
    (s.wakeIfParked m).chosen = s.chosen := by unfold State.wakeIfParked; split <;> simp
@[simp] theorem State.wakeIfParked_sessions (s : State) (m : Master) :
    (s.wakeIfParked m).sessions = s.sessions := by unfold State.wakeIfParked; split <;> simp
@[simp] theorem State.wakeIfParked_inputs (s : State) (m : Master) :
    (s.wakeIfParked m).inputs = s.inputs := by unfold State.wakeIfParked; split <;> simp
@[simp] theorem State.wakeIfParked_nextSerial (s : State) (m : Master) :
    (s.wakeIfParked m).nextSerial = s.nextSerial := by unfold State.wakeIfParked; split <;> simp
@[simp] theorem State.wakeIfParked_ring (s : State) (m : Master) :
    (s.wakeIfParked m).ring = s.ring := by unfold State.wakeIfParked; split <;> simp
@[simp] theorem State.wakeIfParked_ports (s : State) (m : Master) :
    (s.wakeIfParked m).ports = s.ports := by unfold State.wakeIfParked; split <;> simp
@[simp] theorem State.wakeIfParked_device (s : State) (m : Master) :
    (s.wakeIfParked m).device = s.device := by unfold State.wakeIfParked; split <;> simp
@[simp] theorem State.wakeIfParked_resetCause (s : State) (m : Master) :
    (s.wakeIfParked m).resetCause = s.resetCause := by unfold State.wakeIfParked; split <;> simp
@[simp] theorem State.wakeIfParked_cfg (s : State) (m : Master) :
    (s.wakeIfParked m).cfg = s.cfg := by unfold State.wakeIfParked; split <;> simp
@[simp] theorem State.wakeIfParked_startupStore (s : State) (m : Master) :
    (s.wakeIfParked m).startupStore = s.startupStore := by unfold State.wakeIfParked; split <;> simp
@[simp] theorem State.wakeIfParked_presentStore (s : State) (m : Master) :
    (s.wakeIfParked m).presentStore = s.presentStore := by unfold State.wakeIfParked; split <;> simp
@[simp] theorem State.wakeIfParked_store (s : State) (m : Master) :
    (s.wakeIfParked m).store = s.store := by unfold State.wakeIfParked; split <;> simp
@[simp] theorem State.wakeIfParked_config (s : State) (m : Master) :
    (s.wakeIfParked m).config = s.config := by unfold State.wakeIfParked; split <;> simp
@[simp] theorem State.wakeIfParked_source (s : State) (m : Master) :
    (s.wakeIfParked m).source = s.source := by unfold State.wakeIfParked; split <;> simp
@[simp] theorem State.wakeIfParked_pending (s : State) (m : Master) :
    (s.wakeIfParked m).pending = s.pending := by unfold State.wakeIfParked; split <;> simp

/-! ### lose -/

@[simp] theorem State.lose_timeCount (s : State) (z : ZoneId) (h : Master) (r : Option Pending) :
    (s.lose z h r).timeCount = s.timeCount := by
  unfold State.lose
  refine (foldl_keeps State.timeCount _ (fun _ _ => by simp) _ _).trans ?_
  cases r <;> simp
@[simp] theorem State.lose_banks (s : State) (z : ZoneId) (h : Master) (r : Option Pending) :
    (s.lose z h r).banks = s.banks := by
  unfold State.lose
  refine (foldl_keeps State.banks _ (fun _ _ => by simp) _ _).trans ?_
  cases r <;> simp
@[simp] theorem State.lose_lastServed (s : State) (z : ZoneId) (h : Master) (r : Option Pending) :
    (s.lose z h r).lastServed = s.lastServed := by
  unfold State.lose
  refine (foldl_keeps State.lastServed _ (fun _ _ => by simp) _ _).trans ?_
  cases r <;> simp
@[simp] theorem State.lose_chosen (s : State) (z : ZoneId) (h : Master) (r : Option Pending) :
    (s.lose z h r).chosen = s.chosen := by
  unfold State.lose
  refine (foldl_keeps State.chosen _ (fun _ _ => by simp) _ _).trans ?_
  cases r <;> simp
@[simp] theorem State.lose_inputs (s : State) (z : ZoneId) (h : Master) (r : Option Pending) :
    (s.lose z h r).inputs = s.inputs := by
  unfold State.lose
  refine (foldl_keeps State.inputs _ (fun _ _ => by simp) _ _).trans ?_
  cases r <;> simp
@[simp] theorem State.lose_nextSerial (s : State) (z : ZoneId) (h : Master) (r : Option Pending) :
    (s.lose z h r).nextSerial = s.nextSerial := by
  unfold State.lose
  refine (foldl_keeps State.nextSerial _ (fun _ _ => by simp) _ _).trans ?_
  cases r <;> simp
@[simp] theorem State.lose_ring (s : State) (z : ZoneId) (h : Master) (r : Option Pending) :
    (s.lose z h r).ring = s.ring := by
  unfold State.lose
  refine (foldl_keeps State.ring _ (fun _ _ => by simp) _ _).trans ?_
  cases r <;> simp
@[simp] theorem State.lose_ports (s : State) (z : ZoneId) (h : Master) (r : Option Pending) :
    (s.lose z h r).ports = s.ports := by
  unfold State.lose
  refine (foldl_keeps State.ports _ (fun _ _ => by simp) _ _).trans ?_
  cases r <;> simp
@[simp] theorem State.lose_device (s : State) (z : ZoneId) (h : Master) (r : Option Pending) :
    (s.lose z h r).device = s.device := by
  unfold State.lose
  refine (foldl_keeps State.device _ (fun _ _ => by simp) _ _).trans ?_
  cases r <;> simp
@[simp] theorem State.lose_resetCause (s : State) (z : ZoneId) (h : Master) (r : Option Pending) :
    (s.lose z h r).resetCause = s.resetCause := by
  unfold State.lose
  refine (foldl_keeps State.resetCause _ (fun _ _ => by simp) _ _).trans ?_
  cases r <;> simp
@[simp] theorem State.lose_cfg (s : State) (z : ZoneId) (h : Master) (r : Option Pending) :
    (s.lose z h r).cfg = s.cfg := by
  unfold State.lose
  refine (foldl_keeps State.cfg _ (fun _ _ => by simp) _ _).trans ?_
  cases r <;> simp
@[simp] theorem State.lose_startupStore (s : State) (z : ZoneId) (h : Master) (r : Option Pending) :
    (s.lose z h r).startupStore = s.startupStore := by
  unfold State.lose
  refine (foldl_keeps State.startupStore _ (fun _ _ => by simp) _ _).trans ?_
  cases r <;> simp
@[simp] theorem State.lose_presentStore (s : State) (z : ZoneId) (h : Master) (r : Option Pending) :
    (s.lose z h r).presentStore = s.presentStore := by
  unfold State.lose
  refine (foldl_keeps State.presentStore _ (fun _ _ => by simp) _ _).trans ?_
  cases r <;> simp
@[simp] theorem State.lose_store (s : State) (z : ZoneId) (h : Master) (r : Option Pending) :
    (s.lose z h r).store = s.store := by
  unfold State.lose
  refine (foldl_keeps State.store _ (fun _ _ => by simp) _ _).trans ?_
  cases r <;> simp
@[simp] theorem State.lose_config (s : State) (z : ZoneId) (h : Master) (r : Option Pending) :
    (s.lose z h r).config = s.config := by
  unfold State.lose
  refine (foldl_keeps State.config _ (fun _ _ => by simp) _ _).trans ?_
  cases r <;> simp
@[simp] theorem State.lose_source (s : State) (z : ZoneId) (h : Master) (r : Option Pending) :
    (s.lose z h r).source = s.source := by
  unfold State.lose
  refine (foldl_keeps State.source _ (fun _ _ => by simp) _ _).trans ?_
  cases r <;> simp
@[simp] theorem State.lose_pending (s : State) (z : ZoneId) (h : Master) (r : Option Pending) :
    (s.lose z h r).pending = s.pending := by
  unfold State.lose
  refine (foldl_keeps State.pending _ (fun _ _ => by simp) _ _).trans ?_
  cases r <;> simp

/-! ### endSessionAt -/

@[simp] theorem State.endSessionAt_timeCount (m : Master) (s : State) (z : ZoneId) :
    (State.endSessionAt m s z).timeCount = s.timeCount := by unfold State.endSessionAt; (repeat' split) <;> simp
@[simp] theorem State.endSessionAt_banks (m : Master) (s : State) (z : ZoneId) :
    (State.endSessionAt m s z).banks = s.banks := by unfold State.endSessionAt; (repeat' split) <;> simp
@[simp] theorem State.endSessionAt_lastServed (m : Master) (s : State) (z : ZoneId) :
    (State.endSessionAt m s z).lastServed = s.lastServed := by unfold State.endSessionAt; (repeat' split) <;> simp
@[simp] theorem State.endSessionAt_chosen (m : Master) (s : State) (z : ZoneId) :
    (State.endSessionAt m s z).chosen = s.chosen := by unfold State.endSessionAt; (repeat' split) <;> simp
@[simp] theorem State.endSessionAt_inputs (m : Master) (s : State) (z : ZoneId) :
    (State.endSessionAt m s z).inputs = s.inputs := by unfold State.endSessionAt; (repeat' split) <;> simp
@[simp] theorem State.endSessionAt_nextSerial (m : Master) (s : State) (z : ZoneId) :
    (State.endSessionAt m s z).nextSerial = s.nextSerial := by unfold State.endSessionAt; (repeat' split) <;> simp
@[simp] theorem State.endSessionAt_ring (m : Master) (s : State) (z : ZoneId) :
    (State.endSessionAt m s z).ring = s.ring := by unfold State.endSessionAt; (repeat' split) <;> simp
@[simp] theorem State.endSessionAt_ports (m : Master) (s : State) (z : ZoneId) :
    (State.endSessionAt m s z).ports = s.ports := by unfold State.endSessionAt; (repeat' split) <;> simp
@[simp] theorem State.endSessionAt_device (m : Master) (s : State) (z : ZoneId) :
    (State.endSessionAt m s z).device = s.device := by unfold State.endSessionAt; (repeat' split) <;> simp
@[simp] theorem State.endSessionAt_resetCause (m : Master) (s : State) (z : ZoneId) :
    (State.endSessionAt m s z).resetCause = s.resetCause := by unfold State.endSessionAt; (repeat' split) <;> simp
@[simp] theorem State.endSessionAt_cfg (m : Master) (s : State) (z : ZoneId) :
    (State.endSessionAt m s z).cfg = s.cfg := by unfold State.endSessionAt; (repeat' split) <;> simp
@[simp] theorem State.endSessionAt_startupStore (m : Master) (s : State) (z : ZoneId) :
    (State.endSessionAt m s z).startupStore = s.startupStore := by unfold State.endSessionAt; (repeat' split) <;> simp
@[simp] theorem State.endSessionAt_presentStore (m : Master) (s : State) (z : ZoneId) :
    (State.endSessionAt m s z).presentStore = s.presentStore := by unfold State.endSessionAt; (repeat' split) <;> simp
@[simp] theorem State.endSessionAt_store (m : Master) (s : State) (z : ZoneId) :
    (State.endSessionAt m s z).store = s.store := by unfold State.endSessionAt; (repeat' split) <;> simp
@[simp] theorem State.endSessionAt_config (m : Master) (s : State) (z : ZoneId) :
    (State.endSessionAt m s z).config = s.config := by unfold State.endSessionAt; (repeat' split) <;> simp
@[simp] theorem State.endSessionAt_source (m : Master) (s : State) (z : ZoneId) :
    (State.endSessionAt m s z).source = s.source := by unfold State.endSessionAt; (repeat' split) <;> simp
@[simp] theorem State.endSessionAt_pending (m : Master) (s : State) (z : ZoneId) :
    (State.endSessionAt m s z).pending = s.pending := by unfold State.endSessionAt; (repeat' split) <;> simp

/-! ### endSession -/

@[simp] theorem State.endSession_timeCount (s : State) (m : Master) :
    (s.endSession m).timeCount = s.timeCount := by
  simp only [State.endSession, State.freeRing_timeCount, State.dropEntries_timeCount]
  exact foldl_keeps State.timeCount _ (fun _ _ => by simp) _ _
@[simp] theorem State.endSession_banks (s : State) (m : Master) :
    (s.endSession m).banks = s.banks := by
  simp only [State.endSession, State.freeRing_banks, State.dropEntries_banks]
  exact foldl_keeps State.banks _ (fun _ _ => by simp) _ _
@[simp] theorem State.endSession_lastServed (s : State) (m : Master) :
    (s.endSession m).lastServed = s.lastServed := by
  simp only [State.endSession, State.freeRing_lastServed, State.dropEntries_lastServed]
  exact foldl_keeps State.lastServed _ (fun _ _ => by simp) _ _
@[simp] theorem State.endSession_chosen (s : State) (m : Master) :
    (s.endSession m).chosen = s.chosen := by
  simp only [State.endSession, State.freeRing_chosen, State.dropEntries_chosen]
  exact foldl_keeps State.chosen _ (fun _ _ => by simp) _ _
@[simp] theorem State.endSession_inputs (s : State) (m : Master) :
    (s.endSession m).inputs = s.inputs := by
  simp only [State.endSession, State.freeRing_inputs, State.dropEntries_inputs]
  exact foldl_keeps State.inputs _ (fun _ _ => by simp) _ _
@[simp] theorem State.endSession_nextSerial (s : State) (m : Master) :
    (s.endSession m).nextSerial = s.nextSerial := by
  simp only [State.endSession, State.freeRing_nextSerial, State.dropEntries_nextSerial]
  exact foldl_keeps State.nextSerial _ (fun _ _ => by simp) _ _
@[simp] theorem State.endSession_ports (s : State) (m : Master) :
    (s.endSession m).ports = s.ports := by
  simp only [State.endSession, State.freeRing_ports, State.dropEntries_ports]
  exact foldl_keeps State.ports _ (fun _ _ => by simp) _ _
@[simp] theorem State.endSession_device (s : State) (m : Master) :
    (s.endSession m).device = s.device := by
  simp only [State.endSession, State.freeRing_device, State.dropEntries_device]
  exact foldl_keeps State.device _ (fun _ _ => by simp) _ _
@[simp] theorem State.endSession_resetCause (s : State) (m : Master) :
    (s.endSession m).resetCause = s.resetCause := by
  simp only [State.endSession, State.freeRing_resetCause, State.dropEntries_resetCause]
  exact foldl_keeps State.resetCause _ (fun _ _ => by simp) _ _
@[simp] theorem State.endSession_cfg (s : State) (m : Master) :
    (s.endSession m).cfg = s.cfg := by
  simp only [State.endSession, State.freeRing_cfg, State.dropEntries_cfg]
  exact foldl_keeps State.cfg _ (fun _ _ => by simp) _ _
@[simp] theorem State.endSession_startupStore (s : State) (m : Master) :
    (s.endSession m).startupStore = s.startupStore := by
  simp only [State.endSession, State.freeRing_startupStore, State.dropEntries_startupStore]
  exact foldl_keeps State.startupStore _ (fun _ _ => by simp) _ _
@[simp] theorem State.endSession_presentStore (s : State) (m : Master) :
    (s.endSession m).presentStore = s.presentStore := by
  simp only [State.endSession, State.freeRing_presentStore, State.dropEntries_presentStore]
  exact foldl_keeps State.presentStore _ (fun _ _ => by simp) _ _
@[simp] theorem State.endSession_store (s : State) (m : Master) :
    (s.endSession m).store = s.store := by
  simp only [State.endSession, State.freeRing_store, State.dropEntries_store]
  exact foldl_keeps State.store _ (fun _ _ => by simp) _ _
@[simp] theorem State.endSession_config (s : State) (m : Master) :
    (s.endSession m).config = s.config := by
  simp only [State.endSession, State.freeRing_config, State.dropEntries_config]
  exact foldl_keeps State.config _ (fun _ _ => by simp) _ _
@[simp] theorem State.endSession_source (s : State) (m : Master) :
    (s.endSession m).source = s.source := by
  simp only [State.endSession, State.freeRing_source, State.dropEntries_source]
  exact foldl_keeps State.source _ (fun _ _ => by simp) _ _
@[simp] theorem State.endSession_pending (s : State) (m : Master) :
    (s.endSession m).pending = s.pending := by
  simp only [State.endSession, State.freeRing_pending, State.dropEntries_pending]
  exact foldl_keeps State.pending _ (fun _ _ => by simp) _ _

/-! ### revoke -/

@[simp] theorem State.revoke_timeCount (s : State) (m : Master) (r : RevokeReason) :
    (s.revoke m r).timeCount = s.timeCount := by simp [State.revoke]
@[simp] theorem State.revoke_banks (s : State) (m : Master) (r : RevokeReason) :
    (s.revoke m r).banks = s.banks := by simp [State.revoke]
@[simp] theorem State.revoke_lastServed (s : State) (m : Master) (r : RevokeReason) :
    (s.revoke m r).lastServed = s.lastServed := by simp [State.revoke]
@[simp] theorem State.revoke_chosen (s : State) (m : Master) (r : RevokeReason) :
    (s.revoke m r).chosen = s.chosen := by simp [State.revoke]
@[simp] theorem State.revoke_inputs (s : State) (m : Master) (r : RevokeReason) :
    (s.revoke m r).inputs = s.inputs := by simp [State.revoke]
@[simp] theorem State.revoke_nextSerial (s : State) (m : Master) (r : RevokeReason) :
    (s.revoke m r).nextSerial = s.nextSerial := by simp [State.revoke]
@[simp] theorem State.revoke_ports (s : State) (m : Master) (r : RevokeReason) :
    (s.revoke m r).ports = s.ports := by simp [State.revoke]
@[simp] theorem State.revoke_device (s : State) (m : Master) (r : RevokeReason) :
    (s.revoke m r).device = s.device := by simp [State.revoke]
@[simp] theorem State.revoke_resetCause (s : State) (m : Master) (r : RevokeReason) :
    (s.revoke m r).resetCause = s.resetCause := by simp [State.revoke]
@[simp] theorem State.revoke_cfg (s : State) (m : Master) (r : RevokeReason) :
    (s.revoke m r).cfg = s.cfg := by simp [State.revoke]
@[simp] theorem State.revoke_startupStore (s : State) (m : Master) (r : RevokeReason) :
    (s.revoke m r).startupStore = s.startupStore := by simp [State.revoke]
@[simp] theorem State.revoke_presentStore (s : State) (m : Master) (r : RevokeReason) :
    (s.revoke m r).presentStore = s.presentStore := by simp [State.revoke]
@[simp] theorem State.revoke_store (s : State) (m : Master) (r : RevokeReason) :
    (s.revoke m r).store = s.store := by simp [State.revoke]
@[simp] theorem State.revoke_config (s : State) (m : Master) (r : RevokeReason) :
    (s.revoke m r).config = s.config := by simp [State.revoke]
@[simp] theorem State.revoke_source (s : State) (m : Master) (r : RevokeReason) :
    (s.revoke m r).source = s.source := by simp [State.revoke]
@[simp] theorem State.revoke_pending (s : State) (m : Master) (r : RevokeReason) :
    (s.revoke m r).pending = s.pending := by simp [State.revoke]

/-! ### grant -/

@[simp] theorem State.grant_timeCount (s : State) (z : ZoneId) (m : Master) :
    (s.grant z m).timeCount = s.timeCount := by simp [State.grant]
@[simp] theorem State.grant_queue (s : State) (z : ZoneId) (m : Master) :
    (s.grant z m).queue = s.queue := by simp [State.grant]
@[simp] theorem State.grant_banks (s : State) (z : ZoneId) (m : Master) :
    (s.grant z m).banks = s.banks := by simp [State.grant]
@[simp] theorem State.grant_lastServed (s : State) (z : ZoneId) (m : Master) :
    (s.grant z m).lastServed = s.lastServed := by simp [State.grant]
@[simp] theorem State.grant_chosen (s : State) (z : ZoneId) (m : Master) :
    (s.grant z m).chosen = s.chosen := by simp [State.grant]
@[simp] theorem State.grant_inputs (s : State) (z : ZoneId) (m : Master) :
    (s.grant z m).inputs = s.inputs := by simp [State.grant]
@[simp] theorem State.grant_nextSerial (s : State) (z : ZoneId) (m : Master) :
    (s.grant z m).nextSerial = s.nextSerial := by simp [State.grant]
@[simp] theorem State.grant_ring (s : State) (z : ZoneId) (m : Master) :
    (s.grant z m).ring = s.ring := by simp [State.grant]
@[simp] theorem State.grant_ports (s : State) (z : ZoneId) (m : Master) :
    (s.grant z m).ports = s.ports := by simp [State.grant]
@[simp] theorem State.grant_device (s : State) (z : ZoneId) (m : Master) :
    (s.grant z m).device = s.device := by simp [State.grant]
@[simp] theorem State.grant_resetCause (s : State) (z : ZoneId) (m : Master) :
    (s.grant z m).resetCause = s.resetCause := by simp [State.grant]
@[simp] theorem State.grant_cfg (s : State) (z : ZoneId) (m : Master) :
    (s.grant z m).cfg = s.cfg := by simp [State.grant]
@[simp] theorem State.grant_startupStore (s : State) (z : ZoneId) (m : Master) :
    (s.grant z m).startupStore = s.startupStore := by simp [State.grant]
@[simp] theorem State.grant_presentStore (s : State) (z : ZoneId) (m : Master) :
    (s.grant z m).presentStore = s.presentStore := by simp [State.grant]
@[simp] theorem State.grant_store (s : State) (z : ZoneId) (m : Master) :
    (s.grant z m).store = s.store := by simp [State.grant]
@[simp] theorem State.grant_config (s : State) (z : ZoneId) (m : Master) :
    (s.grant z m).config = s.config := by simp [State.grant]
@[simp] theorem State.grant_source (s : State) (z : ZoneId) (m : Master) :
    (s.grant z m).source = s.source := by simp [State.grant]
@[simp] theorem State.grant_pending (s : State) (z : ZoneId) (m : Master) :
    (s.grant z m).pending = s.pending := by simp [State.grant]

/-! ### recognise -/

@[simp] theorem State.recognise_timeCount (s : State) (i : InputId) (l : Level) :
    (s.recognise i l).timeCount = s.timeCount := rfl
@[simp] theorem State.recognise_queue (s : State) (i : InputId) (l : Level) :
    (s.recognise i l).queue = s.queue := rfl
@[simp] theorem State.recognise_banks (s : State) (i : InputId) (l : Level) :
    (s.recognise i l).banks = s.banks := rfl
@[simp] theorem State.recognise_zones (s : State) (i : InputId) (l : Level) :
    (s.recognise i l).zones = s.zones := rfl
@[simp] theorem State.recognise_changeSets (s : State) (i : InputId) (l : Level) :
    (s.recognise i l).changeSets = s.changeSets := rfl
@[simp] theorem State.recognise_lastServed (s : State) (i : InputId) (l : Level) :
    (s.recognise i l).lastServed = s.lastServed := rfl
@[simp] theorem State.recognise_chosen (s : State) (i : InputId) (l : Level) :
    (s.recognise i l).chosen = s.chosen := rfl
@[simp] theorem State.recognise_sessions (s : State) (i : InputId) (l : Level) :
    (s.recognise i l).sessions = s.sessions := rfl
@[simp] theorem State.recognise_attention (s : State) (i : InputId) (l : Level) :
    (s.recognise i l).attention = s.attention := rfl
@[simp] theorem State.recognise_nextSerial (s : State) (i : InputId) (l : Level) :
    (s.recognise i l).nextSerial = s.nextSerial := rfl
@[simp] theorem State.recognise_ring (s : State) (i : InputId) (l : Level) :
    (s.recognise i l).ring = s.ring := rfl
@[simp] theorem State.recognise_ports (s : State) (i : InputId) (l : Level) :
    (s.recognise i l).ports = s.ports := rfl
@[simp] theorem State.recognise_device (s : State) (i : InputId) (l : Level) :
    (s.recognise i l).device = s.device := rfl
@[simp] theorem State.recognise_resetCause (s : State) (i : InputId) (l : Level) :
    (s.recognise i l).resetCause = s.resetCause := rfl
@[simp] theorem State.recognise_cfg (s : State) (i : InputId) (l : Level) :
    (s.recognise i l).cfg = s.cfg := rfl
@[simp] theorem State.recognise_startupStore (s : State) (i : InputId) (l : Level) :
    (s.recognise i l).startupStore = s.startupStore := rfl
@[simp] theorem State.recognise_presentStore (s : State) (i : InputId) (l : Level) :
    (s.recognise i l).presentStore = s.presentStore := rfl
@[simp] theorem State.recognise_store (s : State) (i : InputId) (l : Level) :
    (s.recognise i l).store = s.store := rfl
@[simp] theorem State.recognise_config (s : State) (i : InputId) (l : Level) :
    (s.recognise i l).config = s.config := rfl
@[simp] theorem State.recognise_source (s : State) (i : InputId) (l : Level) :
    (s.recognise i l).source = s.source := rfl
@[simp] theorem State.recognise_pending (s : State) (i : InputId) (l : Level) :
    (s.recognise i l).pending = s.pending := rfl

/-! ### establish -/

@[simp] theorem State.establish_timeCount (s : State) (i : InputId) :
    (s.establish i).timeCount = s.timeCount := rfl
@[simp] theorem State.establish_queue (s : State) (i : InputId) :
    (s.establish i).queue = s.queue := rfl
@[simp] theorem State.establish_banks (s : State) (i : InputId) :
    (s.establish i).banks = s.banks := rfl
@[simp] theorem State.establish_zones (s : State) (i : InputId) :
    (s.establish i).zones = s.zones := rfl
@[simp] theorem State.establish_changeSets (s : State) (i : InputId) :
    (s.establish i).changeSets = s.changeSets := rfl
@[simp] theorem State.establish_lastServed (s : State) (i : InputId) :
    (s.establish i).lastServed = s.lastServed := rfl
@[simp] theorem State.establish_chosen (s : State) (i : InputId) :
    (s.establish i).chosen = s.chosen := rfl
@[simp] theorem State.establish_sessions (s : State) (i : InputId) :
    (s.establish i).sessions = s.sessions := rfl
@[simp] theorem State.establish_attention (s : State) (i : InputId) :
    (s.establish i).attention = s.attention := rfl
@[simp] theorem State.establish_nextSerial (s : State) (i : InputId) :
    (s.establish i).nextSerial = s.nextSerial := rfl
@[simp] theorem State.establish_ring (s : State) (i : InputId) :
    (s.establish i).ring = s.ring := rfl
@[simp] theorem State.establish_ports (s : State) (i : InputId) :
    (s.establish i).ports = s.ports := rfl
@[simp] theorem State.establish_device (s : State) (i : InputId) :
    (s.establish i).device = s.device := rfl
@[simp] theorem State.establish_resetCause (s : State) (i : InputId) :
    (s.establish i).resetCause = s.resetCause := rfl
@[simp] theorem State.establish_cfg (s : State) (i : InputId) :
    (s.establish i).cfg = s.cfg := rfl
@[simp] theorem State.establish_startupStore (s : State) (i : InputId) :
    (s.establish i).startupStore = s.startupStore := rfl
@[simp] theorem State.establish_presentStore (s : State) (i : InputId) :
    (s.establish i).presentStore = s.presentStore := rfl
@[simp] theorem State.establish_store (s : State) (i : InputId) :
    (s.establish i).store = s.store := rfl
@[simp] theorem State.establish_config (s : State) (i : InputId) :
    (s.establish i).config = s.config := rfl
@[simp] theorem State.establish_source (s : State) (i : InputId) :
    (s.establish i).source = s.source := rfl
@[simp] theorem State.establish_pending (s : State) (i : InputId) :
    (s.establish i).pending = s.pending := rfl

/-! ### sampleInput -/

@[simp] theorem State.sampleInput_timeCount (s : State) (i : InputId) (l : Level) :
    (s.sampleInput i l).timeCount = s.timeCount := rfl
@[simp] theorem State.sampleInput_queue (s : State) (i : InputId) (l : Level) :
    (s.sampleInput i l).queue = s.queue := rfl
@[simp] theorem State.sampleInput_banks (s : State) (i : InputId) (l : Level) :
    (s.sampleInput i l).banks = s.banks := rfl
@[simp] theorem State.sampleInput_zones (s : State) (i : InputId) (l : Level) :
    (s.sampleInput i l).zones = s.zones := rfl
@[simp] theorem State.sampleInput_changeSets (s : State) (i : InputId) (l : Level) :
    (s.sampleInput i l).changeSets = s.changeSets := rfl
@[simp] theorem State.sampleInput_lastServed (s : State) (i : InputId) (l : Level) :
    (s.sampleInput i l).lastServed = s.lastServed := rfl
@[simp] theorem State.sampleInput_chosen (s : State) (i : InputId) (l : Level) :
    (s.sampleInput i l).chosen = s.chosen := rfl
@[simp] theorem State.sampleInput_sessions (s : State) (i : InputId) (l : Level) :
    (s.sampleInput i l).sessions = s.sessions := rfl
@[simp] theorem State.sampleInput_attention (s : State) (i : InputId) (l : Level) :
    (s.sampleInput i l).attention = s.attention := rfl
@[simp] theorem State.sampleInput_nextSerial (s : State) (i : InputId) (l : Level) :
    (s.sampleInput i l).nextSerial = s.nextSerial := rfl
@[simp] theorem State.sampleInput_ring (s : State) (i : InputId) (l : Level) :
    (s.sampleInput i l).ring = s.ring := rfl
@[simp] theorem State.sampleInput_ports (s : State) (i : InputId) (l : Level) :
    (s.sampleInput i l).ports = s.ports := rfl
@[simp] theorem State.sampleInput_device (s : State) (i : InputId) (l : Level) :
    (s.sampleInput i l).device = s.device := rfl
@[simp] theorem State.sampleInput_resetCause (s : State) (i : InputId) (l : Level) :
    (s.sampleInput i l).resetCause = s.resetCause := rfl
@[simp] theorem State.sampleInput_cfg (s : State) (i : InputId) (l : Level) :
    (s.sampleInput i l).cfg = s.cfg := rfl
@[simp] theorem State.sampleInput_startupStore (s : State) (i : InputId) (l : Level) :
    (s.sampleInput i l).startupStore = s.startupStore := rfl
@[simp] theorem State.sampleInput_presentStore (s : State) (i : InputId) (l : Level) :
    (s.sampleInput i l).presentStore = s.presentStore := rfl
@[simp] theorem State.sampleInput_store (s : State) (i : InputId) (l : Level) :
    (s.sampleInput i l).store = s.store := rfl
@[simp] theorem State.sampleInput_config (s : State) (i : InputId) (l : Level) :
    (s.sampleInput i l).config = s.config := rfl
@[simp] theorem State.sampleInput_source (s : State) (i : InputId) (l : Level) :
    (s.sampleInput i l).source = s.source := rfl
@[simp] theorem State.sampleInput_pending (s : State) (i : InputId) (l : Level) :
    (s.sampleInput i l).pending = s.pending := rfl

/-! ### refreshAt -/

@[simp] theorem State.refreshAt_timeCount (i : InputId) (s : State) (z : ZoneId) :
    (State.refreshAt i s z).timeCount = s.timeCount := by simp [State.refreshAt]
@[simp] theorem State.refreshAt_queue (i : InputId) (s : State) (z : ZoneId) :
    (State.refreshAt i s z).queue = s.queue := by simp [State.refreshAt]
@[simp] theorem State.refreshAt_banks (i : InputId) (s : State) (z : ZoneId) :
    (State.refreshAt i s z).banks = s.banks := by simp [State.refreshAt]
@[simp] theorem State.refreshAt_changeSets (i : InputId) (s : State) (z : ZoneId) :
    (State.refreshAt i s z).changeSets = s.changeSets := by simp [State.refreshAt]
@[simp] theorem State.refreshAt_lastServed (i : InputId) (s : State) (z : ZoneId) :
    (State.refreshAt i s z).lastServed = s.lastServed := by simp [State.refreshAt]
@[simp] theorem State.refreshAt_chosen (i : InputId) (s : State) (z : ZoneId) :
    (State.refreshAt i s z).chosen = s.chosen := by simp [State.refreshAt]
@[simp] theorem State.refreshAt_sessions (i : InputId) (s : State) (z : ZoneId) :
    (State.refreshAt i s z).sessions = s.sessions := by simp [State.refreshAt]
@[simp] theorem State.refreshAt_inputs (i : InputId) (s : State) (z : ZoneId) :
    (State.refreshAt i s z).inputs = s.inputs := by simp [State.refreshAt]
@[simp] theorem State.refreshAt_nextSerial (i : InputId) (s : State) (z : ZoneId) :
    (State.refreshAt i s z).nextSerial = s.nextSerial := by simp [State.refreshAt]
@[simp] theorem State.refreshAt_ring (i : InputId) (s : State) (z : ZoneId) :
    (State.refreshAt i s z).ring = s.ring := by simp [State.refreshAt]
@[simp] theorem State.refreshAt_ports (i : InputId) (s : State) (z : ZoneId) :
    (State.refreshAt i s z).ports = s.ports := by simp [State.refreshAt]
@[simp] theorem State.refreshAt_device (i : InputId) (s : State) (z : ZoneId) :
    (State.refreshAt i s z).device = s.device := by simp [State.refreshAt]
@[simp] theorem State.refreshAt_resetCause (i : InputId) (s : State) (z : ZoneId) :
    (State.refreshAt i s z).resetCause = s.resetCause := by simp [State.refreshAt]
@[simp] theorem State.refreshAt_cfg (i : InputId) (s : State) (z : ZoneId) :
    (State.refreshAt i s z).cfg = s.cfg := by simp [State.refreshAt]
@[simp] theorem State.refreshAt_startupStore (i : InputId) (s : State) (z : ZoneId) :
    (State.refreshAt i s z).startupStore = s.startupStore := by simp [State.refreshAt]
@[simp] theorem State.refreshAt_presentStore (i : InputId) (s : State) (z : ZoneId) :
    (State.refreshAt i s z).presentStore = s.presentStore := by simp [State.refreshAt]
@[simp] theorem State.refreshAt_store (i : InputId) (s : State) (z : ZoneId) :
    (State.refreshAt i s z).store = s.store := by simp [State.refreshAt]
@[simp] theorem State.refreshAt_config (i : InputId) (s : State) (z : ZoneId) :
    (State.refreshAt i s z).config = s.config := by simp [State.refreshAt]
@[simp] theorem State.refreshAt_source (i : InputId) (s : State) (z : ZoneId) :
    (State.refreshAt i s z).source = s.source := by simp [State.refreshAt]
@[simp] theorem State.refreshAt_pending (i : InputId) (s : State) (z : ZoneId) :
    (State.refreshAt i s z).pending = s.pending := by simp [State.refreshAt]

/-! ### refresh -/

@[simp] theorem State.refresh_timeCount (s : State) (i : InputId) :
    (s.refresh i).timeCount = s.timeCount := 
  foldl_keeps State.timeCount _ (fun _ _ => by simp) _ _
@[simp] theorem State.refresh_queue (s : State) (i : InputId) :
    (s.refresh i).queue = s.queue := 
  foldl_keeps State.queue _ (fun _ _ => by simp) _ _
@[simp] theorem State.refresh_banks (s : State) (i : InputId) :
    (s.refresh i).banks = s.banks := 
  foldl_keeps State.banks _ (fun _ _ => by simp) _ _
@[simp] theorem State.refresh_changeSets (s : State) (i : InputId) :
    (s.refresh i).changeSets = s.changeSets := 
  foldl_keeps State.changeSets _ (fun _ _ => by simp) _ _
@[simp] theorem State.refresh_lastServed (s : State) (i : InputId) :
    (s.refresh i).lastServed = s.lastServed := 
  foldl_keeps State.lastServed _ (fun _ _ => by simp) _ _
@[simp] theorem State.refresh_chosen (s : State) (i : InputId) :
    (s.refresh i).chosen = s.chosen := 
  foldl_keeps State.chosen _ (fun _ _ => by simp) _ _
@[simp] theorem State.refresh_sessions (s : State) (i : InputId) :
    (s.refresh i).sessions = s.sessions := 
  foldl_keeps State.sessions _ (fun _ _ => by simp) _ _
@[simp] theorem State.refresh_inputs (s : State) (i : InputId) :
    (s.refresh i).inputs = s.inputs := 
  foldl_keeps State.inputs _ (fun _ _ => by simp) _ _
@[simp] theorem State.refresh_nextSerial (s : State) (i : InputId) :
    (s.refresh i).nextSerial = s.nextSerial := 
  foldl_keeps State.nextSerial _ (fun _ _ => by simp) _ _
@[simp] theorem State.refresh_ring (s : State) (i : InputId) :
    (s.refresh i).ring = s.ring := 
  foldl_keeps State.ring _ (fun _ _ => by simp) _ _
@[simp] theorem State.refresh_ports (s : State) (i : InputId) :
    (s.refresh i).ports = s.ports := 
  foldl_keeps State.ports _ (fun _ _ => by simp) _ _
@[simp] theorem State.refresh_device (s : State) (i : InputId) :
    (s.refresh i).device = s.device := 
  foldl_keeps State.device _ (fun _ _ => by simp) _ _
@[simp] theorem State.refresh_resetCause (s : State) (i : InputId) :
    (s.refresh i).resetCause = s.resetCause := 
  foldl_keeps State.resetCause _ (fun _ _ => by simp) _ _
@[simp] theorem State.refresh_cfg (s : State) (i : InputId) :
    (s.refresh i).cfg = s.cfg := 
  foldl_keeps State.cfg _ (fun _ _ => by simp) _ _
@[simp] theorem State.refresh_startupStore (s : State) (i : InputId) :
    (s.refresh i).startupStore = s.startupStore := 
  foldl_keeps State.startupStore _ (fun _ _ => by simp) _ _
@[simp] theorem State.refresh_presentStore (s : State) (i : InputId) :
    (s.refresh i).presentStore = s.presentStore := 
  foldl_keeps State.presentStore _ (fun _ _ => by simp) _ _
@[simp] theorem State.refresh_store (s : State) (i : InputId) :
    (s.refresh i).store = s.store := 
  foldl_keeps State.store _ (fun _ _ => by simp) _ _
@[simp] theorem State.refresh_config (s : State) (i : InputId) :
    (s.refresh i).config = s.config := 
  foldl_keeps State.config _ (fun _ _ => by simp) _ _
@[simp] theorem State.refresh_source (s : State) (i : InputId) :
    (s.refresh i).source = s.source := 
  foldl_keeps State.source _ (fun _ _ => by simp) _ _
@[simp] theorem State.refresh_pending (s : State) (i : InputId) :
    (s.refresh i).pending = s.pending := 
  foldl_keeps State.pending _ (fun _ _ => by simp) _ _

/-! ### post -/

@[simp] theorem State.post_timeCount (s : State) (e : Entry) :
    (s.post e).timeCount = s.timeCount := rfl
@[simp] theorem State.post_banks (s : State) (e : Entry) :
    (s.post e).banks = s.banks := rfl
@[simp] theorem State.post_zones (s : State) (e : Entry) :
    (s.post e).zones = s.zones := rfl
@[simp] theorem State.post_changeSets (s : State) (e : Entry) :
    (s.post e).changeSets = s.changeSets := rfl
@[simp] theorem State.post_lastServed (s : State) (e : Entry) :
    (s.post e).lastServed = s.lastServed := rfl
@[simp] theorem State.post_chosen (s : State) (e : Entry) :
    (s.post e).chosen = s.chosen := rfl
@[simp] theorem State.post_sessions (s : State) (e : Entry) :
    (s.post e).sessions = s.sessions := rfl
@[simp] theorem State.post_attention (s : State) (e : Entry) :
    (s.post e).attention = s.attention := rfl
@[simp] theorem State.post_inputs (s : State) (e : Entry) :
    (s.post e).inputs = s.inputs := rfl
@[simp] theorem State.post_nextSerial (s : State) (e : Entry) :
    (s.post e).nextSerial = s.nextSerial := rfl
@[simp] theorem State.post_ring (s : State) (e : Entry) :
    (s.post e).ring = s.ring := rfl
@[simp] theorem State.post_ports (s : State) (e : Entry) :
    (s.post e).ports = s.ports := rfl
@[simp] theorem State.post_device (s : State) (e : Entry) :
    (s.post e).device = s.device := rfl
@[simp] theorem State.post_resetCause (s : State) (e : Entry) :
    (s.post e).resetCause = s.resetCause := rfl
@[simp] theorem State.post_cfg (s : State) (e : Entry) :
    (s.post e).cfg = s.cfg := rfl
@[simp] theorem State.post_startupStore (s : State) (e : Entry) :
    (s.post e).startupStore = s.startupStore := rfl
@[simp] theorem State.post_presentStore (s : State) (e : Entry) :
    (s.post e).presentStore = s.presentStore := rfl
@[simp] theorem State.post_store (s : State) (e : Entry) :
    (s.post e).store = s.store := rfl
@[simp] theorem State.post_config (s : State) (e : Entry) :
    (s.post e).config = s.config := rfl
@[simp] theorem State.post_source (s : State) (e : Entry) :
    (s.post e).source = s.source := rfl
@[simp] theorem State.post_pending (s : State) (e : Entry) :
    (s.post e).pending = s.pending := rfl

/-! ### tellDone -/

@[simp] theorem State.tellDone_timeCount (s : State) (e : Entry) (k : DoneKind) (n : Bool) :
    (s.tellDone e k n).timeCount = s.timeCount := by unfold State.tellDone; split <;> simp
@[simp] theorem State.tellDone_queue (s : State) (e : Entry) (k : DoneKind) (n : Bool) :
    (s.tellDone e k n).queue = s.queue := by unfold State.tellDone; split <;> simp
@[simp] theorem State.tellDone_banks (s : State) (e : Entry) (k : DoneKind) (n : Bool) :
    (s.tellDone e k n).banks = s.banks := by unfold State.tellDone; split <;> simp
@[simp] theorem State.tellDone_zones (s : State) (e : Entry) (k : DoneKind) (n : Bool) :
    (s.tellDone e k n).zones = s.zones := by unfold State.tellDone; split <;> simp
@[simp] theorem State.tellDone_changeSets (s : State) (e : Entry) (k : DoneKind) (n : Bool) :
    (s.tellDone e k n).changeSets = s.changeSets := by unfold State.tellDone; split <;> simp
@[simp] theorem State.tellDone_lastServed (s : State) (e : Entry) (k : DoneKind) (n : Bool) :
    (s.tellDone e k n).lastServed = s.lastServed := by unfold State.tellDone; split <;> simp
@[simp] theorem State.tellDone_chosen (s : State) (e : Entry) (k : DoneKind) (n : Bool) :
    (s.tellDone e k n).chosen = s.chosen := by unfold State.tellDone; split <;> simp
@[simp] theorem State.tellDone_sessions (s : State) (e : Entry) (k : DoneKind) (n : Bool) :
    (s.tellDone e k n).sessions = s.sessions := by unfold State.tellDone; split <;> simp
@[simp] theorem State.tellDone_inputs (s : State) (e : Entry) (k : DoneKind) (n : Bool) :
    (s.tellDone e k n).inputs = s.inputs := by unfold State.tellDone; split <;> simp
@[simp] theorem State.tellDone_nextSerial (s : State) (e : Entry) (k : DoneKind) (n : Bool) :
    (s.tellDone e k n).nextSerial = s.nextSerial := by unfold State.tellDone; split <;> simp
@[simp] theorem State.tellDone_ring (s : State) (e : Entry) (k : DoneKind) (n : Bool) :
    (s.tellDone e k n).ring = s.ring := by unfold State.tellDone; split <;> simp
@[simp] theorem State.tellDone_ports (s : State) (e : Entry) (k : DoneKind) (n : Bool) :
    (s.tellDone e k n).ports = s.ports := by unfold State.tellDone; split <;> simp
@[simp] theorem State.tellDone_device (s : State) (e : Entry) (k : DoneKind) (n : Bool) :
    (s.tellDone e k n).device = s.device := by unfold State.tellDone; split <;> simp
@[simp] theorem State.tellDone_resetCause (s : State) (e : Entry) (k : DoneKind) (n : Bool) :
    (s.tellDone e k n).resetCause = s.resetCause := by unfold State.tellDone; split <;> simp
@[simp] theorem State.tellDone_cfg (s : State) (e : Entry) (k : DoneKind) (n : Bool) :
    (s.tellDone e k n).cfg = s.cfg := by unfold State.tellDone; split <;> simp
@[simp] theorem State.tellDone_startupStore (s : State) (e : Entry) (k : DoneKind) (n : Bool) :
    (s.tellDone e k n).startupStore = s.startupStore := by unfold State.tellDone; split <;> simp
@[simp] theorem State.tellDone_presentStore (s : State) (e : Entry) (k : DoneKind) (n : Bool) :
    (s.tellDone e k n).presentStore = s.presentStore := by unfold State.tellDone; split <;> simp
@[simp] theorem State.tellDone_store (s : State) (e : Entry) (k : DoneKind) (n : Bool) :
    (s.tellDone e k n).store = s.store := by unfold State.tellDone; split <;> simp
@[simp] theorem State.tellDone_config (s : State) (e : Entry) (k : DoneKind) (n : Bool) :
    (s.tellDone e k n).config = s.config := by unfold State.tellDone; split <;> simp
@[simp] theorem State.tellDone_source (s : State) (e : Entry) (k : DoneKind) (n : Bool) :
    (s.tellDone e k n).source = s.source := by unfold State.tellDone; split <;> simp
@[simp] theorem State.tellDone_pending (s : State) (e : Entry) (k : DoneKind) (n : Bool) :
    (s.tellDone e k n).pending = s.pending := by unfold State.tellDone; split <;> simp

/-! ### goOn -/

@[simp] theorem State.goOn_timeCount (s : State) (e : Entry) (r : Step) :
    (s.goOn e r).timeCount = s.timeCount := by unfold State.goOn; (repeat' split) <;> simp
@[simp] theorem State.goOn_banks (s : State) (e : Entry) (r : Step) :
    (s.goOn e r).banks = s.banks := by unfold State.goOn; (repeat' split) <;> simp
@[simp] theorem State.goOn_zones (s : State) (e : Entry) (r : Step) :
    (s.goOn e r).zones = s.zones := by unfold State.goOn; (repeat' split) <;> simp
@[simp] theorem State.goOn_changeSets (s : State) (e : Entry) (r : Step) :
    (s.goOn e r).changeSets = s.changeSets := by unfold State.goOn; (repeat' split) <;> simp
@[simp] theorem State.goOn_lastServed (s : State) (e : Entry) (r : Step) :
    (s.goOn e r).lastServed = s.lastServed := by unfold State.goOn; (repeat' split) <;> simp
@[simp] theorem State.goOn_chosen (s : State) (e : Entry) (r : Step) :
    (s.goOn e r).chosen = s.chosen := by unfold State.goOn; (repeat' split) <;> simp
@[simp] theorem State.goOn_sessions (s : State) (e : Entry) (r : Step) :
    (s.goOn e r).sessions = s.sessions := by unfold State.goOn; (repeat' split) <;> simp
@[simp] theorem State.goOn_inputs (s : State) (e : Entry) (r : Step) :
    (s.goOn e r).inputs = s.inputs := by unfold State.goOn; (repeat' split) <;> simp
@[simp] theorem State.goOn_nextSerial (s : State) (e : Entry) (r : Step) :
    (s.goOn e r).nextSerial = s.nextSerial := by unfold State.goOn; (repeat' split) <;> simp
@[simp] theorem State.goOn_ring (s : State) (e : Entry) (r : Step) :
    (s.goOn e r).ring = s.ring := by unfold State.goOn; (repeat' split) <;> simp
@[simp] theorem State.goOn_ports (s : State) (e : Entry) (r : Step) :
    (s.goOn e r).ports = s.ports := by unfold State.goOn; (repeat' split) <;> simp
@[simp] theorem State.goOn_device (s : State) (e : Entry) (r : Step) :
    (s.goOn e r).device = s.device := by unfold State.goOn; (repeat' split) <;> simp
@[simp] theorem State.goOn_resetCause (s : State) (e : Entry) (r : Step) :
    (s.goOn e r).resetCause = s.resetCause := by unfold State.goOn; (repeat' split) <;> simp
@[simp] theorem State.goOn_cfg (s : State) (e : Entry) (r : Step) :
    (s.goOn e r).cfg = s.cfg := by unfold State.goOn; (repeat' split) <;> simp
@[simp] theorem State.goOn_startupStore (s : State) (e : Entry) (r : Step) :
    (s.goOn e r).startupStore = s.startupStore := by unfold State.goOn; (repeat' split) <;> simp
@[simp] theorem State.goOn_presentStore (s : State) (e : Entry) (r : Step) :
    (s.goOn e r).presentStore = s.presentStore := by unfold State.goOn; (repeat' split) <;> simp
@[simp] theorem State.goOn_store (s : State) (e : Entry) (r : Step) :
    (s.goOn e r).store = s.store := by unfold State.goOn; (repeat' split) <;> simp
@[simp] theorem State.goOn_config (s : State) (e : Entry) (r : Step) :
    (s.goOn e r).config = s.config := by unfold State.goOn; (repeat' split) <;> simp
@[simp] theorem State.goOn_source (s : State) (e : Entry) (r : Step) :
    (s.goOn e r).source = s.source := by unfold State.goOn; (repeat' split) <;> simp
@[simp] theorem State.goOn_pending (s : State) (e : Entry) (r : Step) :
    (s.goOn e r).pending = s.pending := by unfold State.goOn; (repeat' split) <;> simp

/-! ### takeEntry -/

@[simp] theorem State.takeEntry_timeCount (s : State) (e : Entry) :
    (s.takeEntry e).timeCount = s.timeCount := by unfold State.takeEntry; (repeat' split) <;> simp
@[simp] theorem State.takeEntry_banks (s : State) (e : Entry) :
    (s.takeEntry e).banks = s.banks := by unfold State.takeEntry; (repeat' split) <;> simp
@[simp] theorem State.takeEntry_changeSets (s : State) (e : Entry) :
    (s.takeEntry e).changeSets = s.changeSets := by unfold State.takeEntry; (repeat' split) <;> simp
@[simp] theorem State.takeEntry_lastServed (s : State) (e : Entry) :
    (s.takeEntry e).lastServed = s.lastServed := by unfold State.takeEntry; (repeat' split) <;> simp
@[simp] theorem State.takeEntry_chosen (s : State) (e : Entry) :
    (s.takeEntry e).chosen = s.chosen := by unfold State.takeEntry; (repeat' split) <;> simp
@[simp] theorem State.takeEntry_sessions (s : State) (e : Entry) :
    (s.takeEntry e).sessions = s.sessions := by unfold State.takeEntry; (repeat' split) <;> simp
@[simp] theorem State.takeEntry_inputs (s : State) (e : Entry) :
    (s.takeEntry e).inputs = s.inputs := by unfold State.takeEntry; (repeat' split) <;> simp
@[simp] theorem State.takeEntry_nextSerial (s : State) (e : Entry) :
    (s.takeEntry e).nextSerial = s.nextSerial := by unfold State.takeEntry; (repeat' split) <;> simp
@[simp] theorem State.takeEntry_ring (s : State) (e : Entry) :
    (s.takeEntry e).ring = s.ring := by unfold State.takeEntry; (repeat' split) <;> simp
@[simp] theorem State.takeEntry_ports (s : State) (e : Entry) :
    (s.takeEntry e).ports = s.ports := by unfold State.takeEntry; (repeat' split) <;> simp
@[simp] theorem State.takeEntry_device (s : State) (e : Entry) :
    (s.takeEntry e).device = s.device := by unfold State.takeEntry; (repeat' split) <;> simp
@[simp] theorem State.takeEntry_resetCause (s : State) (e : Entry) :
    (s.takeEntry e).resetCause = s.resetCause := by unfold State.takeEntry; (repeat' split) <;> simp
@[simp] theorem State.takeEntry_cfg (s : State) (e : Entry) :
    (s.takeEntry e).cfg = s.cfg := by unfold State.takeEntry; (repeat' split) <;> simp
@[simp] theorem State.takeEntry_startupStore (s : State) (e : Entry) :
    (s.takeEntry e).startupStore = s.startupStore := by unfold State.takeEntry; (repeat' split) <;> simp
@[simp] theorem State.takeEntry_presentStore (s : State) (e : Entry) :
    (s.takeEntry e).presentStore = s.presentStore := by unfold State.takeEntry; (repeat' split) <;> simp
@[simp] theorem State.takeEntry_store (s : State) (e : Entry) :
    (s.takeEntry e).store = s.store := by unfold State.takeEntry; (repeat' split) <;> simp
@[simp] theorem State.takeEntry_config (s : State) (e : Entry) :
    (s.takeEntry e).config = s.config := by unfold State.takeEntry; (repeat' split) <;> simp
@[simp] theorem State.takeEntry_source (s : State) (e : Entry) :
    (s.takeEntry e).source = s.source := by unfold State.takeEntry; (repeat' split) <;> simp
@[simp] theorem State.takeEntry_pending (s : State) (e : Entry) :
    (s.takeEntry e).pending = s.pending := by unfold State.takeEntry; (repeat' split) <;> simp

/-! ### faultFor -/

@[simp] theorem State.faultFor_timeCount (z : ZoneId) (s : State) (m : Master) :
    (State.faultFor z s m).timeCount = s.timeCount := by unfold State.faultFor; split <;> simp
@[simp] theorem State.faultFor_queue (z : ZoneId) (s : State) (m : Master) :
    (State.faultFor z s m).queue = s.queue := by unfold State.faultFor; split <;> simp
@[simp] theorem State.faultFor_banks (z : ZoneId) (s : State) (m : Master) :
    (State.faultFor z s m).banks = s.banks := by unfold State.faultFor; split <;> simp
@[simp] theorem State.faultFor_zones (z : ZoneId) (s : State) (m : Master) :
    (State.faultFor z s m).zones = s.zones := by unfold State.faultFor; split <;> simp
@[simp] theorem State.faultFor_changeSets (z : ZoneId) (s : State) (m : Master) :
    (State.faultFor z s m).changeSets = s.changeSets := by unfold State.faultFor; split <;> simp
@[simp] theorem State.faultFor_lastServed (z : ZoneId) (s : State) (m : Master) :
    (State.faultFor z s m).lastServed = s.lastServed := by unfold State.faultFor; split <;> simp
@[simp] theorem State.faultFor_chosen (z : ZoneId) (s : State) (m : Master) :
    (State.faultFor z s m).chosen = s.chosen := by unfold State.faultFor; split <;> simp
@[simp] theorem State.faultFor_sessions (z : ZoneId) (s : State) (m : Master) :
    (State.faultFor z s m).sessions = s.sessions := by unfold State.faultFor; split <;> simp
@[simp] theorem State.faultFor_inputs (z : ZoneId) (s : State) (m : Master) :
    (State.faultFor z s m).inputs = s.inputs := by unfold State.faultFor; split <;> simp
@[simp] theorem State.faultFor_nextSerial (z : ZoneId) (s : State) (m : Master) :
    (State.faultFor z s m).nextSerial = s.nextSerial := by unfold State.faultFor; split <;> simp
@[simp] theorem State.faultFor_ring (z : ZoneId) (s : State) (m : Master) :
    (State.faultFor z s m).ring = s.ring := by unfold State.faultFor; split <;> simp
@[simp] theorem State.faultFor_ports (z : ZoneId) (s : State) (m : Master) :
    (State.faultFor z s m).ports = s.ports := by unfold State.faultFor; split <;> simp
@[simp] theorem State.faultFor_device (z : ZoneId) (s : State) (m : Master) :
    (State.faultFor z s m).device = s.device := by unfold State.faultFor; split <;> simp
@[simp] theorem State.faultFor_resetCause (z : ZoneId) (s : State) (m : Master) :
    (State.faultFor z s m).resetCause = s.resetCause := by unfold State.faultFor; split <;> simp
@[simp] theorem State.faultFor_cfg (z : ZoneId) (s : State) (m : Master) :
    (State.faultFor z s m).cfg = s.cfg := by unfold State.faultFor; split <;> simp
@[simp] theorem State.faultFor_startupStore (z : ZoneId) (s : State) (m : Master) :
    (State.faultFor z s m).startupStore = s.startupStore := by unfold State.faultFor; split <;> simp
@[simp] theorem State.faultFor_presentStore (z : ZoneId) (s : State) (m : Master) :
    (State.faultFor z s m).presentStore = s.presentStore := by unfold State.faultFor; split <;> simp
@[simp] theorem State.faultFor_store (z : ZoneId) (s : State) (m : Master) :
    (State.faultFor z s m).store = s.store := by unfold State.faultFor; split <;> simp
@[simp] theorem State.faultFor_config (z : ZoneId) (s : State) (m : Master) :
    (State.faultFor z s m).config = s.config := by unfold State.faultFor; split <;> simp
@[simp] theorem State.faultFor_source (z : ZoneId) (s : State) (m : Master) :
    (State.faultFor z s m).source = s.source := by unfold State.faultFor; split <;> simp
@[simp] theorem State.faultFor_pending (z : ZoneId) (s : State) (m : Master) :
    (State.faultFor z s m).pending = s.pending := by unfold State.faultFor; split <;> simp

/-! ### faultHolder -/

@[simp] theorem State.faultHolder_timeCount (s : State) (z : ZoneId) (o : Option Master) :
    (s.faultHolder z o).timeCount = s.timeCount := by cases o <;> simp [State.faultHolder]
@[simp] theorem State.faultHolder_banks (s : State) (z : ZoneId) (o : Option Master) :
    (s.faultHolder z o).banks = s.banks := by cases o <;> simp [State.faultHolder]
@[simp] theorem State.faultHolder_zones (s : State) (z : ZoneId) (o : Option Master) :
    (s.faultHolder z o).zones = s.zones := by cases o <;> simp [State.faultHolder]
@[simp] theorem State.faultHolder_changeSets (s : State) (z : ZoneId) (o : Option Master) :
    (s.faultHolder z o).changeSets = s.changeSets := by cases o <;> simp [State.faultHolder]
@[simp] theorem State.faultHolder_lastServed (s : State) (z : ZoneId) (o : Option Master) :
    (s.faultHolder z o).lastServed = s.lastServed := by cases o <;> simp [State.faultHolder]
@[simp] theorem State.faultHolder_chosen (s : State) (z : ZoneId) (o : Option Master) :
    (s.faultHolder z o).chosen = s.chosen := by cases o <;> simp [State.faultHolder]
@[simp] theorem State.faultHolder_sessions (s : State) (z : ZoneId) (o : Option Master) :
    (s.faultHolder z o).sessions = s.sessions := by cases o <;> simp [State.faultHolder]
@[simp] theorem State.faultHolder_inputs (s : State) (z : ZoneId) (o : Option Master) :
    (s.faultHolder z o).inputs = s.inputs := by cases o <;> simp [State.faultHolder]
@[simp] theorem State.faultHolder_nextSerial (s : State) (z : ZoneId) (o : Option Master) :
    (s.faultHolder z o).nextSerial = s.nextSerial := by cases o <;> simp [State.faultHolder]
@[simp] theorem State.faultHolder_ring (s : State) (z : ZoneId) (o : Option Master) :
    (s.faultHolder z o).ring = s.ring := by cases o <;> simp [State.faultHolder]
@[simp] theorem State.faultHolder_ports (s : State) (z : ZoneId) (o : Option Master) :
    (s.faultHolder z o).ports = s.ports := by cases o <;> simp [State.faultHolder]
@[simp] theorem State.faultHolder_device (s : State) (z : ZoneId) (o : Option Master) :
    (s.faultHolder z o).device = s.device := by cases o <;> simp [State.faultHolder]
@[simp] theorem State.faultHolder_resetCause (s : State) (z : ZoneId) (o : Option Master) :
    (s.faultHolder z o).resetCause = s.resetCause := by cases o <;> simp [State.faultHolder]
@[simp] theorem State.faultHolder_cfg (s : State) (z : ZoneId) (o : Option Master) :
    (s.faultHolder z o).cfg = s.cfg := by cases o <;> simp [State.faultHolder]
@[simp] theorem State.faultHolder_startupStore (s : State) (z : ZoneId) (o : Option Master) :
    (s.faultHolder z o).startupStore = s.startupStore := by cases o <;> simp [State.faultHolder]
@[simp] theorem State.faultHolder_presentStore (s : State) (z : ZoneId) (o : Option Master) :
    (s.faultHolder z o).presentStore = s.presentStore := by cases o <;> simp [State.faultHolder]
@[simp] theorem State.faultHolder_store (s : State) (z : ZoneId) (o : Option Master) :
    (s.faultHolder z o).store = s.store := by cases o <;> simp [State.faultHolder]
@[simp] theorem State.faultHolder_config (s : State) (z : ZoneId) (o : Option Master) :
    (s.faultHolder z o).config = s.config := by cases o <;> simp [State.faultHolder]
@[simp] theorem State.faultHolder_source (s : State) (z : ZoneId) (o : Option Master) :
    (s.faultHolder z o).source = s.source := by cases o <;> simp [State.faultHolder]
@[simp] theorem State.faultHolder_pending (s : State) (z : ZoneId) (o : Option Master) :
    (s.faultHolder z o).pending = s.pending := by cases o <;> simp [State.faultHolder]

/-! ### faultRequester -/

@[simp] theorem State.faultRequester_timeCount (s : State) (z : ZoneId) (o : Option Pending) :
    (s.faultRequester z o).timeCount = s.timeCount := by cases o <;> simp [State.faultRequester]
@[simp] theorem State.faultRequester_queue (s : State) (z : ZoneId) (o : Option Pending) :
    (s.faultRequester z o).queue = s.queue := by cases o <;> simp [State.faultRequester]
@[simp] theorem State.faultRequester_banks (s : State) (z : ZoneId) (o : Option Pending) :
    (s.faultRequester z o).banks = s.banks := by cases o <;> simp [State.faultRequester]
@[simp] theorem State.faultRequester_zones (s : State) (z : ZoneId) (o : Option Pending) :
    (s.faultRequester z o).zones = s.zones := by cases o <;> simp [State.faultRequester]
@[simp] theorem State.faultRequester_changeSets (s : State) (z : ZoneId) (o : Option Pending) :
    (s.faultRequester z o).changeSets = s.changeSets := by cases o <;> simp [State.faultRequester]
@[simp] theorem State.faultRequester_lastServed (s : State) (z : ZoneId) (o : Option Pending) :
    (s.faultRequester z o).lastServed = s.lastServed := by cases o <;> simp [State.faultRequester]
@[simp] theorem State.faultRequester_chosen (s : State) (z : ZoneId) (o : Option Pending) :
    (s.faultRequester z o).chosen = s.chosen := by cases o <;> simp [State.faultRequester]
@[simp] theorem State.faultRequester_sessions (s : State) (z : ZoneId) (o : Option Pending) :
    (s.faultRequester z o).sessions = s.sessions := by cases o <;> simp [State.faultRequester]
@[simp] theorem State.faultRequester_inputs (s : State) (z : ZoneId) (o : Option Pending) :
    (s.faultRequester z o).inputs = s.inputs := by cases o <;> simp [State.faultRequester]
@[simp] theorem State.faultRequester_nextSerial (s : State) (z : ZoneId) (o : Option Pending) :
    (s.faultRequester z o).nextSerial = s.nextSerial := by cases o <;> simp [State.faultRequester]
@[simp] theorem State.faultRequester_ring (s : State) (z : ZoneId) (o : Option Pending) :
    (s.faultRequester z o).ring = s.ring := by cases o <;> simp [State.faultRequester]
@[simp] theorem State.faultRequester_ports (s : State) (z : ZoneId) (o : Option Pending) :
    (s.faultRequester z o).ports = s.ports := by cases o <;> simp [State.faultRequester]
@[simp] theorem State.faultRequester_device (s : State) (z : ZoneId) (o : Option Pending) :
    (s.faultRequester z o).device = s.device := by cases o <;> simp [State.faultRequester]
@[simp] theorem State.faultRequester_resetCause (s : State) (z : ZoneId) (o : Option Pending) :
    (s.faultRequester z o).resetCause = s.resetCause := by cases o <;> simp [State.faultRequester]
@[simp] theorem State.faultRequester_cfg (s : State) (z : ZoneId) (o : Option Pending) :
    (s.faultRequester z o).cfg = s.cfg := by cases o <;> simp [State.faultRequester]
@[simp] theorem State.faultRequester_startupStore (s : State) (z : ZoneId) (o : Option Pending) :
    (s.faultRequester z o).startupStore = s.startupStore := by cases o <;> simp [State.faultRequester]
@[simp] theorem State.faultRequester_presentStore (s : State) (z : ZoneId) (o : Option Pending) :
    (s.faultRequester z o).presentStore = s.presentStore := by cases o <;> simp [State.faultRequester]
@[simp] theorem State.faultRequester_store (s : State) (z : ZoneId) (o : Option Pending) :
    (s.faultRequester z o).store = s.store := by cases o <;> simp [State.faultRequester]
@[simp] theorem State.faultRequester_config (s : State) (z : ZoneId) (o : Option Pending) :
    (s.faultRequester z o).config = s.config := by cases o <;> simp [State.faultRequester]
@[simp] theorem State.faultRequester_source (s : State) (z : ZoneId) (o : Option Pending) :
    (s.faultRequester z o).source = s.source := by cases o <;> simp [State.faultRequester]
@[simp] theorem State.faultRequester_pending (s : State) (z : ZoneId) (o : Option Pending) :
    (s.faultRequester z o).pending = s.pending := by cases o <;> simp [State.faultRequester]

/-! ### faultZone -/

@[simp] theorem State.faultZone_timeCount (s : State) (z : ZoneId) :
    (s.faultZone z).timeCount = s.timeCount := by
  unfold State.faultZone
  exact (foldl_keeps State.timeCount _ (fun _ _ => by simp) _ _).trans (by simp)
@[simp] theorem State.faultZone_banks (s : State) (z : ZoneId) :
    (s.faultZone z).banks = s.banks := by
  unfold State.faultZone
  exact (foldl_keeps State.banks _ (fun _ _ => by simp) _ _).trans (by simp)
@[simp] theorem State.faultZone_lastServed (s : State) (z : ZoneId) :
    (s.faultZone z).lastServed = s.lastServed := by
  unfold State.faultZone
  exact (foldl_keeps State.lastServed _ (fun _ _ => by simp) _ _).trans (by simp)
@[simp] theorem State.faultZone_chosen (s : State) (z : ZoneId) :
    (s.faultZone z).chosen = s.chosen := by
  unfold State.faultZone
  exact (foldl_keeps State.chosen _ (fun _ _ => by simp) _ _).trans (by simp)
@[simp] theorem State.faultZone_inputs (s : State) (z : ZoneId) :
    (s.faultZone z).inputs = s.inputs := by
  unfold State.faultZone
  exact (foldl_keeps State.inputs _ (fun _ _ => by simp) _ _).trans (by simp)
@[simp] theorem State.faultZone_nextSerial (s : State) (z : ZoneId) :
    (s.faultZone z).nextSerial = s.nextSerial := by
  unfold State.faultZone
  exact (foldl_keeps State.nextSerial _ (fun _ _ => by simp) _ _).trans (by simp)
@[simp] theorem State.faultZone_ring (s : State) (z : ZoneId) :
    (s.faultZone z).ring = s.ring := by
  unfold State.faultZone
  exact (foldl_keeps State.ring _ (fun _ _ => by simp) _ _).trans (by simp)
@[simp] theorem State.faultZone_ports (s : State) (z : ZoneId) :
    (s.faultZone z).ports = s.ports := by
  unfold State.faultZone
  exact (foldl_keeps State.ports _ (fun _ _ => by simp) _ _).trans (by simp)
@[simp] theorem State.faultZone_device (s : State) (z : ZoneId) :
    (s.faultZone z).device = s.device := by
  unfold State.faultZone
  exact (foldl_keeps State.device _ (fun _ _ => by simp) _ _).trans (by simp)
@[simp] theorem State.faultZone_resetCause (s : State) (z : ZoneId) :
    (s.faultZone z).resetCause = s.resetCause := by
  unfold State.faultZone
  exact (foldl_keeps State.resetCause _ (fun _ _ => by simp) _ _).trans (by simp)
@[simp] theorem State.faultZone_cfg (s : State) (z : ZoneId) :
    (s.faultZone z).cfg = s.cfg := by
  unfold State.faultZone
  exact (foldl_keeps State.cfg _ (fun _ _ => by simp) _ _).trans (by simp)
@[simp] theorem State.faultZone_startupStore (s : State) (z : ZoneId) :
    (s.faultZone z).startupStore = s.startupStore := by
  unfold State.faultZone
  exact (foldl_keeps State.startupStore _ (fun _ _ => by simp) _ _).trans (by simp)
@[simp] theorem State.faultZone_presentStore (s : State) (z : ZoneId) :
    (s.faultZone z).presentStore = s.presentStore := by
  unfold State.faultZone
  exact (foldl_keeps State.presentStore _ (fun _ _ => by simp) _ _).trans (by simp)
@[simp] theorem State.faultZone_store (s : State) (z : ZoneId) :
    (s.faultZone z).store = s.store := by
  unfold State.faultZone
  exact (foldl_keeps State.store _ (fun _ _ => by simp) _ _).trans (by simp)
@[simp] theorem State.faultZone_config (s : State) (z : ZoneId) :
    (s.faultZone z).config = s.config := by
  unfold State.faultZone
  exact (foldl_keeps State.config _ (fun _ _ => by simp) _ _).trans (by simp)
@[simp] theorem State.faultZone_source (s : State) (z : ZoneId) :
    (s.faultZone z).source = s.source := by
  unfold State.faultZone
  exact (foldl_keeps State.source _ (fun _ _ => by simp) _ _).trans (by simp)
@[simp] theorem State.faultZone_pending (s : State) (z : ZoneId) :
    (s.faultZone z).pending = s.pending := by
  unfold State.faultZone
  exact (foldl_keeps State.pending _ (fun _ _ => by simp) _ _).trans (by simp)

/-! ### takeDueEntries -/

@[simp] theorem State.takeDueEntries_timeCount (s : State) :
    (s.takeDueEntries).timeCount = s.timeCount := by
  unfold State.takeDueEntries
  exact (foldl_keeps State.timeCount _ (fun _ _ => by simp) _ _).trans (by simp)
@[simp] theorem State.takeDueEntries_banks (s : State) :
    (s.takeDueEntries).banks = s.banks := by
  unfold State.takeDueEntries
  exact (foldl_keeps State.banks _ (fun _ _ => by simp) _ _).trans (by simp)
@[simp] theorem State.takeDueEntries_changeSets (s : State) :
    (s.takeDueEntries).changeSets = s.changeSets := by
  unfold State.takeDueEntries
  exact (foldl_keeps State.changeSets _ (fun _ _ => by simp) _ _).trans (by simp)
@[simp] theorem State.takeDueEntries_lastServed (s : State) :
    (s.takeDueEntries).lastServed = s.lastServed := by
  unfold State.takeDueEntries
  exact (foldl_keeps State.lastServed _ (fun _ _ => by simp) _ _).trans (by simp)
@[simp] theorem State.takeDueEntries_chosen (s : State) :
    (s.takeDueEntries).chosen = s.chosen := by
  unfold State.takeDueEntries
  exact (foldl_keeps State.chosen _ (fun _ _ => by simp) _ _).trans (by simp)
@[simp] theorem State.takeDueEntries_sessions (s : State) :
    (s.takeDueEntries).sessions = s.sessions := by
  unfold State.takeDueEntries
  exact (foldl_keeps State.sessions _ (fun _ _ => by simp) _ _).trans (by simp)
@[simp] theorem State.takeDueEntries_inputs (s : State) :
    (s.takeDueEntries).inputs = s.inputs := by
  unfold State.takeDueEntries
  exact (foldl_keeps State.inputs _ (fun _ _ => by simp) _ _).trans (by simp)
@[simp] theorem State.takeDueEntries_nextSerial (s : State) :
    (s.takeDueEntries).nextSerial = s.nextSerial := by
  unfold State.takeDueEntries
  exact (foldl_keeps State.nextSerial _ (fun _ _ => by simp) _ _).trans (by simp)
@[simp] theorem State.takeDueEntries_ring (s : State) :
    (s.takeDueEntries).ring = s.ring := by
  unfold State.takeDueEntries
  exact (foldl_keeps State.ring _ (fun _ _ => by simp) _ _).trans (by simp)
@[simp] theorem State.takeDueEntries_ports (s : State) :
    (s.takeDueEntries).ports = s.ports := by
  unfold State.takeDueEntries
  exact (foldl_keeps State.ports _ (fun _ _ => by simp) _ _).trans (by simp)
@[simp] theorem State.takeDueEntries_device (s : State) :
    (s.takeDueEntries).device = s.device := by
  unfold State.takeDueEntries
  exact (foldl_keeps State.device _ (fun _ _ => by simp) _ _).trans (by simp)
@[simp] theorem State.takeDueEntries_resetCause (s : State) :
    (s.takeDueEntries).resetCause = s.resetCause := by
  unfold State.takeDueEntries
  exact (foldl_keeps State.resetCause _ (fun _ _ => by simp) _ _).trans (by simp)
@[simp] theorem State.takeDueEntries_cfg (s : State) :
    (s.takeDueEntries).cfg = s.cfg := by
  unfold State.takeDueEntries
  exact (foldl_keeps State.cfg _ (fun _ _ => by simp) _ _).trans (by simp)
@[simp] theorem State.takeDueEntries_startupStore (s : State) :
    (s.takeDueEntries).startupStore = s.startupStore := by
  unfold State.takeDueEntries
  exact (foldl_keeps State.startupStore _ (fun _ _ => by simp) _ _).trans (by simp)
@[simp] theorem State.takeDueEntries_presentStore (s : State) :
    (s.takeDueEntries).presentStore = s.presentStore := by
  unfold State.takeDueEntries
  exact (foldl_keeps State.presentStore _ (fun _ _ => by simp) _ _).trans (by simp)
@[simp] theorem State.takeDueEntries_store (s : State) :
    (s.takeDueEntries).store = s.store := by
  unfold State.takeDueEntries
  exact (foldl_keeps State.store _ (fun _ _ => by simp) _ _).trans (by simp)
@[simp] theorem State.takeDueEntries_config (s : State) :
    (s.takeDueEntries).config = s.config := by
  unfold State.takeDueEntries
  exact (foldl_keeps State.config _ (fun _ _ => by simp) _ _).trans (by simp)
@[simp] theorem State.takeDueEntries_source (s : State) :
    (s.takeDueEntries).source = s.source := by
  unfold State.takeDueEntries
  exact (foldl_keeps State.source _ (fun _ _ => by simp) _ _).trans (by simp)
@[simp] theorem State.takeDueEntries_pending (s : State) :
    (s.takeDueEntries).pending = s.pending := by
  unfold State.takeDueEntries
  exact (foldl_keeps State.pending _ (fun _ _ => by simp) _ _).trans (by simp)

/-! ### faultOvertaken -/

@[simp] theorem State.faultOvertaken_timeCount (b s : State) (z : ZoneId) :
    (State.faultOvertaken b s z).timeCount = s.timeCount := by unfold State.faultOvertaken; split <;> simp
@[simp] theorem State.faultOvertaken_banks (b s : State) (z : ZoneId) :
    (State.faultOvertaken b s z).banks = s.banks := by unfold State.faultOvertaken; split <;> simp
@[simp] theorem State.faultOvertaken_lastServed (b s : State) (z : ZoneId) :
    (State.faultOvertaken b s z).lastServed = s.lastServed := by unfold State.faultOvertaken; split <;> simp
@[simp] theorem State.faultOvertaken_chosen (b s : State) (z : ZoneId) :
    (State.faultOvertaken b s z).chosen = s.chosen := by unfold State.faultOvertaken; split <;> simp
@[simp] theorem State.faultOvertaken_inputs (b s : State) (z : ZoneId) :
    (State.faultOvertaken b s z).inputs = s.inputs := by unfold State.faultOvertaken; split <;> simp
@[simp] theorem State.faultOvertaken_nextSerial (b s : State) (z : ZoneId) :
    (State.faultOvertaken b s z).nextSerial = s.nextSerial := by unfold State.faultOvertaken; split <;> simp
@[simp] theorem State.faultOvertaken_ring (b s : State) (z : ZoneId) :
    (State.faultOvertaken b s z).ring = s.ring := by unfold State.faultOvertaken; split <;> simp
@[simp] theorem State.faultOvertaken_ports (b s : State) (z : ZoneId) :
    (State.faultOvertaken b s z).ports = s.ports := by unfold State.faultOvertaken; split <;> simp
@[simp] theorem State.faultOvertaken_device (b s : State) (z : ZoneId) :
    (State.faultOvertaken b s z).device = s.device := by unfold State.faultOvertaken; split <;> simp
@[simp] theorem State.faultOvertaken_resetCause (b s : State) (z : ZoneId) :
    (State.faultOvertaken b s z).resetCause = s.resetCause := by unfold State.faultOvertaken; split <;> simp
@[simp] theorem State.faultOvertaken_cfg (b s : State) (z : ZoneId) :
    (State.faultOvertaken b s z).cfg = s.cfg := by unfold State.faultOvertaken; split <;> simp
@[simp] theorem State.faultOvertaken_startupStore (b s : State) (z : ZoneId) :
    (State.faultOvertaken b s z).startupStore = s.startupStore := by unfold State.faultOvertaken; split <;> simp
@[simp] theorem State.faultOvertaken_presentStore (b s : State) (z : ZoneId) :
    (State.faultOvertaken b s z).presentStore = s.presentStore := by unfold State.faultOvertaken; split <;> simp
@[simp] theorem State.faultOvertaken_store (b s : State) (z : ZoneId) :
    (State.faultOvertaken b s z).store = s.store := by unfold State.faultOvertaken; split <;> simp
@[simp] theorem State.faultOvertaken_config (b s : State) (z : ZoneId) :
    (State.faultOvertaken b s z).config = s.config := by unfold State.faultOvertaken; split <;> simp
@[simp] theorem State.faultOvertaken_source (b s : State) (z : ZoneId) :
    (State.faultOvertaken b s z).source = s.source := by unfold State.faultOvertaken; split <;> simp
@[simp] theorem State.faultOvertaken_pending (b s : State) (z : ZoneId) :
    (State.faultOvertaken b s z).pending = s.pending := by unfold State.faultOvertaken; split <;> simp

/-! ### dueEvent -/

@[simp] theorem State.dueEvent_timeCount (s : State) :
    (s.dueEvent).timeCount = s.timeCount := by
  unfold State.dueEvent
  exact (foldl_keeps State.timeCount _ (fun _ _ => by simp) _ _).trans (by simp)
@[simp] theorem State.dueEvent_banks (s : State) :
    (s.dueEvent).banks = s.banks := by
  unfold State.dueEvent
  exact (foldl_keeps State.banks _ (fun _ _ => by simp) _ _).trans (by simp)
@[simp] theorem State.dueEvent_lastServed (s : State) :
    (s.dueEvent).lastServed = s.lastServed := by
  unfold State.dueEvent
  exact (foldl_keeps State.lastServed _ (fun _ _ => by simp) _ _).trans (by simp)
@[simp] theorem State.dueEvent_chosen (s : State) :
    (s.dueEvent).chosen = s.chosen := by
  unfold State.dueEvent
  exact (foldl_keeps State.chosen _ (fun _ _ => by simp) _ _).trans (by simp)
@[simp] theorem State.dueEvent_inputs (s : State) :
    (s.dueEvent).inputs = s.inputs := by
  unfold State.dueEvent
  exact (foldl_keeps State.inputs _ (fun _ _ => by simp) _ _).trans (by simp)
@[simp] theorem State.dueEvent_nextSerial (s : State) :
    (s.dueEvent).nextSerial = s.nextSerial := by
  unfold State.dueEvent
  exact (foldl_keeps State.nextSerial _ (fun _ _ => by simp) _ _).trans (by simp)
@[simp] theorem State.dueEvent_ring (s : State) :
    (s.dueEvent).ring = s.ring := by
  unfold State.dueEvent
  exact (foldl_keeps State.ring _ (fun _ _ => by simp) _ _).trans (by simp)
@[simp] theorem State.dueEvent_ports (s : State) :
    (s.dueEvent).ports = s.ports := by
  unfold State.dueEvent
  exact (foldl_keeps State.ports _ (fun _ _ => by simp) _ _).trans (by simp)
@[simp] theorem State.dueEvent_device (s : State) :
    (s.dueEvent).device = s.device := by
  unfold State.dueEvent
  exact (foldl_keeps State.device _ (fun _ _ => by simp) _ _).trans (by simp)
@[simp] theorem State.dueEvent_resetCause (s : State) :
    (s.dueEvent).resetCause = s.resetCause := by
  unfold State.dueEvent
  exact (foldl_keeps State.resetCause _ (fun _ _ => by simp) _ _).trans (by simp)
@[simp] theorem State.dueEvent_cfg (s : State) :
    (s.dueEvent).cfg = s.cfg := by
  unfold State.dueEvent
  exact (foldl_keeps State.cfg _ (fun _ _ => by simp) _ _).trans (by simp)
@[simp] theorem State.dueEvent_startupStore (s : State) :
    (s.dueEvent).startupStore = s.startupStore := by
  unfold State.dueEvent
  exact (foldl_keeps State.startupStore _ (fun _ _ => by simp) _ _).trans (by simp)
@[simp] theorem State.dueEvent_presentStore (s : State) :
    (s.dueEvent).presentStore = s.presentStore := by
  unfold State.dueEvent
  exact (foldl_keeps State.presentStore _ (fun _ _ => by simp) _ _).trans (by simp)
@[simp] theorem State.dueEvent_store (s : State) :
    (s.dueEvent).store = s.store := by
  unfold State.dueEvent
  exact (foldl_keeps State.store _ (fun _ _ => by simp) _ _).trans (by simp)
@[simp] theorem State.dueEvent_config (s : State) :
    (s.dueEvent).config = s.config := by
  unfold State.dueEvent
  exact (foldl_keeps State.config _ (fun _ _ => by simp) _ _).trans (by simp)
@[simp] theorem State.dueEvent_source (s : State) :
    (s.dueEvent).source = s.source := by
  unfold State.dueEvent
  exact (foldl_keeps State.source _ (fun _ _ => by simp) _ _).trans (by simp)
@[simp] theorem State.dueEvent_pending (s : State) :
    (s.dueEvent).pending = s.pending := by
  unfold State.dueEvent
  exact (foldl_keeps State.pending _ (fun _ _ => by simp) _ _).trans (by simp)

/-! ### transferTo -/

@[simp] theorem State.transferTo_timeCount (s : State) (z : ZoneId) (m : Master) :
    (s.transferTo z m).timeCount = s.timeCount := by simp [State.transferTo]
@[simp] theorem State.transferTo_queue (s : State) (z : ZoneId) (m : Master) :
    (s.transferTo z m).queue = s.queue := by simp [State.transferTo]
@[simp] theorem State.transferTo_banks (s : State) (z : ZoneId) (m : Master) :
    (s.transferTo z m).banks = s.banks := by simp [State.transferTo]
@[simp] theorem State.transferTo_lastServed (s : State) (z : ZoneId) (m : Master) :
    (s.transferTo z m).lastServed = s.lastServed := by simp [State.transferTo]
@[simp] theorem State.transferTo_chosen (s : State) (z : ZoneId) (m : Master) :
    (s.transferTo z m).chosen = s.chosen := by simp [State.transferTo]
@[simp] theorem State.transferTo_inputs (s : State) (z : ZoneId) (m : Master) :
    (s.transferTo z m).inputs = s.inputs := by simp [State.transferTo]
@[simp] theorem State.transferTo_nextSerial (s : State) (z : ZoneId) (m : Master) :
    (s.transferTo z m).nextSerial = s.nextSerial := by simp [State.transferTo]
@[simp] theorem State.transferTo_ring (s : State) (z : ZoneId) (m : Master) :
    (s.transferTo z m).ring = s.ring := by simp [State.transferTo]
@[simp] theorem State.transferTo_ports (s : State) (z : ZoneId) (m : Master) :
    (s.transferTo z m).ports = s.ports := by simp [State.transferTo]
@[simp] theorem State.transferTo_device (s : State) (z : ZoneId) (m : Master) :
    (s.transferTo z m).device = s.device := by simp [State.transferTo]
@[simp] theorem State.transferTo_resetCause (s : State) (z : ZoneId) (m : Master) :
    (s.transferTo z m).resetCause = s.resetCause := by simp [State.transferTo]
@[simp] theorem State.transferTo_cfg (s : State) (z : ZoneId) (m : Master) :
    (s.transferTo z m).cfg = s.cfg := by simp [State.transferTo]
@[simp] theorem State.transferTo_startupStore (s : State) (z : ZoneId) (m : Master) :
    (s.transferTo z m).startupStore = s.startupStore := by simp [State.transferTo]
@[simp] theorem State.transferTo_presentStore (s : State) (z : ZoneId) (m : Master) :
    (s.transferTo z m).presentStore = s.presentStore := by simp [State.transferTo]
@[simp] theorem State.transferTo_store (s : State) (z : ZoneId) (m : Master) :
    (s.transferTo z m).store = s.store := by simp [State.transferTo]
@[simp] theorem State.transferTo_config (s : State) (z : ZoneId) (m : Master) :
    (s.transferTo z m).config = s.config := by simp [State.transferTo]
@[simp] theorem State.transferTo_source (s : State) (z : ZoneId) (m : Master) :
    (s.transferTo z m).source = s.source := by simp [State.transferTo]
@[simp] theorem State.transferTo_pending (s : State) (z : ZoneId) (m : Master) :
    (s.transferTo z m).pending = s.pending := by simp [State.transferTo]

/-! ### endRequest -/

@[simp] theorem State.endRequest_timeCount (s : State) (z : ZoneId) (m : Master) :
    (s.endRequest z m).timeCount = s.timeCount := by simp [State.endRequest]
@[simp] theorem State.endRequest_queue (s : State) (z : ZoneId) (m : Master) :
    (s.endRequest z m).queue = s.queue := by simp [State.endRequest]
@[simp] theorem State.endRequest_banks (s : State) (z : ZoneId) (m : Master) :
    (s.endRequest z m).banks = s.banks := by simp [State.endRequest]
@[simp] theorem State.endRequest_lastServed (s : State) (z : ZoneId) (m : Master) :
    (s.endRequest z m).lastServed = s.lastServed := by simp [State.endRequest]
@[simp] theorem State.endRequest_chosen (s : State) (z : ZoneId) (m : Master) :
    (s.endRequest z m).chosen = s.chosen := by simp [State.endRequest]
@[simp] theorem State.endRequest_inputs (s : State) (z : ZoneId) (m : Master) :
    (s.endRequest z m).inputs = s.inputs := by simp [State.endRequest]
@[simp] theorem State.endRequest_nextSerial (s : State) (z : ZoneId) (m : Master) :
    (s.endRequest z m).nextSerial = s.nextSerial := by simp [State.endRequest]
@[simp] theorem State.endRequest_ring (s : State) (z : ZoneId) (m : Master) :
    (s.endRequest z m).ring = s.ring := by simp [State.endRequest]
@[simp] theorem State.endRequest_ports (s : State) (z : ZoneId) (m : Master) :
    (s.endRequest z m).ports = s.ports := by simp [State.endRequest]
@[simp] theorem State.endRequest_device (s : State) (z : ZoneId) (m : Master) :
    (s.endRequest z m).device = s.device := by simp [State.endRequest]
@[simp] theorem State.endRequest_resetCause (s : State) (z : ZoneId) (m : Master) :
    (s.endRequest z m).resetCause = s.resetCause := by simp [State.endRequest]
@[simp] theorem State.endRequest_cfg (s : State) (z : ZoneId) (m : Master) :
    (s.endRequest z m).cfg = s.cfg := by simp [State.endRequest]
@[simp] theorem State.endRequest_startupStore (s : State) (z : ZoneId) (m : Master) :
    (s.endRequest z m).startupStore = s.startupStore := by simp [State.endRequest]
@[simp] theorem State.endRequest_presentStore (s : State) (z : ZoneId) (m : Master) :
    (s.endRequest z m).presentStore = s.presentStore := by simp [State.endRequest]
@[simp] theorem State.endRequest_store (s : State) (z : ZoneId) (m : Master) :
    (s.endRequest z m).store = s.store := by simp [State.endRequest]
@[simp] theorem State.endRequest_config (s : State) (z : ZoneId) (m : Master) :
    (s.endRequest z m).config = s.config := by simp [State.endRequest]
@[simp] theorem State.endRequest_source (s : State) (z : ZoneId) (m : Master) :
    (s.endRequest z m).source = s.source := by simp [State.endRequest]
@[simp] theorem State.endRequest_pending (s : State) (z : ZoneId) (m : Master) :
    (s.endRequest z m).pending = s.pending := by simp [State.endRequest]

/-! ### tellGranted -/

@[simp] theorem State.tellGranted_timeCount (s : State) (z : ZoneId) (m : Master) (o : HandoverOutcome) (c : GrantCause) :
    (s.tellGranted z m o c).timeCount = s.timeCount := by simp [State.tellGranted]
@[simp] theorem State.tellGranted_queue (s : State) (z : ZoneId) (m : Master) (o : HandoverOutcome) (c : GrantCause) :
    (s.tellGranted z m o c).queue = s.queue := by simp [State.tellGranted]
@[simp] theorem State.tellGranted_banks (s : State) (z : ZoneId) (m : Master) (o : HandoverOutcome) (c : GrantCause) :
    (s.tellGranted z m o c).banks = s.banks := by simp [State.tellGranted]
@[simp] theorem State.tellGranted_zones (s : State) (z : ZoneId) (m : Master) (o : HandoverOutcome) (c : GrantCause) :
    (s.tellGranted z m o c).zones = s.zones := by simp [State.tellGranted]
@[simp] theorem State.tellGranted_changeSets (s : State) (z : ZoneId) (m : Master) (o : HandoverOutcome) (c : GrantCause) :
    (s.tellGranted z m o c).changeSets = s.changeSets := by simp [State.tellGranted]
@[simp] theorem State.tellGranted_lastServed (s : State) (z : ZoneId) (m : Master) (o : HandoverOutcome) (c : GrantCause) :
    (s.tellGranted z m o c).lastServed = s.lastServed := by simp [State.tellGranted]
@[simp] theorem State.tellGranted_chosen (s : State) (z : ZoneId) (m : Master) (o : HandoverOutcome) (c : GrantCause) :
    (s.tellGranted z m o c).chosen = s.chosen := by simp [State.tellGranted]
@[simp] theorem State.tellGranted_sessions (s : State) (z : ZoneId) (m : Master) (o : HandoverOutcome) (c : GrantCause) :
    (s.tellGranted z m o c).sessions = s.sessions := by simp [State.tellGranted]
@[simp] theorem State.tellGranted_inputs (s : State) (z : ZoneId) (m : Master) (o : HandoverOutcome) (c : GrantCause) :
    (s.tellGranted z m o c).inputs = s.inputs := by simp [State.tellGranted]
@[simp] theorem State.tellGranted_nextSerial (s : State) (z : ZoneId) (m : Master) (o : HandoverOutcome) (c : GrantCause) :
    (s.tellGranted z m o c).nextSerial = s.nextSerial := by simp [State.tellGranted]
@[simp] theorem State.tellGranted_ring (s : State) (z : ZoneId) (m : Master) (o : HandoverOutcome) (c : GrantCause) :
    (s.tellGranted z m o c).ring = s.ring := by simp [State.tellGranted]
@[simp] theorem State.tellGranted_ports (s : State) (z : ZoneId) (m : Master) (o : HandoverOutcome) (c : GrantCause) :
    (s.tellGranted z m o c).ports = s.ports := by simp [State.tellGranted]
@[simp] theorem State.tellGranted_device (s : State) (z : ZoneId) (m : Master) (o : HandoverOutcome) (c : GrantCause) :
    (s.tellGranted z m o c).device = s.device := by simp [State.tellGranted]
@[simp] theorem State.tellGranted_resetCause (s : State) (z : ZoneId) (m : Master) (o : HandoverOutcome) (c : GrantCause) :
    (s.tellGranted z m o c).resetCause = s.resetCause := by simp [State.tellGranted]
@[simp] theorem State.tellGranted_cfg (s : State) (z : ZoneId) (m : Master) (o : HandoverOutcome) (c : GrantCause) :
    (s.tellGranted z m o c).cfg = s.cfg := by simp [State.tellGranted]
@[simp] theorem State.tellGranted_startupStore (s : State) (z : ZoneId) (m : Master) (o : HandoverOutcome) (c : GrantCause) :
    (s.tellGranted z m o c).startupStore = s.startupStore := by simp [State.tellGranted]
@[simp] theorem State.tellGranted_presentStore (s : State) (z : ZoneId) (m : Master) (o : HandoverOutcome) (c : GrantCause) :
    (s.tellGranted z m o c).presentStore = s.presentStore := by simp [State.tellGranted]
@[simp] theorem State.tellGranted_store (s : State) (z : ZoneId) (m : Master) (o : HandoverOutcome) (c : GrantCause) :
    (s.tellGranted z m o c).store = s.store := by simp [State.tellGranted]
@[simp] theorem State.tellGranted_config (s : State) (z : ZoneId) (m : Master) (o : HandoverOutcome) (c : GrantCause) :
    (s.tellGranted z m o c).config = s.config := by simp [State.tellGranted]
@[simp] theorem State.tellGranted_source (s : State) (z : ZoneId) (m : Master) (o : HandoverOutcome) (c : GrantCause) :
    (s.tellGranted z m o c).source = s.source := by simp [State.tellGranted]
@[simp] theorem State.tellGranted_pending (s : State) (z : ZoneId) (m : Master) (o : HandoverOutcome) (c : GrantCause) :
    (s.tellGranted z m o c).pending = s.pending := by simp [State.tellGranted]

/-! ### respond -/

@[simp] theorem State.respond_timeCount (s : State) (m : Master) (r : Response) :
    (s.respond m r).timeCount = s.timeCount := rfl
@[simp] theorem State.respond_queue (s : State) (m : Master) (r : Response) :
    (s.respond m r).queue = s.queue := rfl
@[simp] theorem State.respond_banks (s : State) (m : Master) (r : Response) :
    (s.respond m r).banks = s.banks := rfl
@[simp] theorem State.respond_zones (s : State) (m : Master) (r : Response) :
    (s.respond m r).zones = s.zones := rfl
@[simp] theorem State.respond_changeSets (s : State) (m : Master) (r : Response) :
    (s.respond m r).changeSets = s.changeSets := rfl
@[simp] theorem State.respond_lastServed (s : State) (m : Master) (r : Response) :
    (s.respond m r).lastServed = s.lastServed := rfl
@[simp] theorem State.respond_chosen (s : State) (m : Master) (r : Response) :
    (s.respond m r).chosen = s.chosen := rfl
@[simp] theorem State.respond_sessions (s : State) (m : Master) (r : Response) :
    (s.respond m r).sessions = s.sessions := rfl
@[simp] theorem State.respond_attention (s : State) (m : Master) (r : Response) :
    (s.respond m r).attention = s.attention := rfl
@[simp] theorem State.respond_inputs (s : State) (m : Master) (r : Response) :
    (s.respond m r).inputs = s.inputs := rfl
@[simp] theorem State.respond_nextSerial (s : State) (m : Master) (r : Response) :
    (s.respond m r).nextSerial = s.nextSerial := rfl
@[simp] theorem State.respond_ring (s : State) (m : Master) (r : Response) :
    (s.respond m r).ring = s.ring := rfl
@[simp] theorem State.respond_device (s : State) (m : Master) (r : Response) :
    (s.respond m r).device = s.device := rfl
@[simp] theorem State.respond_resetCause (s : State) (m : Master) (r : Response) :
    (s.respond m r).resetCause = s.resetCause := rfl
@[simp] theorem State.respond_cfg (s : State) (m : Master) (r : Response) :
    (s.respond m r).cfg = s.cfg := rfl
@[simp] theorem State.respond_startupStore (s : State) (m : Master) (r : Response) :
    (s.respond m r).startupStore = s.startupStore := rfl
@[simp] theorem State.respond_presentStore (s : State) (m : Master) (r : Response) :
    (s.respond m r).presentStore = s.presentStore := rfl
@[simp] theorem State.respond_store (s : State) (m : Master) (r : Response) :
    (s.respond m r).store = s.store := rfl
@[simp] theorem State.respond_config (s : State) (m : Master) (r : Response) :
    (s.respond m r).config = s.config := rfl
@[simp] theorem State.respond_source (s : State) (m : Master) (r : Response) :
    (s.respond m r).source = s.source := rfl
@[simp] theorem State.respond_pending (s : State) (m : Master) (r : Response) :
    (s.respond m r).pending = s.pending := rfl

/-! ### finish -/

@[simp] theorem State.finish_timeCount (c : Command) (m : Master) (a : Answer) :
    (State.finish c m a).timeCount = a.state.timeCount := by unfold State.finish; cases c.atTable <;> rfl
@[simp] theorem State.finish_queue (c : Command) (m : Master) (a : Answer) :
    (State.finish c m a).queue = a.state.queue := by unfold State.finish; cases c.atTable <;> rfl
@[simp] theorem State.finish_banks (c : Command) (m : Master) (a : Answer) :
    (State.finish c m a).banks = a.state.banks := by unfold State.finish; cases c.atTable <;> rfl
@[simp] theorem State.finish_zones (c : Command) (m : Master) (a : Answer) :
    (State.finish c m a).zones = a.state.zones := by unfold State.finish; cases c.atTable <;> rfl
@[simp] theorem State.finish_changeSets (c : Command) (m : Master) (a : Answer) :
    (State.finish c m a).changeSets = a.state.changeSets := by unfold State.finish; cases c.atTable <;> rfl
@[simp] theorem State.finish_sessions (c : Command) (m : Master) (a : Answer) :
    (State.finish c m a).sessions = a.state.sessions := by unfold State.finish; cases c.atTable <;> rfl
@[simp] theorem State.finish_attention (c : Command) (m : Master) (a : Answer) :
    (State.finish c m a).attention = a.state.attention := by unfold State.finish; cases c.atTable <;> rfl
@[simp] theorem State.finish_inputs (c : Command) (m : Master) (a : Answer) :
    (State.finish c m a).inputs = a.state.inputs := by unfold State.finish; cases c.atTable <;> rfl
@[simp] theorem State.finish_nextSerial (c : Command) (m : Master) (a : Answer) :
    (State.finish c m a).nextSerial = a.state.nextSerial := by unfold State.finish; cases c.atTable <;> rfl
@[simp] theorem State.finish_ring (c : Command) (m : Master) (a : Answer) :
    (State.finish c m a).ring = a.state.ring := by unfold State.finish; cases c.atTable <;> rfl
@[simp] theorem State.finish_device (c : Command) (m : Master) (a : Answer) :
    (State.finish c m a).device = a.state.device := by unfold State.finish; cases c.atTable <;> rfl
@[simp] theorem State.finish_resetCause (c : Command) (m : Master) (a : Answer) :
    (State.finish c m a).resetCause = a.state.resetCause := by unfold State.finish; cases c.atTable <;> rfl
@[simp] theorem State.finish_cfg (c : Command) (m : Master) (a : Answer) :
    (State.finish c m a).cfg = a.state.cfg := by unfold State.finish; cases c.atTable <;> rfl
@[simp] theorem State.finish_startupStore (c : Command) (m : Master) (a : Answer) :
    (State.finish c m a).startupStore = a.state.startupStore := by unfold State.finish; cases c.atTable <;> rfl
@[simp] theorem State.finish_presentStore (c : Command) (m : Master) (a : Answer) :
    (State.finish c m a).presentStore = a.state.presentStore := by unfold State.finish; cases c.atTable <;> rfl
@[simp] theorem State.finish_store (c : Command) (m : Master) (a : Answer) :
    (State.finish c m a).store = a.state.store := by unfold State.finish; cases c.atTable <;> rfl
@[simp] theorem State.finish_config (c : Command) (m : Master) (a : Answer) :
    (State.finish c m a).config = a.state.config := by unfold State.finish; cases c.atTable <;> rfl
@[simp] theorem State.finish_source (c : Command) (m : Master) (a : Answer) :
    (State.finish c m a).source = a.state.source := by unfold State.finish; cases c.atTable <;> rfl
@[simp] theorem State.finish_pending (c : Command) (m : Master) (a : Answer) :
    (State.finish c m a).pending = a.state.pending := by unfold State.finish; cases c.atTable <;> rfl

/-! ### passTurn -/

@[simp] theorem State.passTurn_timeCount (s : State) (m : Master) :
    (s.passTurn m).timeCount = s.timeCount := rfl
@[simp] theorem State.passTurn_queue (s : State) (m : Master) :
    (s.passTurn m).queue = s.queue := rfl
@[simp] theorem State.passTurn_banks (s : State) (m : Master) :
    (s.passTurn m).banks = s.banks := rfl
@[simp] theorem State.passTurn_zones (s : State) (m : Master) :
    (s.passTurn m).zones = s.zones := rfl
@[simp] theorem State.passTurn_changeSets (s : State) (m : Master) :
    (s.passTurn m).changeSets = s.changeSets := rfl
@[simp] theorem State.passTurn_sessions (s : State) (m : Master) :
    (s.passTurn m).sessions = s.sessions := rfl
@[simp] theorem State.passTurn_attention (s : State) (m : Master) :
    (s.passTurn m).attention = s.attention := rfl
@[simp] theorem State.passTurn_inputs (s : State) (m : Master) :
    (s.passTurn m).inputs = s.inputs := rfl
@[simp] theorem State.passTurn_nextSerial (s : State) (m : Master) :
    (s.passTurn m).nextSerial = s.nextSerial := rfl
@[simp] theorem State.passTurn_ring (s : State) (m : Master) :
    (s.passTurn m).ring = s.ring := rfl
@[simp] theorem State.passTurn_ports (s : State) (m : Master) :
    (s.passTurn m).ports = s.ports := rfl
@[simp] theorem State.passTurn_device (s : State) (m : Master) :
    (s.passTurn m).device = s.device := rfl
@[simp] theorem State.passTurn_resetCause (s : State) (m : Master) :
    (s.passTurn m).resetCause = s.resetCause := rfl
@[simp] theorem State.passTurn_cfg (s : State) (m : Master) :
    (s.passTurn m).cfg = s.cfg := rfl
@[simp] theorem State.passTurn_startupStore (s : State) (m : Master) :
    (s.passTurn m).startupStore = s.startupStore := rfl
@[simp] theorem State.passTurn_presentStore (s : State) (m : Master) :
    (s.passTurn m).presentStore = s.presentStore := rfl
@[simp] theorem State.passTurn_store (s : State) (m : Master) :
    (s.passTurn m).store = s.store := rfl
@[simp] theorem State.passTurn_config (s : State) (m : Master) :
    (s.passTurn m).config = s.config := rfl
@[simp] theorem State.passTurn_source (s : State) (m : Master) :
    (s.passTurn m).source = s.source := rfl
@[simp] theorem State.passTurn_pending (s : State) (m : Master) :
    (s.passTurn m).pending = s.pending := rfl

end Sys2Proof.Machine
end

