-- ==== Sys2Proof/Laws/Service.lean ====
section
/-! SUPPORT. What the shared operations do to the parts they touch: reading a vector after an update, signals, change
sets, AUTO timers, zone records, removed entries, and the service of a request. -/

namespace Sys2Proof.Machine

/-! ### Vectors -/

theorem at_set {α : Type} {n : Nat} (v : Vector α n) (i j : Fin n) (x : α) :
    (v.set i x)[j] = if i = j then x else v[j] := by
  simp [Vector.getElem_set, Fin.ext_iff]

theorem at_set_self {α : Type} {n : Nat} (v : Vector α n) (i : Fin n) (x : α) : (v.set i x)[i] = x := by
  simp

theorem at_set_ne {α : Type} {n : Nat} (v : Vector α n) {i j : Fin n} (h : i ≠ j) (x : α) :
    (v.set i x)[j] = v[j] := by
  rw [at_set, if_neg h]

theorem set_at_self {α : Type} {n : Nat} (v : Vector α n) (i : Fin n) : v.set i v[i] = v := by
  simp

theorem mem_allMasters (m : Master) : m ∈ allMasters := by revert m; decide

theorem mem_allZones (z : ZoneId) : z ∈ allZones := by revert z; decide

theorem mem_allInputs (i : InputId) : i ∈ allInputs := by revert i; decide

/-! ### Signals -/

theorem State.signal_attention (s : State) (m n : Master) (e : Signal) :
    (s.signal m e).attention[n] =
      if m = n ∧ s.sessions[m].standing ≠ .detached then s.attention[n].after e else s.attention[n] := by
  unfold State.signal
  split
  · rename_i h; simp [-Fin.getElem_fin, h]
  · rename_i h
    simp only [State.withAttention_attention, at_set]
    by_cases hm : m = n
    · subst hm
      rw [if_pos rfl, if_pos ⟨rfl, fun hd => h hd⟩]
    · simp [hm]

/-! ### Change sets -/

theorem State.noteFor_changeSets (z : ZoneId) (s : State) (m n : Master) :
    (State.noteFor z s m).changeSets[n] = if m = n then s.notedSet z n else s.changeSets[n] := by
  unfold State.noteFor State.notedSet
  by_cases hm : m = n
  · subst hm; split <;> simp [-Fin.getElem_fin, at_set]
  · simp only [hm, if_false]
    split
    · split <;> simp [-Fin.getElem_fin, at_set, hm]
    · rfl

theorem State.noteFor_attention (z : ZoneId) (s : State) (m n : Master) :
    (State.noteFor z s m).attention[n] = if m = n then s.noted n else s.attention[n] := by
  unfold State.noteFor State.noted
  by_cases ha : s.isAttached m = true
  · have hd : s.sessions[m].standing ≠ .detached := by
      intro h; simp [-Fin.getElem_fin, State.isAttached, Standing.isAttached, h] at ha
    by_cases hm : m = n
    · subst hm
      by_cases hc : s.changeSets[m] = 0
      · simp only [ha, hc, if_true, State.withChangeSet_attention, State.signal_attention, ne_eq, hd, not_false_eq_true,
          and_self]
      · simp only [ha, hc, if_true, if_false, State.withChangeSet_attention, and_false]
    · by_cases hc : s.changeSets[m] = 0
      · simp only [ha, hc, if_true, State.withChangeSet_attention, State.signal_attention, hm, false_and, if_false]
      · simp only [ha, hc, if_true, if_false, State.withChangeSet_attention, hm]
  · by_cases hm : m = n
    · subst hm; simp [ha]
    · simp [ha, hm]

theorem State.noteFor_notedSet (z : ZoneId) (s : State) (m n : Master) (h : m ≠ n) :
    (State.noteFor z s m).notedSet z n = s.notedSet z n := by
  simp only [State.notedSet, State.isAttached, State.noteFor_sessions, State.noteFor_changeSets, h, if_false]
  exact if_congr Iff.rfl rfl rfl

@[simp] theorem State.noteFor_isAttached (z : ZoneId) (s : State) (m n : Master) :
    (State.noteFor z s m).isAttached n = s.isAttached n := by
  simp [State.isAttached]

theorem State.noteChange_changeSets (s : State) (z : ZoneId) (n : Master) :
    (s.noteChange z).changeSets[n] = s.notedSet z n := by
  have key : ∀ (l : List Master) (t : State), l.Nodup → t.sessions = s.sessions →
      (∀ k ∈ l, t.changeSets[k] = s.changeSets[k]) →
      (l.foldl (State.noteFor z) t).changeSets[n] = if n ∈ l then s.notedSet z n else t.changeSets[n] := by
    intro l
    induction l with
    | nil => intro t _ _ _; simp
    | cons a l ih =>
      intro t hl hs hc
      have hmem := List.nodup_cons.mp hl
      rw [List.foldl_cons]
      rw [ih _ hmem.2 (by simp [hs])
        (by
          intro k hk
          have : a ≠ k := fun h => hmem.1 (h ▸ hk)
          simp only [State.noteFor_changeSets, this, if_false]
          exact hc k (by simp [hk]))]
      simp only [State.noteFor_changeSets]
      by_cases ha : a = n
      · subst ha
        simp only [hmem.1, if_false, if_true, List.mem_cons, true_or, State.notedSet, State.isAttached, hs,
          hc a (by simp)]
        exact if_congr Iff.rfl rfl rfl
      · have : n ≠ a := fun h => ha h.symm
        simp only [ha, List.mem_cons, this, false_or, if_false]
  have := key allMasters s (by decide) rfl (fun _ _ => rfl)
  simpa only [State.noteChange, mem_allMasters, if_true] using this

theorem State.noteChange_attention (s : State) (z : ZoneId) (n : Master) :
    (s.noteChange z).attention[n] = s.noted n := by
  have key : ∀ (l : List Master) (t : State), l.Nodup → t.sessions = s.sessions →
      (∀ k ∈ l, t.changeSets[k] = s.changeSets[k]) → (∀ k ∈ l, t.attention[k] = s.attention[k]) →
      (l.foldl (State.noteFor z) t).attention[n] = if n ∈ l then s.noted n else t.attention[n] := by
    intro l
    induction l with
    | nil => intro t _ _ _ _; simp
    | cons a l ih =>
      intro t hl hs hc ht
      have hmem := List.nodup_cons.mp hl
      rw [List.foldl_cons]
      have hne : ∀ k ∈ l, a ≠ k := fun k hk h => hmem.1 (h ▸ hk)
      rw [ih _ hmem.2 (by simp [hs])
        (by
          intro k hk
          simp only [State.noteFor_changeSets, hne k hk, if_false]
          exact hc k (by simp [hk]))
        (by
          intro k hk
          simp only [State.noteFor_attention, hne k hk, if_false]
          exact ht k (by simp [hk]))]
      simp only [State.noteFor_attention]
      by_cases ha : a = n
      · subst ha
        simp only [hmem.1, if_false, if_true, List.mem_cons, true_or, State.noted, State.isAttached, hs,
          hc a (by simp), ht a (by simp)]
        exact if_congr Iff.rfl rfl rfl
      · have : n ≠ a := fun h => ha h.symm
        simp only [ha, List.mem_cons, this, false_or, if_false]
  have := key allMasters s (by decide) rfl (fun _ _ => rfl) (fun _ _ => rfl)
  simpa only [State.noteChange, mem_allMasters, if_true] using this

end Sys2Proof.Machine
end

