-- ==== Sys2Proof/Laws/Table.lean ====
section
/-! SUPPORT. What the operations of the authority table controller do to the records they touch. -/

namespace Sys2Proof.Machine

/-! ### Driving -/

@[simp] theorem Zone.drive_authority (f : Value) (c : Byte) (now : TimeCount) (r : Zone) :
    (r.drive f c now).authority = r.authority := by
  unfold Zone.drive; split <;> (try split) <;> rfl

@[simp] theorem Zone.drive_epoch (f : Value) (c : Byte) (now : TimeCount) (r : Zone) :
    (r.drive f c now).epoch = r.epoch := by
  unfold Zone.drive; split <;> (try split) <;> rfl

@[simp] theorem Zone.drive_commanded (f : Value) (c : Byte) (now : TimeCount) (r : Zone) :
    (r.drive f c now).commanded = r.commanded := by
  unfold Zone.drive; split <;> (try split) <;> rfl

@[simp] theorem Zone.drive_inhibit (f : Value) (c : Byte) (now : TimeCount) (r : Zone) :
    (r.drive f c now).inhibit = r.inhibit := by
  unfold Zone.drive; split <;> (try split) <;> rfl

@[simp] theorem Zone.drive_sensed (f : Value) (c : Byte) (now : TimeCount) (r : Zone) :
    (r.drive f c now).sensed = r.sensed := by
  unfold Zone.drive; split <;> (try split) <;> rfl

/-- The lines take up what the law of driving gives (R120). -/
@[simp] theorem Zone.drive_driven (f : Value) (c : Byte) (now : TimeCount) (r : Zone) :
    (r.drive f c now).driven = drivenBy r.authority r.commanded f r.inhibit := by
  unfold Zone.drive
  split
  · rename_i h1 h2; rw [h1, h2]
  · rename_i h; exact h.symm
  · rename_i h; exact h.symm
  · rename_i h1 h2; split
    · rename_i h; rw [h1, h2, h]
    · exact h2.symm

/-- Lines that already drive what the law of driving gives leave the monitor as it was (R125). -/
theorem Zone.drive_kept (f : Value) (c : Byte) (now : TimeCount) (r : Zone)
    (h : r.driven = drivenBy r.authority r.commanded f r.inhibit) : r.drive f c now = r := by
  unfold Zone.drive
  split
  · rfl
  · rename_i h1 h2; rw [h1, h2] at h; cases h
  · rename_i h1 h2; rw [h1, h2] at h; cases h
  · rename_i h1 h2; rw [h1, h2] at h; cases h; rw [if_pos rfl]

/-- A zone that comes to drive a value, and its monitor's response (R125). -/
theorem Zone.drive_some (f : Value) (c : Byte) (now : TimeCount) (r : Zone) (v : Value)
    (h : drivenBy r.authority r.commanded f r.inhibit = some v) :
    (r.drive f c now).driven = some v ∧
      (∀ u, r.driven = some u → (r.drive f c now).monitor = r.monitor.respond now r.sensed u v) ∧
      (r.driven = none → (r.drive f c now).monitor = freshMonitor c now v r.sensed) := by
  refine ⟨by rw [Zone.drive_driven, h], fun u hu => ?_, fun hn => ?_⟩
  · unfold Zone.drive
    rw [hu, h]
    dsimp only
    unfold Monitor.respond
    by_cases huv : u = v
    · rw [if_pos huv, if_pos huv]
    · rw [if_neg huv, if_neg huv]
      cases r.monitor <;> rfl
  · unfold Zone.drive
    rw [hn, h]

theorem State.putZone_zones (s : State) (z y : ZoneId) (r : Zone) :
    (s.putZone z r).zones[y] =
      if z = y then r.drive (s.fallback z) s.config.zones[z].checkTime s.timeCount else s.zones[y] := by
  simp only [State.putZone, State.withZone_zones, at_set, State.fallback]

theorem State.putZone_zones_self (s : State) (z : ZoneId) (r : Zone) :
    (s.putZone z r).zones[z] = r.drive (s.fallback z) s.config.zones[z].checkTime s.timeCount := by
  rw [State.putZone_zones, if_pos rfl]

theorem State.putZone_zones_ne (s : State) {z y : ZoneId} (h : z ≠ y) (r : Zone) :
    (s.putZone z r).zones[y] = s.zones[y] := by
  rw [State.putZone_zones, if_neg h]

/-! ### Held-zone counts -/

theorem State.heldCount_congr {s t : State} (h : s.zones = t.zones) (m : Master) : s.heldCount m = t.heldCount m := by
  unfold State.heldCount State.holds
  rw [h]

/-! ### AUTO timers -/

theorem State.autoTimer_sessions (b s : State) (m n : Master) :
    (State.autoTimer b s m).sessions[n] =
      if m = n then s.sessions[n].counted (b.heldCount n) (s.heldCount n) s.timeCount else s.sessions[n] := by
  unfold State.autoTimer Session.counted
  by_cases hm : m = n
  · subst hm
    simp only [if_true]
    split
    · split
      · simp only [State.withTimer, State.withSession_sessions, at_set, if_true]
      · split
        · simp only [State.withTimer, State.withSession_sessions, at_set, if_true]
        · rfl
    · rfl
  · simp only [hm, if_false]
    split
    · split
      · simp only [State.withTimer, State.withSession_sessions, at_set, hm, if_false]
      · split
        · simp only [State.withTimer, State.withSession_sessions, at_set, hm, if_false]
        · rfl
    · rfl

theorem State.autoTimers_sessions (b s : State) (n : Master) :
    (allMasters.foldl (State.autoTimer b) s).sessions[n] =
      s.sessions[n].counted (b.heldCount n) (s.heldCount n) s.timeCount := by
  have key : ∀ (l : List Master) (t : State), l.Nodup → t.zones = s.zones → t.timeCount = s.timeCount →
      (∀ k ∈ l, t.sessions[k] = s.sessions[k]) →
      (l.foldl (State.autoTimer b) t).sessions[n] =
        if n ∈ l then s.sessions[n].counted (b.heldCount n) (s.heldCount n) s.timeCount else t.sessions[n] := by
    intro l
    induction l with
    | nil => intro t _ _ _ _; simp
    | cons a l ih =>
      intro t hl hz ht hs
      have hmem := List.nodup_cons.mp hl
      rw [List.foldl_cons]
      rw [ih _ hmem.2 (by simp [hz]) (by simp [ht])
        (by
          intro k hk
          have : a ≠ k := fun h => hmem.1 (h ▸ hk)
          simp only [State.autoTimer_sessions, this, if_false]
          exact hs k (by simp [hk]))]
      simp only [State.autoTimer_sessions]
      by_cases ha : a = n
      · subst ha
        simp only [hmem.1, if_false, if_true, List.mem_cons, true_or, hs a (by simp), ht,
          State.heldCount_congr hz]
      · have : n ≠ a := fun h => ha h.symm
        simp only [ha, List.mem_cons, this, false_or, if_false]
  have := key allMasters s (by decide) rfl rfl (fun _ _ => rfl)
  simpa only [mem_allMasters, if_true] using this

/-! ### Changing a zone's authority -/

theorem State.setAuthority_zones (s : State) (z y : ZoneId) (a : Authority) (v : Value) :
    (s.setAuthority z a v).zones[y] =
      if z = y then
        (s.zones[z].reassign a v).drive (s.fallback z) s.config.zones[z].checkTime s.timeCount
      else s.zones[y] := by
  have h : (s.setAuthority z a v).zones = (s.putZone z (s.zones[z].reassign a v)).zones := by
    unfold State.setAuthority
    refine (foldl_keeps State.zones _ (fun _ _ => by simp) _ _).trans ?_
    split <;> simp
  simp only [h, State.putZone_zones]

theorem State.setAuthority_zones_self (s : State) (z : ZoneId) (a : Authority) (v : Value) :
    (s.setAuthority z a v).zones[z] =
      (s.zones[z].reassign a v).drive (s.fallback z) s.config.zones[z].checkTime s.timeCount := by
  rw [State.setAuthority_zones, if_pos rfl]

theorem State.setAuthority_zones_ne (s : State) {z y : ZoneId} (h : z ≠ y) (a : Authority) (v : Value) :
    (s.setAuthority z a v).zones[y] = s.zones[y] := by
  rw [State.setAuthority_zones, if_neg h]

/-- A change of authority and commanded value that leaves what the law of driving gives leaves the lines (R53, R120). -/
theorem State.setAuthority_linesKept (s : State) (z : ZoneId) (a : Authority) (v : Value)
    (h : drivenBy a v (s.fallback z) s.zones[z].inhibit =
      drivenBy s.zones[z].authority s.zones[z].commanded (s.fallback z) s.zones[z].inhibit) :
    LinesKept s (s.setAuthority z a v) z := by
  unfold LinesKept
  rw [State.setAuthority_zones_self]
  refine ⟨by rw [Zone.drive_sensed]; rfl, fun hd => ?_⟩
  rw [Zone.drive_kept _ _ _ (s.zones[z].reassign a v) (hd.trans h.symm)]
  exact ⟨rfl, rfl⟩

theorem State.setAuthority_changeSets (s : State) (z : ZoneId) (a : Authority) (v : Value) (n : Master) :
    (s.setAuthority z a v).changeSets[n] =
      if s.zones[z].authority.moves a then s.notedSet z n else s.changeSets[n] := by
  have h : (s.setAuthority z a v).changeSets =
      (if s.zones[z].authority.moves a then (s.putZone z (s.zones[z].reassign a v)).noteChange z
        else s.putZone z (s.zones[z].reassign a v)).changeSets := by
    unfold State.setAuthority
    exact foldl_keeps State.changeSets _ (fun _ _ => by simp) _ _
  simp only [h]
  split
  · simp only [State.noteChange_changeSets, State.notedSet, State.isAttached, State.putZone_sessions,
      State.putZone_changeSets]
    exact if_congr Iff.rfl rfl rfl
  · simp

theorem State.setAuthority_attention (s : State) (z : ZoneId) (a : Authority) (v : Value) (n : Master) :
    (s.setAuthority z a v).attention[n] = if s.zones[z].authority.moves a then s.noted n else s.attention[n] := by
  have h : (s.setAuthority z a v).attention =
      (if s.zones[z].authority.moves a then (s.putZone z (s.zones[z].reassign a v)).noteChange z
        else s.putZone z (s.zones[z].reassign a v)).attention := by
    unfold State.setAuthority
    exact foldl_keeps State.attention _ (fun _ _ => by simp) _ _
  simp only [h]
  split
  · simp only [State.noteChange_attention, State.noted, State.isAttached, State.putZone_sessions,
      State.putZone_changeSets, State.putZone_attention]
    exact if_congr Iff.rfl rfl rfl
  · simp

theorem State.setAuthority_sessions (s : State) (z : ZoneId) (a : Authority) (v : Value) (n : Master) :
    (s.setAuthority z a v).sessions[n] =
      s.sessions[n].counted (s.heldCount n) ((s.setAuthority z a v).heldCount n) s.timeCount := by
  have hz : ∀ u : State, (allMasters.foldl (State.autoTimer s) u).zones = u.zones := fun u =>
    foldl_keeps State.zones _ (fun _ _ => by simp) _ _
  simp only [State.setAuthority, State.autoTimers_sessions, State.heldCount_congr (hz _)]
  split <;> simp

@[simp] theorem Session.counted_standing (b a : Nat) (now : TimeCount) (r : Session) :
    (r.counted b a now).standing = r.standing := by
  unfold Session.counted; (repeat' split) <;> rfl

@[simp] theorem Session.counted_strike (b a : Nat) (now : TimeCount) (r : Session) :
    (r.counted b a now).strike = r.strike := by
  unfold Session.counted; (repeat' split) <;> rfl

@[simp] theorem Session.counted_mode (b a : Nat) (now : TimeCount) (r : Session) :
    (r.counted b a now).mode = r.mode := by
  unfold Session.counted; (repeat' split) <;> rfl

@[simp] theorem Session.counted_period (b a : Nat) (now : TimeCount) (r : Session) :
    (r.counted b a now).period = r.period := by
  unfold Session.counted; (repeat' split) <;> rfl

@[simp] theorem Session.counted_revokeReason (b a : Nat) (now : TimeCount) (r : Session) :
    (r.counted b a now).revokeReason = r.revokeReason := by
  unfold Session.counted; (repeat' split) <;> rfl

/-- A change of a zone's authority changes no master's standing, and so no master's place in the table. -/
@[simp] theorem State.setAuthority_standing (s : State) (z : ZoneId) (a : Authority) (v : Value) (n : Master) :
    (s.setAuthority z a v).sessions[n].standing = s.sessions[n].standing := by
  rw [State.setAuthority_sessions, Session.counted_standing]

@[simp] theorem State.setAuthority_isAttached (s : State) (z : ZoneId) (a : Authority) (v : Value) (n : Master) :
    (s.setAuthority z a v).isAttached n = s.isAttached n := by
  simp only [State.isAttached, State.setAuthority_standing]

/-! ### Held-zone counts after a change -/

/-- A change that keeps the holder keeps every held-zone count, and so every session record (R8, R28). -/
theorem State.setAuthority_heldCount_kept (s : State) (z : ZoneId) (a : Authority) (v : Value)
    (h : a.holder = s.zones[z].authority.holder) (n : Master) : (s.setAuthority z a v).heldCount n = s.heldCount n := by
  refine List.countP_congr fun y _ => ?_
  simp only [State.holds]
  by_cases hy : z = y
  · subst hy
    simp only [State.setAuthority_zones_self, Zone.drive_authority, Zone.reassign, h]
  · simp only [State.setAuthority_zones_ne s hy]

theorem Session.counted_same (k : Nat) (now : TimeCount) (r : Session) : r.counted k k now = r := by
  unfold Session.counted
  (repeat' split) <;> first | rfl | (rename_i h; exact absurd h.1 h.2) | (rename_i h; exact absurd h.2 h.1)

theorem State.setAuthority_sessions_kept (s : State) (z : ZoneId) (a : Authority) (v : Value)
    (h : a.holder = s.zones[z].authority.holder) : (s.setAuthority z a v).sessions = s.sessions := by
  apply Vector.ext
  intro i hi
  have := State.setAuthority_sessions s z a v ⟨i, hi⟩
  rw [State.setAuthority_heldCount_kept s z a v h, Session.counted_same] at this
  exact this

/-- The held-zone count of a master over the zones other than one. -/
theorem State.heldCount_split (s : State) (m : Master) (z : ZoneId) :
    s.heldCount m = (if s.holds m z then 1 else 0) + (allZones.erase z).countP (s.holds m) := by
  unfold State.heldCount
  rw [(List.perm_cons_erase (mem_allZones z)).countP_eq, List.countP_cons]
  omega

/-- How a change of one zone's authority moves the held-zone counts (R8). -/
theorem State.setAuthority_heldCount (s : State) (z : ZoneId) (a : Authority) (v : Value) (n : Master) :
    (s.setAuthority z a v).heldCount n + (if s.zones[z].authority.holder = some n then 1 else 0) =
      s.heldCount n + (if a.holder = some n then 1 else 0) := by
  rw [State.heldCount_split _ n z, State.heldCount_split s n z]
  have h1 : (allZones.erase z).countP ((s.setAuthority z a v).holds n) = (allZones.erase z).countP (s.holds n) := by
    apply List.countP_congr
    intro y hy
    have hne : z ≠ y := by
      rintro rfl
      exact (List.Nodup.not_mem_erase (by decide : allZones.Nodup)) hy
    simp only [State.holds, State.setAuthority_zones_ne s hne]
  have h2 : (s.setAuthority z a v).holds n z = decide (a.holder = some n) := by
    simp only [State.holds, State.setAuthority_zones_self, Zone.drive_authority, Zone.reassign]
  rw [h1, h2]
  simp only [State.holds, decide_eq_true_eq]
  omega

/-! ### Removed entries -/

@[simp] theorem State.removeEntries_queue (s : State) (p : Entry → Bool) :
    (s.removeEntries p).queue = s.queue.filter (fun e => !p e) := rfl

@[simp] theorem State.tellLostEntry_standing (s : State) (e : Entry) (n : Master) :
    (s.tellLostEntry e).sessions[n].standing = s.sessions[n].standing := by
  simp [-Fin.getElem_fin]

@[simp] theorem State.dropEntries_queue (s : State) (p : Entry → Bool) :
    (s.dropEntries p).queue = s.queue.filter (fun e => !p e) := by
  unfold State.dropEntries
  exact foldl_keeps State.queue _ (fun _ _ => by simp) _ _

theorem State.dropEntries_attention (s : State) (p : Entry → Bool) (n : Master)
    (h : s.sessions[n].standing ≠ .detached) :
    (s.dropEntries p).attention[n] = reportedLost n s.attention[n] (s.queue.filter p) := by
  have key : ∀ (l : List Entry) (t : State), t.sessions[n].standing ≠ .detached →
      (l.foldl State.tellLostEntry t).attention[n] = reportedLost n t.attention[n] l := by
    intro l
    induction l with
    | nil => intro t _; rfl
    | cons e l ih =>
      intro t ht
      rw [List.foldl_cons]
      rw [ih _ (by rw [State.tellLostEntry_standing]; exact ht)]
      simp only [State.tellLostEntry, State.signal_attention, reportedLost]
      by_cases he : e.poster = n
      · subst he; simp only [ht, ne_eq, not_false_eq_true, and_self, if_true]
      · simp only [he, false_and, if_false]
  unfold State.dropEntries
  rw [key _ _ (by simpa using h)]
  simp

/-- Reports of lost entries touch the flag and record of dropped entries alone. -/
theorem State.dropEntries_attention_none (s : State) (p : Entry → Bool) (n : Master)
    (h : ∀ e ∈ s.queue, p e = true → e.poster ≠ n) : (s.dropEntries p).attention[n] = s.attention[n] := by
  have key : ∀ (l : List Entry) (t : State), (∀ e ∈ l, e.poster ≠ n) →
      (l.foldl State.tellLostEntry t).attention[n] = t.attention[n] := by
    intro l
    induction l with
    | nil => intro t _; rfl
    | cons e l ih =>
      intro t hl
      rw [List.foldl_cons, ih _ (fun x hx => hl x (by simp [hx]))]
      simp only [State.tellLostEntry, State.signal_attention, hl e (by simp), false_and, if_false]
  unfold State.dropEntries
  rw [key _ _ (fun e he => h e (List.mem_filter.mp he).1 (List.mem_filter.mp he).2)]
  simp

/-! ### Service (R161) -/

/-- A request that waits, has its turn and passes the gating is served: its answer decides the rest. -/
theorem serve_taken {s : State} {m : Master} {c : Command} {o : List Byte} (body : State → Answer)
    (h : s.serves m c o) : serve c m o body s = .next (State.finish c m (body s)) := by
  simp only [serve, h.1, h.2, if_true]

theorem serve_gated {s : State} {m : Master} {c : Command} {o : List Byte} {st : Status} (body : State → Answer)
    (hr : s.ready m c o = true) (hg : s.gate m c o = some st) :
    serve c m o body s = .next (State.finish c m (s.refuse st)) := by
  simp only [serve, hr, hg, if_true]

theorem serve_idle {s : State} {m : Master} {c : Command} {o : List Byte} (body : State → Answer)
    (h : s.ready m c o = false) : serve c m o body s = .next s := by
  simp [serve, h]

/-- What the end of a service does (R163, R167): the ports and the turn, and nothing else. -/
theorem State.finish_eq (c : Command) (m : Master) (a : Answer) :
    State.finish c m a =
      { a.state with
        ports := a.state.ports.set m
          { a.state.ports[m] with phase := .idle, buffer := ⟨a.status, c.id, a.payload⟩ }
        lastServed := if c.atTable then m else a.state.lastServed
        chosen := if c.atTable then (a.state.respond m ⟨a.status, c.id, a.payload⟩).nextInTurn m
          else a.state.chosen } := by
  unfold State.finish
  cases h : c.atTable <;> rfl

/-- The response is in the port's buffer and the turn has passed on, whatever the answer's state changed elsewhere. -/
theorem State.finish_answered {s : State} (c : Command) (m : Master) (a : Answer) (hp : a.state.ports = s.ports)
    (hl : a.state.lastServed = s.lastServed) (hc : a.state.chosen = s.chosen) :
    Answered s (State.finish c m a) m c a.status a.payload := by
  unfold Answered Turn
  rw [State.finish_eq]
  refine ⟨by simp only [hp], ?_⟩
  cases h : c.atTable
  · simp only [Bool.false_eq_true, if_false, hl, hc, and_self]
  · simp only [if_true, true_and]
    rfl

end Sys2Proof.Machine
end

