-- ==== Sys2Proof/Laws/Succession.lean ====
section
/-! SUPPORT. What loss, strikes and session ends do to the zones, one zone at a time: each zone's outcome depends on its
own record, the configuration, the count and the masters' standing alone. -/

namespace Sys2Proof.Machine

/-! ### What a choice depends on -/

/-- The parts of the state that decide eligibility and timers, which no step of a session end changes. -/
def SameContext (s t : State) : Prop :=
  t.config = s.config ∧ t.timeCount = s.timeCount ∧
    ∀ n : Master, t.sessions[n].standing = s.sessions[n].standing ∧ t.sessions[n].strike = s.sessions[n].strike

theorem SameContext.refl (s : State) : SameContext s s := ⟨rfl, rfl, fun _ => ⟨rfl, rfl⟩⟩

theorem SameContext.trans {s t u : State} (h : SameContext s t) (k : SameContext t u) : SameContext s u :=
  ⟨k.1.trans h.1, k.2.1.trans h.2.1, fun n => ⟨(k.2.2 n).1.trans (h.2.2 n).1, (k.2.2 n).2.trans (h.2.2 n).2⟩⟩

theorem SameContext.isAttached {s t : State} (h : SameContext s t) (n : Master) : t.isAttached n = s.isAttached n := by
  simp only [State.isAttached, (h.2.2 n).1]

theorem SameContext.eligible {s t : State} (h : SameContext s t) (n : Master) (z : ZoneId) :
    t.eligible n z = s.eligible n z := by
  simp only [State.eligible, h.isAttached n, (h.2.2 n).2, State.permits, h.1]

theorem SameContext.fallback {s t : State} (h : SameContext s t) (z : ZoneId) : t.fallback z = s.fallback z := by
  simp only [State.fallback, h.1]

theorem SameContext.walk {s t : State} (h : SameContext s t) (z : ZoneId) (l : List Master) (k : Nat) :
    t.walk z l k = s.walk z l k := by
  induction l generalizing k with
  | nil => rfl
  | cons a l ih => simp only [State.walk, h.eligible, ih]

theorem SameContext.choose {s t : State} (h : SameContext s t) (z : ZoneId) (k : Nat) : t.choose z k = s.choose z k := by
  simp only [State.choose, h.walk, h.1, h.2.1]

theorem setAuthority_context (s : State) (z : ZoneId) (a : Authority) (v : Value) :
    SameContext s (s.setAuthority z a v) :=
  ⟨State.setAuthority_config s z a v, State.setAuthority_timeCount s z a v, fun n =>
    ⟨State.setAuthority_standing s z a v n, by rw [State.setAuthority_sessions, Session.counted_strike]⟩⟩

/-- An operation that leaves configuration, count and sessions keeps the context. -/
theorem SameContext.of_sessions {s t : State} (hc : t.config = s.config) (ht : t.timeCount = s.timeCount)
    (hs : t.sessions = s.sessions) : SameContext s t :=
  ⟨hc, ht, fun n => by simp only [hs, and_self]⟩

theorem signal_context (s : State) (m : Master) (e : Signal) : SameContext s (s.signal m e) :=
  .of_sessions (by simp) (by simp) (by simp)

theorem dropEntries_context (s : State) (p : Entry → Bool) : SameContext s (s.dropEntries p) :=
  .of_sessions (by simp) (by simp) (by simp)

theorem dropRequest_context (s : State) (z : ZoneId) (h r : Master) : SameContext s (s.dropRequest z h r) :=
  ((setAuthority_context s z _ _).trans (signal_context _ _ _)).trans (signal_context _ _ _)

theorem loseEligibilityAt_context (m : Master) (s : State) (z : ZoneId) :
    SameContext s (State.loseEligibilityAt m s z) := by
  unfold State.loseEligibilityAt
  split
  · split
    · exact dropRequest_context ..
    · exact .refl s
  · split
    · exact setAuthority_context ..
    · exact .refl s
  · exact .refl s

theorem lose_context (s : State) (z : ZoneId) (h : Master) (r : Option Pending) : SameContext s (s.lose z h r) := by
  have hf : ∀ (l : List Master) (t : State), SameContext t (l.foldl State.wakeIfParked t) := fun l t =>
    .of_sessions (foldl_keeps State.config _ (fun _ _ => by simp) _ _)
      (foldl_keeps State.timeCount _ (fun _ _ => by simp) _ _) (foldl_keeps State.sessions _ (fun _ _ => by simp) _ _)
  unfold State.lose
  refine .trans ?_ (hf _ _)
  refine .trans ?_ (signal_context _ _ _)
  refine .trans ?_ (dropEntries_context _ _)
  cases r with
  | none => exact setAuthority_context ..
  | some p => exact (setAuthority_context ..).trans (signal_context _ _ _)

theorem endSessionAt_context (m : Master) (s : State) (z : ZoneId) : SameContext s (State.endSessionAt m s z) := by
  unfold State.endSessionAt
  split
  · split
    · exact lose_context ..
    · exact .refl s
  · split
    · exact lose_context ..
    · exact loseEligibilityAt_context ..
  · exact loseEligibilityAt_context ..
  · exact .refl s

/-! ### One zone after another -/

/-- A fold of a step that touches one zone at a time, in a context it keeps: each zone ends as the step alone would leave
it. -/
theorem fold_zones (f : State → ZoneId → State) (other : ∀ s z y, z ≠ y → (f s z).zones[y] = s.zones[y])
    (context : ∀ s z, SameContext s (f s z))
    (alike : ∀ s t z, SameContext s t → s.zones[z] = t.zones[z] → (f s z).zones[z] = (f t z).zones[z])
    (s : State) (z : ZoneId) : (allZones.foldl f s).zones[z] = (f s z).zones[z] := by
  have key : ∀ (l : List ZoneId) (t : State), l.Nodup → SameContext s t → (z ∈ l → s.zones[z] = t.zones[z]) →
      (l.foldl f t).zones[z] = if z ∈ l then (f s z).zones[z] else t.zones[z] := by
    intro l
    induction l with
    | nil => intro t _ _ _; simp
    | cons a l ih =>
      intro t hl hc hz
      have hmem := List.nodup_cons.mp hl
      rw [List.foldl_cons]
      by_cases ha : a = z
      · subst ha
        rw [ih _ hmem.2 (hc.trans (context t a)) (fun h => absurd h hmem.1), if_neg hmem.1, if_pos (by simp)]
        exact (alike s t a hc (hz (by simp))).symm
      · rw [ih _ hmem.2 (hc.trans (context t a)) (fun h => by rw [other t a z ha]; exact hz (by simp [h]))]
        have hiff : z ∈ a :: l ↔ z ∈ l :=
          ⟨fun h => (List.mem_cons.mp h).resolve_left fun e => ha e.symm, List.mem_cons_of_mem a⟩
        simp only [hiff, other t a z ha]
  have := key allZones s (by decide) (.refl s) (fun _ => rfl)
  simpa only [mem_allZones, if_true] using this

theorem fold_context (f : State → ZoneId → State) (context : ∀ s z, SameContext s (f s z)) (l : List ZoneId) (s : State) :
    SameContext s (l.foldl f s) := by
  induction l generalizing s with
  | nil => exact .refl s
  | cons a l ih => exact (context s a).trans (ih _)

/-! ### The zone records -/

theorem dropRequest_zones (s : State) (z y : ZoneId) (h r : Master) :
    (s.dropRequest z h r).zones[y] = (s.setAuthority z (.held h) s.zones[z].commanded).zones[y] := by
  simp only [State.dropRequest, State.signal_zones]

theorem lose_zones (s : State) (z y : ZoneId) (h : Master) (r : Option Pending) :
    (s.lose z h r).zones[y] =
      (s.setAuthority z
        (match r with
        | some p => .settling ⟨p.requester, .requester, s.timeCount, s.config.zones[z].settleTime⟩
        | none => settledBy (s.choose z 0)) (s.fallback z)).zones[y] := by
  have hf : ∀ (l : List Master) (t : State), (l.foldl State.wakeIfParked t).zones = t.zones := fun l t =>
    foldl_keeps State.zones _ (fun _ _ => by simp) _ _
  unfold State.lose
  cases r <;> simp only [hf, State.signal_zones, State.dropEntries_zones, settledBy]

/-- A zone record after a session end of `m`, from the state in which `m` is no longer ATTACHED. -/
theorem endSessionAt_zone (m : Master) (s : State) (z : ZoneId) :
    (State.endSessionAt m s z).zones[z] =
      if s.endedAuthority m z = s.zones[z].authority ∧ s.holds m z = false ∧ s.isCandidate m z = false then
        s.zones[z]
      else
        (s.zones[z].reassign (s.endedAuthority m z) (s.endedCommanded m z)).drive (s.fallback z)
          s.config.zones[z].checkTime s.timeCount := by
  unfold State.endSessionAt State.endedAuthority State.endedCommanded State.holds State.isCandidate
  cases ha : s.zones[z].authority with
  | held h =>
    by_cases hm : h = m
    · subst hm
      simp only [Authority.holder, if_true, lose_zones, State.setAuthority_zones_self, decide_true, true_or]
      simp
    · have hm' : ¬ (some h = some m) := by simp [hm]
      simp only [Authority.holder, hm, if_false, decide_false, and_self, if_true, hm']
  | transfer h p =>
    by_cases hm : h = m
    · subst hm
      simp only [Authority.holder, if_true, lose_zones, State.setAuthority_zones_self, decide_true, true_or]
      simp
    · have hm' : ¬ (some h = some m) := by simp [hm]
      simp only [Authority.holder, hm, if_false, decide_false, hm', State.loseEligibilityAt, ha]
      by_cases hr : p.requester = m
      · subst hr
        simp [-Fin.getElem_fin, dropRequest_zones, State.setAuthority_zones_self]
      · simp [hr]
  | settling c =>
    simp only [Authority.holder, State.loseEligibilityAt, ha]
    by_cases hm : c.master = m
    · subst hm
      simp [-Fin.getElem_fin, State.dropCandidacy, State.setAuthority_zones_self]
    · simp [hm]
  | dark => simp [Authority.holder]
  | vacant => simp [Authority.holder]
  | faulted => simp [Authority.holder]

theorem endSessionAt_other (m : Master) (s : State) (z y : ZoneId) (h : z ≠ y) :
    (State.endSessionAt m s z).zones[y] = s.zones[y] := by
  unfold State.endSessionAt State.loseEligibilityAt
  split
  · split
    · simp only [lose_zones, State.setAuthority_zones_ne s h]
    · rfl
  · split
    · simp only [lose_zones, State.setAuthority_zones_ne s h]
    · split
      · split
        · simp only [dropRequest_zones, State.setAuthority_zones_ne s h]
        · rfl
      · split
        · simp only [State.dropCandidacy, State.setAuthority_zones_ne s h]
        · rfl
      · rfl
  · split
    · split
      · simp only [dropRequest_zones, State.setAuthority_zones_ne s h]
      · rfl
    · split
      · simp only [State.dropCandidacy, State.setAuthority_zones_ne s h]
      · rfl
    · rfl
  · rfl

theorem SameContext.endedAuthority {s t : State} (h : SameContext s t) (m : Master) (z : ZoneId)
    (hz : s.zones[z] = t.zones[z]) : t.endedAuthority m z = s.endedAuthority m z := by
  simp only [State.endedAuthority, ← hz, h.choose, h.1, h.2.1]

theorem SameContext.struckAuthority {s t : State} (h : SameContext s t) (m : Master) (z : ZoneId)
    (hz : s.zones[z] = t.zones[z]) : t.struckAuthority m z = s.struckAuthority m z := by
  simp only [State.struckAuthority, ← hz, h.choose]

theorem endSessionAt_alike (m : Master) (s t : State) (z : ZoneId) (h : SameContext s t)
    (hz : s.zones[z] = t.zones[z]) :
    (State.endSessionAt m s z).zones[z] = (State.endSessionAt m t z).zones[z] := by
  have hh : t.holds m z = s.holds m z := by unfold State.holds; rw [hz]
  have hc : t.isCandidate m z = s.isCandidate m z := by unfold State.isCandidate; rw [hz]
  have hv : t.endedCommanded m z = s.endedCommanded m z := by
    unfold State.endedCommanded; rw [hh, hc, h.fallback, hz]
  have hk : t.config.zones[z].checkTime = s.config.zones[z].checkTime := by simp only [h.1]
  rw [endSessionAt_zone, endSessionAt_zone, h.endedAuthority m z hz, hh, hc, hv, h.fallback, hk, h.2.1, hz]

/-- The zone records after a session end (R45, R68). -/
theorem endSession_zone (m : Master) (s : State) (z : ZoneId) :
    (s.endSession m).zones[z] = (State.endSessionAt m s z).zones[z] := by
  simp only [State.endSession, State.freeRing_zones, State.dropEntries_zones]
  exact fold_zones _ (endSessionAt_other m) (fun s z => endSessionAt_context m s z) (endSessionAt_alike m) s z

theorem endSession_context (m : Master) (s : State) : SameContext s (s.endSession m) := by
  have h1 := fold_context (State.endSessionAt m) (fun s z => endSessionAt_context m s z) allZones s
  have h2 := dropEntries_context (allZones.foldl (State.endSessionAt m) s) (fun e => decide (e.poster = m))
  exact (h1.trans h2).trans
    (.of_sessions (State.freeRing_config _) (State.freeRing_timeCount _) (State.freeRing_sessions _))

/-! ### The queue -/

/-- What a session end takes from the queue at one zone is the master's own. -/
theorem endSessionAt_queue (m : Master) (s : State) (z : ZoneId) :
    ∃ q : Entry → Bool, (State.endSessionAt m s z).queue = s.queue.filter q ∧ ∀ e, e.poster ≠ m → q e = true := by
  have hl : ∀ r, (s.lose z m r).queue = s.queue.filter (fun e => !Entry.isOf m z e) := by
    intro r
    have hf : ∀ (l : List Master) (t : State), (l.foldl State.wakeIfParked t).queue = t.queue := fun l t =>
      foldl_keeps State.queue _ (fun _ _ => by simp) _ _
    unfold State.lose
    cases r <;> simp only [hf, State.signal_queue, State.dropEntries_queue, State.setAuthority_queue]
  have hown : ∀ e : Entry, e.poster ≠ m → (!Entry.isOf m z e) = true := by
    intro e he; simp [Entry.isOf, he]
  have hkeep : (State.loseEligibilityAt m s z).queue = s.queue.filter (fun _ => true) := by simp
  unfold State.endSessionAt
  split
  · split
    · rename_i h; subst h; exact ⟨_, hl none, hown⟩
    · exact ⟨fun _ => true, by simp, fun _ _ => rfl⟩
  · split
    · rename_i h; subst h; exact ⟨_, hl _, hown⟩
    · exact ⟨_, hkeep, fun _ _ => rfl⟩
  · exact ⟨_, hkeep, fun _ _ => rfl⟩
  · exact ⟨fun _ => true, by simp, fun _ _ => rfl⟩

theorem endSessionFold_queue (m : Master) (l : List ZoneId) (s : State) :
    ∃ q : Entry → Bool, (l.foldl (State.endSessionAt m) s).queue = s.queue.filter q ∧
      ∀ e, e.poster ≠ m → q e = true := by
  induction l generalizing s with
  | nil => exact ⟨fun _ => true, (List.filter_eq_self.mpr fun _ _ => rfl).symm, fun _ _ => rfl⟩
  | cons a l ih =>
    obtain ⟨q1, h1, k1⟩ := endSessionAt_queue m s a
    obtain ⟨q2, h2, k2⟩ := ih (State.endSessionAt m s a)
    refine ⟨fun e => q2 e && q1 e, ?_, fun e he => by simp only [k1 e he, k2 e he, Bool.and_self]⟩
    rw [List.foldl_cons, h2, h1, List.filter_filter]

theorem endSession_queue (m : Master) (s : State) :
    (s.endSession m).queue = s.queue.filter (fun e => decide (e.poster ≠ m)) := by
  obtain ⟨q, hq, kq⟩ := endSessionFold_queue m allZones s
  unfold State.endSession
  rw [State.freeRing_queue, State.dropEntries_queue, hq, List.filter_filter]
  refine List.filter_congr fun e _ => ?_
  by_cases he : e.poster = m
  · simp [he]
  · simp [he, kq e he]

/-- The zone records after a session end, field by field (R45, R68). -/
theorem endSession_fields (m : Master) (s : State) (z : ZoneId) :
    (s.endSession m).zones[z].authority = s.endedAuthority m z ∧ EpochFollows s (s.endSession m) z ∧
      (s.endSession m).zones[z].commanded = s.endedCommanded m z ∧
      (s.endSession m).zones[z].inhibit = s.zones[z].inhibit ∧
      (s.endSession m).zones[z].sensed = s.zones[z].sensed := by
  unfold EpochFollows
  rw [endSession_zone, endSessionAt_zone]
  split
  · rename_i h
    refine ⟨h.1.symm, by simp, ?_, rfl, rfl⟩
    simp [-Fin.getElem_fin, State.endedCommanded, h.2.1, h.2.2]
  · refine ⟨by simp [Zone.reassign], by simp [Zone.reassign], ?_, by simp [Zone.reassign], by simp [Zone.reassign]⟩
    simp only [Zone.drive_commanded, Zone.reassign]

/-! ### Strikes -/

theorem settledBy_holder (c : Option Candidate) : (settledBy c).holder = none := by cases c <;> rfl

theorem struckAuthority_holder (s : State) (m : Master) (z : ZoneId) :
    (s.struckAuthority m z).holder = s.zones[z].authority.holder := by
  unfold State.struckAuthority
  cases ha : s.zones[z].authority with
  | transfer h p => dsimp only; split <;> rfl
  | settling c =>
    dsimp only
    split
    · exact settledBy_holder _
    · rfl
  | held h => rfl
  | dark => rfl
  | vacant => rfl
  | faulted => rfl

/-- A strike's effect at one zone: the zone's authority by `struckAuthority`, and no session record. -/
theorem loseEligibilityAt_cases (m : Master) (s : State) (z : ZoneId) :
    (∃ v, (State.loseEligibilityAt m s z).zones =
        (s.setAuthority z (s.struckAuthority m z) v).zones) ∨
      (State.loseEligibilityAt m s z).zones = s.zones ∧ s.struckAuthority m z = s.zones[z].authority := by
  unfold State.loseEligibilityAt State.struckAuthority
  cases ha : s.zones[z].authority with
  | transfer h p =>
    by_cases hr : p.requester = m
    · simp only [hr, if_true]
      exact .inl ⟨s.zones[z].commanded, by simp only [State.dropRequest, State.signal_zones]⟩
    · simp [hr]
  | settling c =>
    by_cases hr : c.master = m
    · simp only [hr, if_true]
      exact .inl ⟨_, rfl⟩
    · simp [hr]
  | held h => simp
  | dark => simp
  | vacant => simp
  | faulted => simp

theorem loseEligibilityAt_sessions (m : Master) (s : State) (z : ZoneId) :
    (State.loseEligibilityAt m s z).sessions = s.sessions := by
  unfold State.loseEligibilityAt
  split
  · rename_i h p ha
    split
    · simp only [State.dropRequest, State.signal_sessions]
      exact State.setAuthority_sessions_kept _ _ _ _ (by rw [ha]; rfl)
    · rfl
  · rename_i c ha
    split
    · simp only [State.dropCandidacy]
      exact State.setAuthority_sessions_kept _ _ _ _ (by rw [ha, settledBy_holder]; rfl)
    · rfl
  · rfl

theorem loseEligibilityAt_other (m : Master) (s : State) (z y : ZoneId) (h : z ≠ y) :
    (State.loseEligibilityAt m s z).zones[y] = s.zones[y] := by
  rcases loseEligibilityAt_cases m s z with ⟨v, hv⟩ | ⟨hv, _⟩
  · simp only [hv, State.setAuthority_zones_ne s h]
  · simp only [hv]

/-- What a strike, or a lost eligibility, does to the zones, taken Z0 to Z7. -/
theorem strikeFold_zone (m : Master) (s : State) (z : ZoneId) :
    (allZones.foldl (State.loseEligibilityAt m) s).zones[z].authority = s.struckAuthority m z ∧
      (allZones.foldl (State.loseEligibilityAt m) s).zones[z].epoch = s.zones[z].epoch := by
  have key : ∀ (l : List ZoneId) (t : State), l.Nodup → SameContext s t → (z ∈ l → s.zones[z] = t.zones[z]) →
      (l.foldl (State.loseEligibilityAt m) t).zones[z].authority =
          (if z ∈ l then s.struckAuthority m z else t.zones[z].authority) ∧
        (l.foldl (State.loseEligibilityAt m) t).zones[z].epoch = t.zones[z].epoch := by
    intro l
    induction l with
    | nil => intro t _ _ _; simp
    | cons a l ih =>
      intro t hl hc hz
      have hmem := List.nodup_cons.mp hl
      rw [List.foldl_cons]
      by_cases ha : a = z
      · subst ha
        have hzt := hz (by simp)
        obtain ⟨h1, h2⟩ := ih _ hmem.2 (hc.trans (loseEligibilityAt_context m t a)) (fun h => absurd h hmem.1)
        rw [h1, h2, if_neg hmem.1, if_pos (by simp)]
        have hs := hc.struckAuthority m a hzt
        rcases loseEligibilityAt_cases m t a with ⟨v, hv⟩ | ⟨hv, hk⟩
        · simp only [hv, State.setAuthority_zones_self, Zone.drive_authority, Zone.drive_epoch, Zone.reassign]
          refine ⟨hs, ?_⟩
          rw [if_pos]
          rw [struckAuthority_holder]
        · simp only [hv]
          exact ⟨by rw [← hk, hs], trivial⟩
      · have ho := loseEligibilityAt_other m t a z ha
        obtain ⟨h1, h2⟩ := ih _ hmem.2 (hc.trans (loseEligibilityAt_context m t a))
          (fun h => by rw [ho]; exact hz (by simp [h]))
        have hiff : z ∈ a :: l ↔ z ∈ l :=
          ⟨fun h => (List.mem_cons.mp h).resolve_left fun e => ha e.symm, List.mem_cons_of_mem a⟩
        rw [h1, h2, ho]
        simp only [hiff, and_self]
  have := key allZones s (by decide) (.refl s) (fun _ => rfl)
  simpa only [mem_allZones, if_true] using this

theorem strikeFold_sessions (m : Master) (s : State) (l : List ZoneId) :
    (l.foldl (State.loseEligibilityAt m) s).sessions = s.sessions :=
  foldl_keeps State.sessions _ (fun s z => loseEligibilityAt_sessions m s z) _ _

/-- A strike changes one session record, and in it the mark alone (R30). -/
theorem recordStrike_sessions (m : Master) (s : State) :
    (s.recordStrike m).sessions = s.sessions.set m { s.sessions[m] with strike := true } := by
  unfold State.recordStrike
  rw [strikeFold_sessions]
  simp

end Sys2Proof.Machine
end

