-- ==== Sys2Proof/Laws/Signals.lean ====
section
/-! SUPPORT. What events keep of a master's attention state: a property that every event but a revocation keeps is kept
by every operation of the authority table, by strikes and by session ends. -/

namespace Sys2Proof.Machine

/-- Every event but a revocation keeps the property. -/
def Lasting (P : Attention → Prop) : Prop := ∀ a e, (∀ r, e ≠ Signal.revoked r) → P a → P (a.after e)

theorem Flag.mem_bit (f g : Flag) : f.mem g.bit = decide (f = g) := by
  cases f <;> cases g <;> decide

theorem Flag.mem_or (f : Flag) (a b : FlagSet) : f.mem (a ||| b) = (f.mem a || f.mem b) := by
  simp [Flag.mem]

/-- An event sets its flag and no other (R152). -/
theorem Attention.after_flag (a : Attention) (e : Signal) (f : Flag) :
    f.mem (a.after e).flags = (f.mem a.flags || decide (f = e.flag)) := by
  have h : (a.after e).flags = a.flags ||| e.flag.bit := by
    unfold Attention.after; cases e <;> rfl
  rw [h, Flag.mem_or, Flag.mem_bit]

/-- A flag that is set stays set. -/
theorem lasting_flag (f : Flag) : Lasting (fun a => f.mem a.flags = true) := by
  intro a e _ h
  rw [Attention.after_flag, h, Bool.true_or]

/-- A revoke record stays. -/
theorem lasting_revoke (r : RevokeReason) : Lasting (fun a => a.revoke = some r) := by
  intro a e he h
  unfold Attention.after
  cases e <;> first | exact h | exact absurd rfl (he _)

/-- Enables stay. -/
theorem lasting_enables (x : FlagSet) : Lasting (fun a => a.enables = x) := by
  intro a e _ h
  unfold Attention.after
  cases e <;> exact h

theorem Lasting.and {P Q : Attention → Prop} (hP : Lasting P) (hQ : Lasting Q) : Lasting (fun a => P a ∧ Q a) :=
  fun a e he h => ⟨hP a e he h.1, hQ a e he h.2⟩

theorem Lasting.signal {P : Attention → Prop} (hP : Lasting P) (s : State) (m n : Master) (e : Signal)
    (he : ∀ r, e ≠ .revoked r) (h : P s.attention[n]) : P (s.signal m e).attention[n] := by
  rw [State.signal_attention]
  split
  · exact hP _ e he h
  · exact h

theorem Lasting.setAuthority {P : Attention → Prop} (hP : Lasting P) (s : State) (z : ZoneId) (a : Authority) (v : Value)
    (n : Master) (h : P s.attention[n]) : P (s.setAuthority z a v).attention[n] := by
  rw [State.setAuthority_attention]
  unfold State.noted
  split
  · split
    · exact hP _ _ (by intro r hr; cases hr) h
    · exact h
  · exact h

theorem Lasting.fold {α : Type} {P : Attention → Prop} (n : Master) (f : State → α → State)
    (hf : ∀ s a, P s.attention[n] → P (f s a).attention[n]) (l : List α) (s : State) (h : P s.attention[n]) :
    P (l.foldl f s).attention[n] := by
  induction l generalizing s with
  | nil => exact h
  | cons a l ih => exact ih _ (hf s a h)

theorem Lasting.dropEntries {P : Attention → Prop} (hP : Lasting P) (s : State) (p : Entry → Bool) (n : Master)
    (h : P s.attention[n]) : P (s.dropEntries p).attention[n] := by
  unfold State.dropEntries
  refine Lasting.fold n _ (fun s e hs => ?_) _ _ (by simpa using h)
  exact hP.signal _ _ _ _ (by intro r hr; cases hr) hs

theorem Lasting.loseEligibilityAt {P : Attention → Prop} (hP : Lasting P) (m : Master) (s : State) (z : ZoneId)
    (n : Master) (h : P s.attention[n]) : P (State.loseEligibilityAt m s z).attention[n] := by
  unfold State.loseEligibilityAt
  split
  · split
    · unfold State.dropRequest
      exact hP.signal _ _ _ _ (by intro r hr; cases hr)
        (hP.signal _ _ _ _ (by intro r hr; cases hr) (hP.setAuthority _ _ _ _ _ h))
    · exact h
  · split
    · exact hP.setAuthority _ _ _ _ _ h
    · exact h
  · exact h

theorem Lasting.lose {P : Attention → Prop} (hP : Lasting P) (s : State) (z : ZoneId) (k : Master)
    (r : Option Pending) (n : Master) (h : P s.attention[n]) : P (s.lose z k r).attention[n] := by
  have hw : ∀ (l : List Master) (t : State), P t.attention[n] → P (l.foldl State.wakeIfParked t).attention[n] := by
    intro l t ht
    refine Lasting.fold n _ (fun s m hs => ?_) l t ht
    unfold State.wakeIfParked
    split
    · exact hP.signal _ _ _ _ (by intro r hr; cases hr) hs
    · exact hs
  unfold State.lose
  refine hw _ _ (hP.signal _ _ _ _ (by intro r hr; cases hr) (hP.dropEntries _ _ _ ?_))
  cases r with
  | none => exact hP.setAuthority _ _ _ _ _ h
  | some p => exact hP.signal _ _ _ _ (by intro r hr; cases hr) (hP.setAuthority _ _ _ _ _ h)

theorem Lasting.endSessionAt {P : Attention → Prop} (hP : Lasting P) (m : Master) (s : State) (z : ZoneId)
    (n : Master) (h : P s.attention[n]) : P (State.endSessionAt m s z).attention[n] := by
  unfold State.endSessionAt
  split
  · split
    · exact hP.lose _ _ _ _ _ h
    · exact h
  · split
    · exact hP.lose _ _ _ _ _ h
    · exact hP.loseEligibilityAt _ _ _ _ h
  · exact hP.loseEligibilityAt _ _ _ _ h
  · exact h

theorem Lasting.endSession {P : Attention → Prop} (hP : Lasting P) (s : State) (m n : Master) (h : P s.attention[n]) :
    P (s.endSession m).attention[n] := by
  have h1 : (s.endSession m).attention =
      ((allZones.foldl (State.endSessionAt m) s).dropEntries (fun e => decide (e.poster = m))).attention := by
    unfold State.endSession; simp only [State.freeRing_attention]
  simp only [h1]
  exact hP.dropEntries _ _ _ (Lasting.fold n _ (fun s z hs => hP.endSessionAt m s z n hs) _ _ h)

theorem Lasting.recordStrikeZones {P : Attention → Prop} (hP : Lasting P) (s : State) (m n : Master)
    (h : P s.attention[n]) : P (allZones.foldl (State.loseEligibilityAt m) s).attention[n] :=
  Lasting.fold n _ (fun s z hs => hP.loseEligibilityAt m s z n hs) _ _ h

/-! ### Change sets of a master that is not ATTACHED -/

theorem setAuthority_changeSet_idle (s : State) (z : ZoneId) (a : Authority) (v : Value) (n : Master)
    (h : s.isAttached n = false) : (s.setAuthority z a v).changeSets[n] = s.changeSets[n] := by
  rw [State.setAuthority_changeSets]
  unfold State.notedSet
  simp [h]

theorem loseEligibilityAt_changeSet_idle (m : Master) (s : State) (z : ZoneId) (n : Master)
    (h : s.isAttached n = false) : (State.loseEligibilityAt m s z).changeSets[n] = s.changeSets[n] := by
  unfold State.loseEligibilityAt
  split
  · split
    · simp only [State.dropRequest, State.signal_changeSets]; exact setAuthority_changeSet_idle _ _ _ _ _ h
    · rfl
  · split
    · exact setAuthority_changeSet_idle _ _ _ _ _ h
    · rfl
  · rfl

theorem lose_changeSets (s : State) (z : ZoneId) (k : Master) (r : Option Pending) :
    (s.lose z k r).changeSets =
      (s.setAuthority z
        (match r with
        | some p => .settling ⟨p.requester, .requester, s.timeCount, s.config.zones[z].settleTime⟩
        | none => settledBy (s.choose z 0)) (s.fallback z)).changeSets := by
  have hf : ∀ (l : List Master) (t : State), (l.foldl State.wakeIfParked t).changeSets = t.changeSets := fun l t =>
    foldl_keeps State.changeSets _ (fun _ _ => by simp) _ _
  unfold State.lose
  cases r <;> simp only [hf, State.signal_changeSets, State.dropEntries_changeSets, settledBy]

theorem endSessionAt_changeSet_idle (m : Master) (s : State) (z : ZoneId) (n : Master) (h : s.isAttached n = false) :
    (State.endSessionAt m s z).changeSets[n] = s.changeSets[n] := by
  unfold State.endSessionAt
  split
  · split
    · simp only [lose_changeSets]; exact setAuthority_changeSet_idle _ _ _ _ _ h
    · rfl
  · split
    · simp only [lose_changeSets]; exact setAuthority_changeSet_idle _ _ _ _ _ h
    · exact loseEligibilityAt_changeSet_idle _ _ _ _ h
  · exact loseEligibilityAt_changeSet_idle _ _ _ _ h
  · rfl

theorem endSession_changeSet_idle (m : Master) (s : State) (n : Master) (h : s.isAttached n = false) :
    (s.endSession m).changeSets[n] = s.changeSets[n] := by
  have key : ∀ (l : List ZoneId) (t : State), t.isAttached n = false →
      (l.foldl (State.endSessionAt m) t).changeSets[n] = t.changeSets[n] := by
    intro l
    induction l with
    | nil => intro t _; rfl
    | cons a l ih =>
      intro t ht
      rw [List.foldl_cons, ih _ (by rw [(endSessionAt_context m t a).isAttached]; exact ht)]
      exact endSessionAt_changeSet_idle m t a n ht
  have h1 : (s.endSession m).changeSets = (allZones.foldl (State.endSessionAt m) s).changeSets := by
    unfold State.endSession; simp only [State.freeRing_changeSets, State.dropEntries_changeSets]
  simp only [h1]
  exact key _ _ h

/-! ### Session records at a session end -/

/-- A session end changes no session record but by the AUTO timers (R28, R45). -/
theorem endSessionAt_session (m : Master) (s : State) (z : ZoneId) (n : Master) :
    (State.endSessionAt m s z).sessions[n] =
      s.sessions[n].counted (s.heldCount n) ((State.endSessionAt m s z).heldCount n) s.timeCount := by
  have hl : ∀ k r, (s.lose z k r).sessions[n] =
      s.sessions[n].counted (s.heldCount n) ((s.lose z k r).heldCount n) s.timeCount := by
    intro k r
    have hz : ∀ a v, (s.lose z k r).zones = (s.setAuthority z a v).zones →
        (s.lose z k r).sessions = (s.setAuthority z a v).sessions →
        (s.lose z k r).sessions[n] =
          s.sessions[n].counted (s.heldCount n) ((s.lose z k r).heldCount n) s.timeCount := by
      intro a v h1 h2
      simp only [h2, State.heldCount_congr h1, State.setAuthority_sessions]
    have hf : ∀ (l : List Master) (t : State), (l.foldl State.wakeIfParked t).sessions = t.sessions := fun l t =>
      foldl_keeps State.sessions _ (fun _ _ => by simp) _ _
    refine hz _ _ (Vector.ext fun i hi => lose_zones s z ⟨i, hi⟩ k r) ?_
    unfold State.lose
    cases r <;> simp only [hf, State.signal_sessions, State.dropEntries_sessions, settledBy]
  have hk : (State.loseEligibilityAt m s z).sessions[n] =
      s.sessions[n].counted (s.heldCount n) ((State.loseEligibilityAt m s z).heldCount n) s.timeCount := by
    have : (State.loseEligibilityAt m s z).heldCount n = s.heldCount n := by
      rcases loseEligibilityAt_cases m s z with ⟨v, hv⟩ | ⟨hv, _⟩
      · rw [State.heldCount_congr hv]
        exact State.setAuthority_heldCount_kept s z _ v (struckAuthority_holder s m z) n
      · exact State.heldCount_congr hv n
    rw [this, Session.counted_same]
    simp only [loseEligibilityAt_sessions]
  unfold State.endSessionAt
  split
  · split
    · exact hl _ _
    · rw [Session.counted_same]
  · split
    · exact hl _ _
    · exact hk
  · exact hk
  · rw [Session.counted_same]

/-- A session record whose AUTO timer is stopped and whose count only falls stays as it was. -/
theorem Session.counted_stopped (b a : Nat) (now : TimeCount) (r : Session) (ht : r.timer = .stopped)
    (h : a ≤ b) : r.counted b a now = r := by
  unfold Session.counted
  split
  · split
    · rename_i hc; omega
    · split
      · cases r; simp_all
      · rfl
  · rfl

end Sys2Proof.Machine
end

