-- ==== Sys2Proof/Laws/Reports.lean ====
section
/-! SUPPORT. What operations tell the masters: the zones that enter their change sets and the reports that reach their
flags and records, composed from one operation to the next, up to strikes and session ends as a whole. -/

namespace Sys2Proof.Machine

/-! ### Composing reports -/

/-- ZONES_CHANGED has no record, so that its place among other events does not matter. -/
theorem Attention.after_comm (a : Attention) (e : Signal) :
    (a.after e).after .zonesChanged = (a.after .zonesChanged).after e := by
  have h : ∀ x y z : FlagSet, x ||| y ||| z = x ||| z ||| y := fun x y z => by
    rw [BitVec.or_assoc, BitVec.or_comm y z, ← BitVec.or_assoc]
  cases e <;> simp only [Attention.after, Signal.record, Signal.flag, h]

theorem Attention.foldl_after_comm (l : List Signal) (a : Attention) :
    l.foldl Attention.after (a.after .zonesChanged) = (l.foldl Attention.after a).after .zonesChanged := by
  induction l generalizing a with
  | nil => rfl
  | cons e l ih => rw [List.foldl_cons, List.foldl_cons, ← Attention.after_comm, ih]

/-- From `s` to `t` these zones entered the change sets and these events were told, and no standing changed. -/
structure Tells (s t : State) (moved : ZoneId → Bool) (events : Master → List Signal) : Prop where
  standing : ∀ n : Master, t.sessions[n].standing = s.sessions[n].standing
  sets : ∀ n : Master, GainsZones s t n moved
  attention : ∀ n : Master, t.attention[n] = s.told n (s.changeReport n moved ++ events n)

theorem Tells.isAttached {s t : State} {moved : ZoneId → Bool} {events : Master → List Signal}
    (h : Tells s t moved events) (n : Master) : t.isAttached n = s.isAttached n := by
  simp only [State.isAttached, h.standing n]

theorem GainsZones.empty_iff {s t : State} {n : Master} {moved : ZoneId → Bool} (h : GainsZones s t n moved) :
    t.changeSets[n] = 0 ↔ s.changeSets[n] = 0 ∧ ¬ (s.isAttached n = true ∧ allZones.any moved = true) := by
  have bits : ∀ x : ZoneSet, x = 0 ↔ ∀ z : ZoneId, x.getLsbD z.val = false := by
    intro x
    refine ⟨fun hx z => by rw [hx]; simp, fun hx => BitVec.eq_of_getLsbD_eq fun i hi => ?_⟩
    rw [hx ⟨i, hi⟩]; simp
  rw [bits, bits]
  constructor
  · intro ht
    refine ⟨fun z => ?_, ?_⟩
    · have := ht z; rw [h z, Bool.or_eq_false_iff] at this; exact this.1
    · rintro ⟨ha, hm⟩
      obtain ⟨z, -, hz⟩ := List.any_eq_true.mp hm
      have := ht z
      rw [h z, ha, hz] at this
      simp at this
  · rintro ⟨hs, hm⟩ z
    rw [h z, hs z, Bool.false_or, Bool.and_eq_false_iff]
    by_cases ha : s.isAttached n = true
    · right
      by_cases hz : moved z = true
      · exact absurd ⟨ha, List.any_eq_true.mpr ⟨z, mem_allZones z, hz⟩⟩ hm
      · simpa using hz
    · left; simpa using ha

theorem Tells.refl (s : State) : Tells s s (fun _ => false) (fun _ => []) where
  standing _ := rfl
  sets n z := by simp
  attention n := by
    have h : s.changeReport n (fun _ => false) = [] := by simp [State.changeReport]
    rw [h]; simp [State.told]

theorem Tells.trans {s t u : State} {m₁ m₂ : ZoneId → Bool} {e₁ e₂ : Master → List Signal} (h : Tells s t m₁ e₁)
    (k : Tells t u m₂ e₂) : Tells s u (fun z => m₁ z || m₂ z) (fun n => e₁ n ++ e₂ n) where
  standing n := (k.standing n).trans (h.standing n)
  sets n z := by
    rw [k.sets n z, h.sets n z, h.isAttached n]
    cases s.isAttached n <;> simp [Bool.or_assoc]
  attention n := by
    rw [k.attention n]
    unfold State.told
    rw [h.standing n]
    by_cases hd : s.sessions[n].standing = .detached
    · rw [if_pos hd, if_pos hd, h.attention n, State.told, if_pos hd]
    · rw [if_neg hd, if_neg hd, h.attention n, State.told, if_neg hd]
      simp only [List.foldl_append]
      have hr : ∀ a : Attention, (t.changeReport n m₂).foldl Attention.after ((e₁ n).foldl Attention.after
          ((s.changeReport n m₁).foldl Attention.after a)) =
          (e₁ n).foldl Attention.after ((s.changeReport n (fun z => m₁ z || m₂ z)).foldl Attention.after a) := by
        intro a
        have he := (h.sets n).empty_iff
        have hany : allZones.any (fun z => m₁ z || m₂ z) = (allZones.any m₁ || allZones.any m₂) := by
          generalize allZones = l
          induction l with
          | nil => rfl
          | cons z l ih => simp only [List.any_cons, ih]; ac_rfl
        have both : allZones.any (fun z => m₁ z || m₂ z) = true ↔ allZones.any m₁ = true ∨ allZones.any m₂ = true := by
          rw [hany, Bool.or_eq_true]
        by_cases ha : s.isAttached n = true
        · have ha' : t.isAttached n = true := (h.isAttached n).trans ha
          by_cases hc : s.changeSets[n] = 0
          · by_cases h1 : allZones.any m₁ = true
            · have r1 : s.changeReport n m₁ = [.zonesChanged] := if_pos ⟨ha, hc, h1⟩
              have r2 : t.changeReport n m₂ = [] := if_neg fun x => (he.mp x.2.1).2 ⟨ha, h1⟩
              have r3 : s.changeReport n (fun z => m₁ z || m₂ z) = [.zonesChanged] := if_pos ⟨ha, hc, both.mpr (.inl h1)⟩
              rw [r1, r2, r3]; rfl
            · have r1 : s.changeReport n m₁ = [] := if_neg fun x => h1 x.2.2
              have ht : t.changeSets[n] = 0 := he.mpr ⟨hc, fun x => h1 x.2⟩
              by_cases h2 : allZones.any m₂ = true
              · have r2 : t.changeReport n m₂ = [.zonesChanged] := if_pos ⟨ha', ht, h2⟩
                have r3 : s.changeReport n (fun z => m₁ z || m₂ z) = [.zonesChanged] :=
                  if_pos ⟨ha, hc, both.mpr (.inr h2)⟩
                rw [r1, r2, r3]
                simp only [List.foldl_cons, List.foldl_nil, Attention.foldl_after_comm]
              · have r2 : t.changeReport n m₂ = [] := if_neg fun x => h2 x.2.2
                have r3 : s.changeReport n (fun z => m₁ z || m₂ z) = [] :=
                  if_neg fun x => (both.mp x.2.2).elim h1 h2
                rw [r1, r2, r3]; rfl
          · have r1 : s.changeReport n m₁ = [] := if_neg fun x => hc x.2.1
            have r2 : t.changeReport n m₂ = [] := if_neg fun x => hc (he.mp x.2.1).1
            have r3 : s.changeReport n (fun z => m₁ z || m₂ z) = [] := if_neg fun x => hc x.2.1
            rw [r1, r2, r3]; rfl
        · have r1 : s.changeReport n m₁ = [] := if_neg fun x => ha x.1
          have r2 : t.changeReport n m₂ = [] := if_neg fun x => ha ((h.isAttached n).symm.trans x.1)
          have r3 : s.changeReport n (fun z => m₁ z || m₂ z) = [] := if_neg fun x => ha x.1
          rw [r1, r2, r3]; rfl
      rw [hr]

/-- Operations that keep change sets, flags, records and standings may follow anything. -/
theorem Tells.of_eq {s t : State} (hc : t.changeSets = s.changeSets) (ha : t.attention = s.attention)
    (hs : ∀ n : Master, t.sessions[n].standing = s.sessions[n].standing) :
    Tells s t (fun _ => false) (fun _ => []) where
  standing := hs
  sets n z := by simp only [hc]; simp
  attention n := by
    simp only [ha]; exact (Tells.refl s).attention n

theorem Tells.congr {s t : State} {m₁ m₂ : ZoneId → Bool} {e₁ e₂ : Master → List Signal} (h : Tells s t m₁ e₁)
    (hm : ∀ z, m₁ z = m₂ z) (he : ∀ n, e₁ n = e₂ n) : Tells s t m₂ e₂ := by
  obtain rfl : m₁ = m₂ := funext hm
  obtain rfl : e₁ = e₂ := funext he
  exact h

/-- Only what the events make of a master's flags and records matters. -/
theorem Tells.congr_fold {s t : State} {m : ZoneId → Bool} {e₁ e₂ : Master → List Signal} (h : Tells s t m e₁)
    (he : ∀ n a, (e₁ n).foldl Attention.after a = (e₂ n).foldl Attention.after a) : Tells s t m e₂ where
  standing := h.standing
  sets := h.sets
  attention n := by
    rw [h.attention n]
    unfold State.told
    simp only [List.foldl_append, he]

/-! ### Single operations -/

theorem signal_tells (s : State) (m : Master) (e : Signal) :
    Tells s (s.signal m e) (fun _ => false) (fun n => if n = m then [e] else []) where
  standing n := by simp
  sets n z := by simp
  attention n := by
    have h : s.changeReport n (fun _ => false) = [] := by simp [State.changeReport]
    rw [h, State.signal_attention, State.told]
    by_cases hm : m = n
    · subst hm; by_cases hd : s.sessions[m].standing = .detached <;> simp [-Fin.getElem_fin, hd]
    · have : n ≠ m := fun x => hm x.symm
      simp [-Fin.getElem_fin, hm, this]

theorem setAuthority_tells (s : State) (z : ZoneId) (a : Authority) (v : Value) :
    Tells s (s.setAuthority z a v) (fun y => decide (y = z) && s.zones[z].authority.moves a) (fun _ => []) where
  standing n := State.setAuthority_standing s z a v n
  sets n y := by
    rw [State.setAuthority_changeSets]
    by_cases hm : s.zones[z].authority.moves a = true
    · rw [if_pos hm, hm, State.notedSet]
      by_cases ha : s.isAttached n = true
      · rw [if_pos ha, ha, BitVec.getLsbD_or, BitVec.getLsbD_twoPow]
        have hz : z.val < 8 := z.isLt
        by_cases hy : y = z
        · subst hy; simp [hz]
        · have : ¬ z.val = y.val := fun x => hy (Fin.ext x.symm)
          simp [hy, this]
      · simp [ha]
    · have hm' : s.zones[z].authority.moves a = false := by simpa using hm
      rw [if_neg hm, hm']; simp
  attention n := by
    rw [State.setAuthority_attention, State.told, List.append_nil, State.changeReport]
    by_cases hm : s.zones[z].authority.moves a = true
    · have hany : allZones.any (fun y => decide (y = z) && s.zones[z].authority.moves a) = true :=
        List.any_eq_true.mpr ⟨z, mem_allZones z, by rw [hm]; simp⟩
      rw [if_pos hm, hany, State.noted]
      by_cases hd : s.sessions[n].standing = .detached
      · have ha : s.isAttached n = false := by simp [State.isAttached, Standing.isAttached, -Fin.getElem_fin, hd]
        simp [-Fin.getElem_fin, hd, ha]
      · rw [if_neg hd]
        by_cases hc : s.isAttached n = true ∧ s.changeSets[n] = 0
        · rw [if_pos hc, if_pos ⟨hc.1, hc.2, rfl⟩]; rfl
        · rw [if_neg hc, if_neg fun x => hc ⟨x.1, x.2.1⟩]; rfl
    · have hm' : s.zones[z].authority.moves a = false := by simpa using hm
      have hany : allZones.any (fun y => decide (y = z) && s.zones[z].authority.moves a) = false := by rw [hm']; simp
      rw [hany, if_neg hm]; simp

theorem tellLostEntries_tells (l : List Entry) (s : State) :
    Tells s (l.foldl State.tellLostEntry s) (fun _ => false)
      (fun n => (l.filter fun e => decide (e.poster = n)).map fun e => .actionDropped e.tag e.zone .lostZone) := by
  induction l generalizing s with
  | nil => exact Tells.refl s
  | cons e l ih =>
    refine ((signal_tells s e.poster _).trans (ih _)).congr (fun _ => rfl) fun n => ?_
    by_cases h : e.poster = n
    · simp [h]
    · have : ¬ n = e.poster := fun x => h x.symm
      simp [h, this]

theorem dropEntries_tells (s : State) (p : Entry → Bool) :
    Tells s (s.dropEntries p) (fun _ => false)
      (fun n => ((s.queue.filter p).filter fun e => decide (e.poster = n)).map fun e =>
        .actionDropped e.tag e.zone .lostZone) :=
  ((Tells.of_eq rfl rfl fun _ => rfl : Tells s (s.removeEntries p) _ _).trans (tellLostEntries_tells _ _)).congr
    (fun _ => rfl) fun n => by simp

/-! ### Loss, dropped requests and candidacies at one zone -/

/-- WAKE_REQUEST told twice is WAKE_REQUEST told once. -/
theorem Attention.after_wake_twice (a : Attention) :
    (a.after .wakeRequest).after .wakeRequest = a.after .wakeRequest := by
  simp only [Attention.after, Signal.record, Signal.flag, BitVec.or_assoc, BitVec.or_self]

theorem wake_tells (l : List Master) (s : State) :
    Tells s (l.foldl State.wakeIfParked s) (fun _ => false)
      (fun n => if n ∈ l ∧ s.sessions[n].standing.isParked = true then [.wakeRequest] else []) := by
  induction l generalizing s with
  | nil => exact (Tells.refl s).congr (fun _ => rfl) fun n => by simp
  | cons k l ih =>
    rw [List.foldl_cons]
    by_cases hp : s.sessions[k].standing.isParked = true
    · have hw : s.wakeIfParked k = s.signal k .wakeRequest := if_pos hp
      rw [hw]
      refine ((signal_tells s k .wakeRequest).trans (ih _)).congr_fold fun n a => ?_
      simp only [State.signal_sessions]
      by_cases h : n = k
      · subst h
        rw [if_pos rfl, if_pos (⟨List.mem_cons_self, hp⟩ : n ∈ n :: l ∧ _)]
        by_cases hl : n ∈ l
        · rw [if_pos ⟨hl, hp⟩]; exact Attention.after_wake_twice a
        · rw [if_neg fun x => hl x.1]; rfl
      · simp only [h, if_false, List.nil_append, List.mem_cons, false_or]
    · have hw : s.wakeIfParked k = s := if_neg hp
      rw [hw]
      refine (ih s).congr (fun _ => rfl) fun n => ?_
      by_cases h : n = k
      · subst h; rw [if_neg fun x => hp x.2, if_neg fun x => hp x.2]
      · simp only [List.mem_cons, h, false_or]

theorem removalReports_filter (s : State) (m n : Master) (z : ZoneId) :
    (((s.queue.filter (Entry.isOf m z)).filter fun e => decide (e.poster = n)).map fun e =>
        (.actionDropped e.tag e.zone .lostZone : Signal)) = if n = m then s.removalReports m z else [] := by
  unfold State.removalReports
  rw [List.filter_filter]
  by_cases h : n = m
  · subst h
    rw [if_pos rfl]
    congr 1
    refine List.filter_congr fun e _ => ?_
    by_cases he : e.poster = n <;> simp [Entry.isOf, he]
  · rw [if_neg h, List.filter_eq_nil_iff.mpr, List.map_nil]
    intro e _
    by_cases he : e.poster = n
    · have : ¬ n = m := h
      simp [Entry.isOf, he, this]
    · simp [he]

/-- What a loss tells, and to whom (R61, R69, R83, R101). -/
theorem lose_tells (s : State) (z : ZoneId) (m : Master) (r : Option Pending) :
    Tells s (s.lose z m r)
      (fun y => decide (y = z) && s.zones[z].authority.moves
        (settledBy (match r with
          | some p => some ⟨p.requester, .requester, s.timeCount, s.config.zones[z].settleTime⟩
          | none => s.choose z 0)))
      (fun n => (if r.map (·.requester) = some n then [.handoverResult z .succession] else []) ++
        (if n = m then s.removalReports m z ++ [.lost z .revoked] else []) ++
        if n ∈ s.config.zones[z].succession ∧ s.sessions[n].standing.isParked = true then [.wakeRequest] else []) := by
  have tail : ∀ u : State, u.queue = s.queue → u.config = s.config →
      (∀ n : Master, u.sessions[n].standing = s.sessions[n].standing) →
      Tells u ((s.config.zones[z].succession).foldl State.wakeIfParked
          ((u.dropEntries (Entry.isOf m z)).signal m (.lost z .revoked))) (fun _ => false)
        (fun n => (if n = m then s.removalReports m z ++ [.lost z .revoked] else []) ++
          if n ∈ s.config.zones[z].succession ∧ s.sessions[n].standing.isParked = true then [.wakeRequest] else []) := by
    intro u hq hc hs
    refine (((dropEntries_tells u _).trans (signal_tells _ _ _)).trans (wake_tells _ _)).congr (fun _ => rfl) fun n => ?_
    have hr : u.removalReports m z = s.removalReports m z := by simp only [State.removalReports, hq]
    rw [removalReports_filter, hr]
    simp only [State.signal_sessions, State.dropEntries_sessions, hs]
    by_cases h : n = m <;> simp only [h, if_true, if_false]; rfl
  have hs := State.setAuthority_standing s z
  unfold State.lose
  cases r with
  | none =>
    exact ((setAuthority_tells s z _ _).trans (tail _ (by simp) (by simp) (hs _ _))).congr (fun _ => by simp)
      fun n => by simp
  | some p =>
    refine (((setAuthority_tells s z _ _).trans (signal_tells _ _ _)).trans
      (tail _ (by simp) (by simp) fun n => by rw [State.signal_sessions]; exact hs _ _ n)).congr (fun _ => by simp) fun n => ?_
    by_cases h : n = p.requester
    · simp [h]
    · have : ¬ p.requester = n := fun x => h x.symm
      simp [h, this]

/-- What a dropped request or candidacy tells, and to whom (R60, R78). -/
theorem loseEligibilityAt_tells (m : Master) (s : State) (z : ZoneId) :
    Tells s (State.loseEligibilityAt m s z) (fun y => decide (y = z) && s.zones[z].authority.moves (s.struckAuthority m z))
      (s.dropReports m z) := by
  have still : ∀ a : Authority, a.moves a = false := by intro a; simp [Authority.moves]
  unfold State.loseEligibilityAt State.struckAuthority State.dropReports
  cases ha : s.zones[z].authority with
  | transfer h p =>
    by_cases hr : p.requester = m
    · simp only [hr, if_true]
      unfold State.dropRequest
      refine (((setAuthority_tells s z _ _).trans (signal_tells _ _ _)).trans (signal_tells _ _ _)).congr
        (fun y => ?_) fun n => ?_
      · rw [ha]; simp
      · by_cases h1 : n = h <;> by_cases h2 : n = m <;> simp [h1, h2]
    · simp only [hr, if_false, still, Bool.and_false]; exact Tells.refl s
  | settling c =>
    by_cases hr : c.master = m
    · simp only [hr, if_true]
      have := setAuthority_tells s z (settledBy (s.choose z c.origin.resume)) (s.fallback z)
      rw [ha] at this
      exact this
    · simp only [hr, if_false, still, Bool.and_false]; exact Tells.refl s
  | _ => simp only [still, Bool.and_false]; exact Tells.refl s

/-- What a session end tells at one zone, and to whom. -/
theorem endSessionAt_tells (m : Master) (s : State) (z : ZoneId) :
    Tells s (State.endSessionAt m s z) (fun y => decide (y = z) && s.movedByEnd m z) (fun n => s.endReports m n z) := by
  have still : ∀ a : Authority, a.moves a = false := by intro a; simp [Authority.moves]
  have lose := loseEligibilityAt_tells m s z
  unfold State.endSessionAt State.movedByEnd State.endReports State.endedAuthority State.lossReports State.holds
  unfold State.struckAuthority at lose
  cases ha : s.zones[z].authority with
  | held h =>
    by_cases hm : h = m
    · subst hm
      have := lose_tells s z h none
      rw [ha] at this
      simp only [if_true, Authority.holder, decide_true, Authority.request]
      exact this
    · simp only [hm, if_false, still, Bool.and_false, Authority.holder, Option.some.injEq, decide_false,
        Bool.false_eq_true, State.dropReports, ha]
      exact Tells.refl s
  | transfer h p =>
    by_cases hm : h = m
    · subst hm
      have := lose_tells s z h (some p)
      rw [ha] at this
      simp only [if_true, Authority.holder, decide_true, Authority.request]
      exact this
    · rw [ha] at lose
      simpa only [hm, if_false, Authority.holder, Option.some.injEq, decide_false, Bool.false_eq_true] using lose
  | settling c =>
    rw [ha] at lose
    simpa only [Authority.holder, reduceCtorEq, if_false, decide_false, Bool.false_eq_true] using lose
  | _ =>
    simp only [still, Bool.and_false, Authority.holder, reduceCtorEq, if_false, decide_false, Bool.false_eq_true,
      State.dropReports, ha]
    exact Tells.refl s

/-! ### One zone after another -/

/-- The other part of `Tells` for a fold over zones, where what one zone tells depends on a part of the state that the
others leave alone. -/
theorem fold_tells (f : State → ZoneId → State) (moved : State → ZoneId → Bool)
    (events : State → Master → ZoneId → List Signal) (near : State → State → ZoneId → Prop)
    (tells : ∀ s z, Tells s (f s z) (fun y => decide (y = z) && moved s z) (fun n => events s n z))
    (alike : ∀ s t z, near s t z → moved t z = moved s z ∧ ∀ n, events t n z = events s n z)
    (keeps : ∀ s t y z, near s t y → z ≠ y → near s (f t z) y) (s : State) :
    ∀ (l : List ZoneId) (t : State), l.Nodup → (∀ y ∈ l, near s t y) →
      Tells t (l.foldl f t) (fun y => decide (y ∈ l) && moved s y) (fun n => l.flatMap (events s n)) := by
  intro l
  induction l with
  | nil => intro t _ _; exact (Tells.refl t).congr (fun _ => by simp) fun _ => rfl
  | cons z l ih =>
    intro t hl hn
    have hmem := List.nodup_cons.mp hl
    have hz := alike s t z (hn z List.mem_cons_self)
    refine ((tells t z).trans (ih (f t z) hmem.2 fun y hy =>
      keeps s t y z (hn y (List.mem_cons_of_mem z hy)) fun h => hmem.1 (h ▸ hy))).congr (fun y => ?_) fun n => ?_
    · rw [hz.1]
      by_cases hy : y = z
      · subst hy; simp [hmem.1]
      · simp [hy]
    · rw [hz.2 n]; rfl

/-! ### Session ends -/

theorem endSessionAt_queue_eq (m : Master) (s : State) (z : ZoneId) :
    (State.endSessionAt m s z).queue = s.queue.filter (fun e => !(Entry.isOf m z e && s.holds m z)) := by
  have hl : ∀ r, (s.lose z m r).queue = s.queue.filter (fun e => !Entry.isOf m z e) := by
    intro r
    have hf : ∀ (l : List Master) (t : State), (l.foldl State.wakeIfParked t).queue = t.queue := fun l t =>
      foldl_keeps State.queue _ (fun _ _ => by simp) _ _
    unfold State.lose
    cases r <;> simp only [hf, State.signal_queue, State.dropEntries_queue, State.setAuthority_queue]
  have hk : s.queue.filter (fun e => !(Entry.isOf m z e && false)) = s.queue := by simp
  unfold State.endSessionAt State.holds
  cases ha : s.zones[z].authority with
  | held h =>
    by_cases hm : h = m
    · subst hm; simp only [Authority.holder, if_true, decide_true, Bool.and_true, hl]
    · simp only [Authority.holder, Option.some.injEq, hm, if_false, decide_false, hk]
  | transfer h p =>
    by_cases hm : h = m
    · subst hm; simp only [Authority.holder, if_true, decide_true, Bool.and_true, hl]
    · simp only [Authority.holder, Option.some.injEq, hm, if_false, decide_false, hk, State.loseEligibilityAt_queue]
  | settling c => simp only [Authority.holder, reduceCtorEq, decide_false, hk, State.loseEligibilityAt_queue]
  | _ => simp only [Authority.holder, reduceCtorEq, decide_false, hk]

/-- What a session end of `m` at one zone reads. -/
def NearEnd (m : Master) (s t : State) (z : ZoneId) : Prop :=
  SameContext s t ∧ t.zones[z] = s.zones[z] ∧ t.queue.filter (Entry.isOf m z) = s.queue.filter (Entry.isOf m z)

theorem NearEnd.refl (m : Master) (s : State) (z : ZoneId) : NearEnd m s s z := ⟨.refl s, rfl, rfl⟩

theorem NearEnd.alike {m : Master} {s t : State} {z : ZoneId} (h : NearEnd m s t z) :
    t.movedByEnd m z = s.movedByEnd m z ∧ ∀ n, t.endReports m n z = s.endReports m n z := by
  obtain ⟨hc, hz, hq⟩ := h
  refine ⟨by rw [State.movedByEnd, State.movedByEnd, hc.endedAuthority m z hz.symm, hz], fun n => ?_⟩
  have hr : t.removalReports m z = s.removalReports m z := by rw [State.removalReports, State.removalReports, hq]
  have hp : t.sessions[n].standing = s.sessions[n].standing := (hc.2.2 n).1
  have hs : t.config.zones[z].succession = s.config.zones[z].succession := by simp only [hc.1]
  unfold State.endReports State.lossReports State.dropReports State.holds
  rw [hz, hr, hp, hs]

theorem NearEnd.keeps {m : Master} {s t : State} {y z : ZoneId} (h : NearEnd m s t y) (hne : z ≠ y) :
    NearEnd m s (State.endSessionAt m t z) y := by
  refine ⟨h.1.trans (endSessionAt_context m t z), (endSessionAt_other m t z y hne).trans h.2.1, ?_⟩
  rw [endSessionAt_queue_eq, List.filter_filter, ← h.2.2]
  refine List.filter_congr fun e _ => ?_
  by_cases he : e.zone = y
  · have : ¬ e.zone = z := fun x => hne (x ▸ he)
    simp [Entry.isOf, this]
  · simp [Entry.isOf, he]

theorem endSessionFold_queue_eq (m : Master) (s : State) :
    ∀ (l : List ZoneId) (t : State), l.Nodup → (∀ y ∈ l, t.zones[y] = s.zones[y]) →
      (l.foldl (State.endSessionAt m) t).queue =
        t.queue.filter (fun e => !(decide (e.poster = m) && (decide (e.zone ∈ l) && s.holds m e.zone))) := by
  intro l
  induction l with
  | nil => intro t _ _; simp
  | cons z l ih =>
    intro t hl hz
    have hmem := List.nodup_cons.mp hl
    rw [List.foldl_cons, ih _ hmem.2 fun y hy => by
      rw [endSessionAt_other m t z y fun x => hmem.1 (x ▸ hy)]; exact hz y (List.mem_cons_of_mem z hy)]
    rw [endSessionAt_queue_eq, List.filter_filter]
    have hh : t.holds m z = s.holds m z := by unfold State.holds; rw [hz z List.mem_cons_self]
    refine List.filter_congr fun e _ => ?_
    rw [hh]
    by_cases he : e.poster = m
    · by_cases hez : e.zone = z
      · subst hez; simp [Entry.isOf, he, hmem.1]
      · simp [Entry.isOf, he, hez]
    · simp [Entry.isOf, he]

/-- The end of a session end: the entries left over, and the ring. -/
theorem leftover_tells (m : Master) (s u : State) (zones : List ZoneId) (all : ∀ z, z ∈ zones)
    (hf : Tells s u (fun y => decide (y ∈ zones) && s.movedByEnd m y) (fun n => zones.flatMap (s.endReports m n)))
    (hq : u.queue =
      s.queue.filter (fun e => !(decide (e.poster = m) && (decide (e.zone ∈ zones) && s.holds m e.zone)))) :
    Tells s ((u.dropEntries fun e => decide (e.poster = m)).freeRing) (s.movedByEnd m)
      (fun n => zones.flatMap (s.endReports m n) ++
        if n = m then
          (s.queue.filter fun e => decide (e.poster = m) && !s.holds m e.zone).map fun e =>
            .actionDropped e.tag e.zone .lostZone
        else []) := by
  have hd := dropEntries_tells u (fun e => decide (e.poster = m))
  have hr : Tells (u.dropEntries fun e => decide (e.poster = m)) (u.dropEntries fun e => decide (e.poster = m)).freeRing
      (fun _ => false) (fun _ => []) :=
    Tells.of_eq (State.freeRing_changeSets _) (State.freeRing_attention _) (fun n => by rw [State.freeRing_sessions])
  refine ((hf.trans hd).trans hr).congr (fun z => ?_) fun n => ?_
  · simp only [all, decide_true, Bool.true_and, Bool.or_false]
  rw [List.append_nil, hq, List.filter_filter, List.filter_filter]
  congr 1
  by_cases h : n = m
  · subst h
    rw [if_pos rfl]
    congr 1
    refine List.filter_congr fun e _ => ?_
    by_cases he : e.poster = n <;> simp [he, all]
  · rw [if_neg h, List.filter_eq_nil_iff.mpr, List.map_nil]
    intro e _
    by_cases he : e.poster = m
    · have : ¬ m = n := fun x => h x.symm
      simp [he, this]
    · simp [he]

theorem endSessionFold_tells (m : Master) (s : State) :
    Tells s (allZones.foldl (State.endSessionAt m) s) (fun y => decide (y ∈ allZones) && s.movedByEnd m y)
      (fun n => allZones.flatMap (s.endReports m n)) :=
  fold_tells (State.endSessionAt m) (fun s => s.movedByEnd m) (fun s => s.endReports m) (NearEnd m)
    (fun s z => endSessionAt_tells m s z) (fun _ _ _ h => h.alike) (fun _ _ _ _ h hne => h.keeps hne) s allZones s
    (by decide) fun y _ => .refl m s y

/-- What a session end tells, and to whom (R45, R60, R61, R69, R83). -/
theorem endSession_tells (m : Master) (s : State) :
    Tells s (s.endSession m) (s.movedByEnd m)
      (fun n => allZones.flatMap (s.endReports m n) ++
        if n = m then
          (s.queue.filter fun e => decide (e.poster = m) && !s.holds m e.zone).map fun e =>
            .actionDropped e.tag e.zone .lostZone
        else []) :=
  leftover_tells m s _ allZones mem_allZones (endSessionFold_tells m s)
    (endSessionFold_queue_eq m s allZones s (by decide) fun _ _ => rfl)

/-- A zone record that was reassigned and driven has come to drive what the law of driving gives (R120, R125). -/
theorem redriven_of_drive {s t : State} {z : ZoneId} {a : Authority} {c v : Value}
    (h : t.zones[z] = (s.zones[z].reassign a c).drive (s.fallback z) s.config.zones[z].checkTime s.timeCount)
    (hv : drivenBy a c (s.fallback z) s.zones[z].inhibit = some v) : Redriven s t z v := by
  unfold Redriven
  rw [h]
  exact Zone.drive_some _ _ _ (s.zones[z].reassign a c) v hv

theorem playsAt_ended {s : State} {m : Master} {z : ZoneId} :
    s.playsAt m z = false ↔
      s.endedAuthority m z = s.zones[z].authority ∧ s.holds m z = false ∧ s.isCandidate m z = false := by
  unfold State.playsAt State.endedAuthority State.holds State.requests State.isCandidate
  cases s.zones[z].authority with
  | held h => by_cases hm : h = m <;> simp [Authority.holder, hm]
  | transfer h p =>
    by_cases hm : h = m
    · simp [Authority.holder, hm]
    · by_cases hp : p.requester = m <;> simp [Authority.holder, hm, hp]
  | settling c => by_cases hm : c.master = m <;> simp [Authority.holder, hm]
  | _ => simp [Authority.holder]

theorem State.needs_congr {s t : State} (h : t.sessions = s.sessions) (o k : Serial) : t.needs o k = s.needs o k := by
  unfold State.needs State.cursorNeeds
  rw [h]

/-- What the ring frees (R141). -/
theorem freeRing_freed (s : State) : RingFreed s s.freeRing := by
  have hn : ∀ o k, s.freeRing.needs o k = s.needs o k := fun o k => State.needs_congr (State.freeRing_sessions s) o k
  unfold RingFreed
  simp only [hn]
  unfold State.freeRing
  cases hr : s.ring with
  | nil => exact ⟨[], by simp [hr], by simp⟩
  | cons r rest =>
    refine ⟨(r :: rest).takeWhile (fun x => !s.needs r.serial x.serial), ?_, ?_⟩
    · simp only [State.withCaptures_ring, List.takeWhile_append_dropWhile]
    · intro o ho
      simp only [List.head?_cons, Option.mem_def, Option.some.injEq] at ho
      subst ho
      refine ⟨fun x hx => by simpa using List.mem_takeWhile_imp hx, fun x hx => ?_⟩
      simp only [State.withCaptures_ring] at hx
      have hne := List.head?_dropWhile_not (fun x => !s.needs r.serial x.serial) (r :: rest)
      rw [Option.mem_def.mp hx] at hne
      simpa using hne

/-- A session end moves no other master's held zones. -/
theorem endSessionAt_holds (m n : Master) (h : n ≠ m) (s : State) (z y : ZoneId) :
    (State.endSessionAt m s z).holds n y = s.holds n y := by
  by_cases hy : z = y
  · subst hy
    have hm : ¬ m = n := fun x => h x.symm
    have ha : (State.endSessionAt m s z).zones[z].authority = s.endedAuthority m z := by
      rw [endSessionAt_zone]
      split
      · rename_i hc; exact hc.1.symm
      · simp [Zone.reassign]
    unfold State.holds
    rw [ha]
    unfold State.endedAuthority
    cases s.zones[z].authority with
    | held k =>
      by_cases hk : k = m
      · subst hk; simp only [if_true, settledBy_holder]; simp [Authority.holder, hm]
      · simp [hk]
    | transfer k p =>
      by_cases hk : k = m
      · subst hk; simp [Authority.holder, hm]
      · by_cases hp : p.requester = m <;> simp [Authority.holder, hk, hp]
    | settling c =>
      by_cases hk : c.master = m
      · simp only [hk, if_true, settledBy_holder]; simp [Authority.holder]
      · simp [hk]
    | _ => rfl
  · unfold State.holds
    rw [endSessionAt_other m s z y hy]

theorem endSession_others (m n : Master) (h : n ≠ m) (s : State) : (s.endSession m).sessions[n] = s.sessions[n] := by
  have key : ∀ (l : List ZoneId) (t : State), (l.foldl (State.endSessionAt m) t).sessions[n] = t.sessions[n] := by
    intro l
    induction l with
    | nil => intro t; rfl
    | cons z l ih =>
      intro t
      rw [List.foldl_cons, ih, endSessionAt_session]
      have hc : (State.endSessionAt m t z).heldCount n = t.heldCount n :=
        List.countP_congr fun y _ => by rw [endSessionAt_holds m n h t z y]
      rw [hc, Session.counted_same]
  have h1 : (s.endSession m).sessions = (allZones.foldl (State.endSessionAt m) s).sessions := by
    unfold State.endSession; simp only [State.freeRing_sessions, State.dropEntries_sessions]
  simp only [h1]
  exact key _ _

/-- A session end gives the master no zone. -/
theorem endSessionAt_heldCount_le (m : Master) (s : State) (z : ZoneId) :
    (State.endSessionAt m s z).heldCount m ≤ s.heldCount m := by
  refine List.countP_mono_left fun y _ hy => ?_
  by_cases hzy : z = y
  · subst hzy
    have ha : (State.endSessionAt m s z).zones[z].authority = s.endedAuthority m z := by
      rw [endSessionAt_zone]
      split
      · rename_i hc; exact hc.1.symm
      · simp [Zone.reassign]
    unfold State.holds at hy ⊢
    rw [ha] at hy
    unfold State.endedAuthority at hy
    cases hz : s.zones[z].authority with
    | held k =>
      by_cases hk : k = m
      · subst hk; simp [Authority.holder]
      · simpa only [hz, hk, if_false] using hy
    | transfer k p =>
      by_cases hk : k = m
      · subst hk; simp [Authority.holder]
      · by_cases hp : p.requester = m <;> simp [-Fin.getElem_fin, hz, hk, hp, Authority.holder] at hy
    | settling c =>
      by_cases hk : c.master = m
      · simp only [hz, hk, if_true, settledBy_holder, reduceCtorEq, decide_false, Bool.false_eq_true] at hy
      · simpa only [hz, hk, if_false] using hy
    | _ => simpa only [hz] using hy
  · unfold State.holds at hy ⊢
    rwa [endSessionAt_other m s z y hzy] at hy

/-- A session record with a stopped timer stays as it is. -/
theorem endSession_own (m : Master) (s : State) (h : s.sessions[m].timer = .stopped) :
    (s.endSession m).sessions[m] = s.sessions[m] := by
  have key : ∀ (l : List ZoneId) (t : State), t.sessions[m] = s.sessions[m] →
      (l.foldl (State.endSessionAt m) t).sessions[m] = s.sessions[m] := by
    intro l
    induction l with
    | nil => intro t ht; exact ht
    | cons z l ih =>
      intro t ht
      refine ih _ ?_
      rw [endSessionAt_session, Session.counted_stopped _ _ _ _ (by rw [ht]; exact h)
        (endSessionAt_heldCount_le m t z)]
      exact ht
  have h1 : (s.endSession m).sessions = (allZones.foldl (State.endSessionAt m) s).sessions := by
    unfold State.endSession; simp only [State.freeRing_sessions, State.dropEntries_sessions]
  simp only [h1]
  exact key _ _ rfl

/-- A session end as a whole (R45). -/
theorem endSession_spec (m : Master) (s : State) : SessionEnds s (s.endSession m) m := by
  have tells := endSession_tells m s
  refine ⟨fun z => ?_, endSession_queue m s, ?_, fun n hn => ⟨endSession_others m n hn s, tells.sets n, ?_⟩⟩
  · obtain ⟨h1, h2, h3, h4, h5⟩ := endSession_fields m s z
    have hz := (endSession_zone m s z).trans (endSessionAt_zone m s z)
    refine ⟨h1, h2, h3, h4, h5, fun hp v hv => ?_, fun hp => ?_⟩
    · rw [if_neg fun hc => by rw [playsAt_ended.mpr hc] at hp; cases hp] at hz
      exact redriven_of_drive hz hv
    · rw [if_pos (playsAt_ended.mp hp)] at hz
      exact hz
  · have hr : (allZones.foldl (State.endSessionAt m) s).ring = s.ring :=
      foldl_keeps State.ring _ (fun s z => by simp) _ _
    have := freeRing_freed ((allZones.foldl (State.endSessionAt m) s).dropEntries fun e => decide (e.poster = m))
    unfold RingFreed at this ⊢
    rw [State.dropEntries_ring, hr] at this
    exact this
  · rw [tells.attention n, State.sessionEndReports, List.append_assoc]

/-! ### Revocation and strikes -/

/-- A revocation as a whole (R44). -/
theorem revoke_spec (m : Master) (reason : RevokeReason) (s : State) : Revokes s (s.revoke m reason) m reason := by
  have hx : s.revoke m reason = ((s.withRevoked m reason).signal m (.revoked reason)).endSession m := rfl
  rw [hx]
  have hst : (s.withRevoked m reason).sessions[m] =
      { s.sessions[m] with standing := .revoked, timer := .stopped, revokeReason := some reason } := by
    rw [State.withRevoked, State.withSession_sessions, at_set_self]
  have hcs : (s.withRevoked m reason).changeSets = s.changeSets := rfl
  have hd : (s.withRevoked m reason).sessions[m].standing ≠ .detached := by rw [hst]; simp
  have ht : (s.withRevoked m reason).sessions[m].timer = .stopped := by rw [hst]
  have hia : (s.withRevoked m reason).isAttached m = false := by rw [State.isAttached, hst]; rfl
  have hsig : ∃ a, (s.withRevoked m reason).signal m (.revoked reason) = (s.withRevoked m reason).withAttention m a ∧
      a = (s.withRevoked m reason).attention[m].after (.revoked reason) := by
    unfold State.signal
    rw [hst]
    exact ⟨_, rfl, rfl⟩
  rw [Revokes, ← hst, ← hcs]
  obtain ⟨a, hsig, ha⟩ := hsig
  rw [hsig]
  generalize s.withRevoked m reason = u at hd ht hia ha ⊢
  have hu : (u.withAttention m a).attention[m] = a := by rw [State.withAttention_attention, at_set_self]
  have hA : ∀ z, (u.withAttention m a).endedAuthority m z = u.endedAuthority m z := fun z =>
    SameContext.endedAuthority (s := u) (t := u.withAttention m a) (.of_sessions rfl rfl rfl) m z rfl
  have hM : (u.withAttention m a).movedByEnd m = u.movedByEnd m := funext fun z => by
    rw [State.movedByEnd, hA]; rfl
  obtain ⟨hz, hq, hr, ho⟩ := endSession_spec m (u.withAttention m a)
  simp only [hA, hM] at hz ho
  have tells := (endSession_tells m (u.withAttention m a)).attention m
  refine ⟨⟨hz, hq, hr, fun n hn => ⟨(ho n hn).1, (ho n hn).2.1, ?_⟩⟩, endSession_own m _ ht, ?_, ?_, ?_, ?_⟩
  · have hn' : (u.withAttention m a).attention[n] = u.attention[n] := by
      rw [State.withAttention_attention, at_set_ne _ (fun x => hn x.symm)]
    rw [(ho n hn).2.2, State.told, State.told, hn', State.sessionEndReports, hM]
    rfl
  · rw [tells, State.told, State.told, hu,
      if_neg (show ¬ (u.withAttention m a).sessions[m].standing = .detached from hd), if_neg hd, List.foldl_cons, ← ha,
      State.sessionEndReports, List.append_assoc, hM]
    rfl
  · refine (lasting_flag .revoked).endSession _ m m ?_
    rw [hu, ha, Attention.after_flag]
    simp [Signal.flag]
  · refine (lasting_revoke reason).endSession _ m m ?_
    rw [hu, ha]; rfl
  · exact endSession_changeSet_idle m _ m hia

/-- A zone record after a strike against `m`, from the state in which the strike is pending. -/
theorem loseEligibilityAt_zone (m : Master) (s : State) (z : ZoneId) :
    (State.loseEligibilityAt m s z).zones[z] =
      if s.requests m z = false ∧ s.isCandidate m z = false then s.zones[z]
      else
        (s.zones[z].reassign (s.struckAuthority m z)
          (if s.isCandidate m z = true then s.fallback z else s.zones[z].commanded)).drive (s.fallback z)
          s.config.zones[z].checkTime s.timeCount := by
  unfold State.loseEligibilityAt State.struckAuthority State.requests State.isCandidate
  cases ha : s.zones[z].authority with
  | transfer h p =>
    dsimp only
    by_cases hr : p.requester = m
    · rw [if_pos hr, if_pos hr, if_neg (fun x => by rw [decide_eq_true hr] at x; cases x.1), if_neg (by decide),
        dropRequest_zones, State.setAuthority_zones_self]
    · rw [if_neg hr, if_pos ⟨decide_eq_false hr, rfl⟩]
  | settling c =>
    dsimp only
    by_cases hr : c.master = m
    · rw [if_pos hr, if_pos hr, if_neg (fun x => by rw [decide_eq_true hr] at x; cases x.2), if_pos (decide_eq_true hr),
        State.dropCandidacy, State.setAuthority_zones_self]
    · rw [if_neg hr, if_pos ⟨rfl, decide_eq_false hr⟩]
  | _ => dsimp only; rw [if_pos ⟨rfl, rfl⟩]

theorem loseEligibilityAt_alike (m : Master) (s t : State) (z : ZoneId) (h : SameContext s t)
    (hz : s.zones[z] = t.zones[z]) :
    (State.loseEligibilityAt m s z).zones[z] = (State.loseEligibilityAt m t z).zones[z] := by
  have h1 : t.requests m z = s.requests m z := by unfold State.requests; rw [hz]
  have h2 : t.isCandidate m z = s.isCandidate m z := by unfold State.isCandidate; rw [hz]
  have hk : t.config.zones[z].checkTime = s.config.zones[z].checkTime := by simp only [h.1]
  rw [loseEligibilityAt_zone, loseEligibilityAt_zone, h.struckAuthority m z hz, h1, h2, h.fallback, hk, h.2.1, hz]

/-- What a strike's drops tell, and to whom (R60). -/
theorem strikeFold_tells (m : Master) (s : State) :
    Tells s (allZones.foldl (State.loseEligibilityAt m) s)
      (fun y => decide (y ∈ allZones) && s.zones[y].authority.moves (s.struckAuthority m y))
      (fun n => allZones.flatMap fun z => s.dropReports m z n) :=
  fold_tells (State.loseEligibilityAt m) (fun s z => s.zones[z].authority.moves (s.struckAuthority m z))
    (fun s n z => s.dropReports m z n) (fun s t z => SameContext s t ∧ s.zones[z] = t.zones[z])
    (fun s z => loseEligibilityAt_tells m s z)
    (fun s t z h => ⟨by rw [h.1.struckAuthority m z h.2, h.2], fun n => by
      unfold State.dropReports; rw [h.2]⟩)
    (fun s t y z h hne => ⟨h.1.trans (loseEligibilityAt_context m t z), by
      rw [loseEligibilityAt_other m t z y hne]; exact h.2⟩)
    s allZones s (by decide) fun _ _ => ⟨.refl s, rfl⟩

/-- A strike as a whole (R30). -/
theorem recordStrike_spec (m : Master) (s : State) (hd : s.sessions[m].standing ≠ .detached) :
    Strikes s (s.recordStrike m) m := by
  have hx : s.recordStrike m =
      allZones.foldl (State.loseEligibilityAt m) ((s.withStrike m).signal m .supervisionWarning) := rfl
  have hst : (s.withStrike m).sessions[m] = { s.sessions[m] with strike := true } := by
    rw [State.withStrike, State.withSession_sessions, at_set_self]
  have hstand : ∀ n : Master, (s.withStrike m).sessions[n].standing = s.sessions[n].standing := by
    intro n
    by_cases h : m = n
    · subst h; rw [hst]
    · rw [State.withStrike, State.withSession_sessions, at_set_ne _ h]
  have hctx : SameContext (s.withStrike m) ((s.withStrike m).signal m .supervisionWarning) := signal_context _ _ _
  have hs := recordStrike_sessions m s
  have hz := fun z => fold_zones _ (loseEligibilityAt_other m) (loseEligibilityAt_context m)
    (loseEligibilityAt_alike m) ((s.withStrike m).signal m .supervisionWarning) z
  have hstruck : ∀ z, ((s.withStrike m).signal m .supervisionWarning).struckAuthority m z =
      (s.withStrike m).struckAuthority m z := fun z => hctx.struckAuthority m z (by rw [State.signal_zones])
  have htell := (signal_tells (s.withStrike m) m .supervisionWarning).trans
    (strikeFold_tells m ((s.withStrike m).signal m .supervisionWarning))
  have hzone : ∀ z, (s.recordStrike m).zones[z] =
      if s.requests m z = false ∧ s.isCandidate m z = false then s.zones[z]
      else
        (s.zones[z].reassign ((s.withStrike m).struckAuthority m z)
          (if s.isCandidate m z = true then s.fallback z else s.zones[z].commanded)).drive (s.fallback z)
          s.config.zones[z].checkTime s.timeCount := by
    intro z
    have h0 := (hz z).trans (loseEligibilityAt_zone m _ z)
    rw [hstruck z] at h0
    have hw : ((s.withStrike m).signal m .supervisionWarning).zones = s.zones := State.signal_zones _ _ _
    have hc : ((s.withStrike m).signal m .supervisionWarning).config = s.config := State.signal_config _ _ _
    have ht : ((s.withStrike m).signal m .supervisionWarning).timeCount = s.timeCount := State.signal_timeCount _ _ _
    have h1 : ((s.withStrike m).signal m .supervisionWarning).requests m z = s.requests m z := by
      unfold State.requests; rw [hw]
    have h2 : ((s.withStrike m).signal m .supervisionWarning).isCandidate m z = s.isCandidate m z := by
      unfold State.isCandidate; rw [hw]
    rw [hx, h0, h1, h2, State.fallback, hw, hc, ht]
    rfl
  have hkeep : ∀ z, s.requests m z = false ∧ s.isCandidate m z = false →
      (s.withStrike m).struckAuthority m z = s.zones[z].authority := by
    intro z ⟨h1, h2⟩
    unfold State.struckAuthority State.requests State.isCandidate at *
    change (match s.zones[z].authority with
      | .transfer h p => if p.requester = m then .held h else .transfer h p
      | .settling c => if c.master = m then settledBy ((s.withStrike m).choose z c.origin.resume) else .settling c
      | a => a) = s.zones[z].authority
    cases ha : s.zones[z].authority with
    | transfer h p => rw [ha] at h1; dsimp only at h1 ⊢; rw [if_neg (of_decide_eq_false h1)]
    | settling c => rw [ha] at h2; dsimp only at h2 ⊢; rw [if_neg (of_decide_eq_false h2)]
    | _ => rfl
  have hholder : ∀ z, ((s.withStrike m).struckAuthority m z).holder = s.zones[z].authority.holder := fun z =>
    struckAuthority_holder (s.withStrike m) m z
  have moved : ∀ y, (decide (y ∈ allZones) && ((s.withStrike m).signal m .supervisionWarning).zones[y].authority.moves
      (((s.withStrike m).signal m .supervisionWarning).struckAuthority m y)) = s.movedByStrike m y := by
    intro y
    rw [hstruck y, State.signal_zones, decide_eq_true (mem_allZones y), Bool.true_and]
    rfl
  have drops : ∀ n z, ((s.withStrike m).signal m .supervisionWarning).dropReports m z n = s.dropReports m z n := by
    intro n z
    unfold State.dropReports
    rw [State.signal_zones]
    rfl
  have tells := htell.congr (m₂ := s.movedByStrike m)
    (e₂ := fun n => (if n = m then [.supervisionWarning] else []) ++ allZones.flatMap fun z => s.dropReports m z n)
    (fun y => by rw [← moved y, Bool.false_or]) (fun n => by simp only [drops])
  rw [← hx] at tells
  have hreport : ∀ n, (s.withStrike m).changeReport n (s.movedByStrike m) = s.changeReport n (s.movedByStrike m) := by
    intro n
    unfold State.changeReport State.isAttached
    rw [hstand n]
    rfl
  have hatt : ∀ n : Master, (s.recordStrike m).attention[n] =
      s.told n (s.changeReport n (s.movedByStrike m) ++ (if n = m then [.supervisionWarning] else []) ++
        allZones.flatMap fun z => s.dropReports m z n) := by
    intro n
    rw [tells.attention n, hreport n, List.append_assoc, State.told, State.told, hstand n]
    rfl
  refine ⟨fun z => ?_, ?_, fun n hn => ?_, State.recordStrike_queue s m, State.recordStrike_ring s m, fun n z => ?_, hatt,
    ?_⟩
  · rw [hzone z]
    by_cases hk : s.requests m z = false ∧ s.isCandidate m z = false
    · rw [if_pos hk]
      refine ⟨(hkeep z hk).symm, rfl, by rw [hk.2]; rfl, rfl, rfl, fun h => ?_, fun _ _ => rfl⟩
      rw [hk.1, hk.2] at h
      simp at h
    · rw [if_neg hk]
      refine ⟨by rw [Zone.drive_authority]; rfl, ?_, by rw [Zone.drive_commanded]; rfl, by rw [Zone.drive_inhibit]; rfl,
        by rw [Zone.drive_sensed]; rfl, fun _ v hv => ?_, fun h1 h2 => absurd ⟨h1, h2⟩ hk⟩
      · rw [Zone.drive_epoch]
        simp only [Zone.reassign, hholder z, if_true]
      · have hz' := hzone z
        rw [if_neg hk] at hz'
        rw [Zone.drive_commanded] at hv
        exact redriven_of_drive hz' hv
  · rw [hs, at_set_self]
  · rw [hs, at_set_ne _ fun x => hn x.symm]
  · have h1 := tells.sets n z
    rwa [State.isAttached, hstand n] at h1
  · rw [hatt m, State.told, if_neg hd, if_pos rfl, List.foldl_append, List.foldl_append]
    have key : ∀ (l : List Signal) (a : Attention), Flag.supervisionWarning.mem a.flags = true →
        Flag.supervisionWarning.mem (l.foldl Attention.after a).flags = true := by
      intro l
      induction l with
      | nil => intro a h; exact h
      | cons e l ih => intro a h; exact ih _ (by rw [Attention.after_flag, h, Bool.true_or])
    refine key _ _ ?_
    rw [List.foldl_cons, List.foldl_nil, Attention.after_flag]
    simp [Signal.flag]

/-! ### Faults -/

theorem faultFors_tells (z : ZoneId) (s : State) :
    ∀ (l : List Master) (t : State), l.Nodup → SameContext s t →
      Tells t (l.foldl (State.faultFor z) t) (fun _ => false)
        (fun n => if n ∈ l ∧ (s.isAttached n && s.permits z n) = true then [.zoneFault] else []) := by
  intro l
  induction l with
  | nil => intro t _ _; exact (Tells.refl t).congr (fun _ => rfl) fun n => by simp
  | cons k l ih =>
    intro t hl hc
    have hmem := List.nodup_cons.mp hl
    have hk : (t.isAttached k && t.permits z k) = (s.isAttached k && s.permits z k) := by
      rw [hc.isAttached k]; simp only [State.permits, hc.1]
    rw [List.foldl_cons]
    by_cases h : (s.isAttached k && s.permits z k) = true
    · have hf : State.faultFor z t k = t.signal k .zoneFault := if_pos (hk.trans h)
      rw [hf]
      refine ((signal_tells t k .zoneFault).trans (ih _ hmem.2 (hc.trans (signal_context _ _ _)))).congr
        (fun _ => rfl) fun n => ?_
      by_cases hn : n = k
      · subst hn; simp [hmem.1, h]
      · simp [hn]
    · have hf : State.faultFor z t k = t := if_neg fun x => h (hk.symm.trans x)
      rw [hf]
      refine (ih t hmem.2 hc).congr (fun _ => rfl) fun n => ?_
      by_cases hn : n = k
      · subst hn; rw [if_neg fun x => h x.2, if_neg fun x => h x.2]
      · simp [hn]

theorem faultHolder_tells (s : State) (z : ZoneId) (o : Option Master) :
    Tells s (s.faultHolder z o) (fun _ => false)
      (fun n => if o = some n then s.removalReports n z ++ [.lost z .fault] else []) := by
  cases o with
  | none => exact (Tells.refl s).congr (fun _ => rfl) fun n => by simp
  | some h =>
    refine ((dropEntries_tells s (Entry.isOf h z)).trans (signal_tells _ h (.lost z .fault))).congr (fun _ => rfl)
      fun n => ?_
    rw [removalReports_filter]
    by_cases hn : n = h
    · subst hn; simp
    · have : ¬ h = n := fun x => hn x.symm
      simp [hn, this]

theorem faultRequester_tells (s : State) (z : ZoneId) (o : Option Pending) :
    Tells s (s.faultRequester z o) (fun _ => false)
      (fun n => if o.map (·.requester) = some n then [.handoverResult z .dropped] else []) := by
  cases o with
  | none => exact (Tells.refl s).congr (fun _ => rfl) fun n => by simp
  | some p =>
    refine (signal_tells s p.requester _).congr (fun _ => rfl) fun n => ?_
    by_cases hn : n = p.requester
    · simp [hn]
    · have : ¬ p.requester = n := fun x => hn x.symm
      simp [hn, this]

theorem faultHolder_context (s : State) (z : ZoneId) (o : Option Master) : SameContext s (s.faultHolder z o) := by
  cases o with
  | none => exact .refl s
  | some h => exact (dropEntries_context s _).trans (signal_context _ _ _)

theorem faultRequester_context (s : State) (z : ZoneId) (o : Option Pending) : SameContext s (s.faultRequester z o) := by
  cases o with
  | none => exact .refl s
  | some p => exact signal_context _ _ _

/-- What entry into FAULTED tells, and to whom (R62, R127, R128). -/
theorem faultZone_tells (s : State) (z : ZoneId) :
    Tells s (s.faultZone z) (fun y => decide (y = z) && s.zones[z].authority.moves .faulted)
      (fun n => s.faultReports n z) := by
  have h1 := setAuthority_tells s z .faulted (s.fallback z)
  have c1 := setAuthority_context s z .faulted (s.fallback z)
  have q1 : (s.setAuthority z .faulted (s.fallback z)).queue = s.queue := State.setAuthority_queue _ _ _ _
  have hx : s.faultZone z = allMasters.foldl (State.faultFor z)
      (((s.setAuthority z .faulted (s.fallback z)).faultHolder z s.zones[z].authority.holder).faultRequester z
        s.zones[z].authority.request) := rfl
  rw [hx]
  generalize s.setAuthority z .faulted (s.fallback z) = t at h1 c1 q1 ⊢
  have h2 := faultHolder_tells t z s.zones[z].authority.holder
  have c2 := c1.trans (faultHolder_context t z s.zones[z].authority.holder)
  generalize t.faultHolder z s.zones[z].authority.holder = u at h2 c2 ⊢
  have h3 := faultRequester_tells u z s.zones[z].authority.request
  have c3 := c2.trans (faultRequester_context u z s.zones[z].authority.request)
  generalize u.faultRequester z s.zones[z].authority.request = v at h3 c3 ⊢
  have h4 := faultFors_tells z s allMasters v (by decide) c3
  refine (((h1.trans h2).trans h3).trans h4).congr (fun y => by simp only [Bool.or_false]) fun n => ?_
  have hr : t.removalReports n z = s.removalReports n z := by rw [State.removalReports, State.removalReports, q1]
  have hq : s.requests n z = decide (s.zones[z].authority.request.map (·.requester) = some n) := by
    unfold State.requests
    cases s.zones[z].authority <;> simp [Authority.request]
  have hm : n ∈ allMasters := mem_allMasters n
  simp only [hr, List.nil_append, State.faultReports, State.holds, hq, decide_eq_true_eq, hm, true_and, List.append_assoc]

theorem onlyFaults (s t : State) (h1 : t.timeCount = s.timeCount) (h2 : t.banks = s.banks)
    (h3 : t.lastServed = s.lastServed) (h4 : t.chosen = s.chosen) (h5 : t.inputs = s.inputs)
    (h6 : t.nextSerial = s.nextSerial) (h7 : t.ring = s.ring) (h8 : t.ports = s.ports) (h9 : t.device = s.device)
    (h10 : t.resetCause = s.resetCause) (h11 : t.cfg = s.cfg) (h12 : t.startupStore = s.startupStore)
    (h13 : t.presentStore = s.presentStore) (h14 : t.store = s.store) (h15 : t.config = s.config)
    (h16 : t.source = s.source) (h17 : t.pending = s.pending) :
    t = { s with zones := t.zones, changeSets := t.changeSets, sessions := t.sessions, attention := t.attention,
                 queue := t.queue } := by
  cases t
  subst h1 h2 h3 h4 h5 h6 h7 h8 h9 h10 h11 h12 h13 h14 h15 h16 h17
  rfl

/-- Entry of a zone that is not FAULTED into FAULTED, as a whole (R127, R128). -/
theorem faultZone_spec (s : State) (z : ZoneId) (hn : s.zones[z].authority ≠ .faulted) :
    Faults s (s.faultZone z) (fun y => decide (y = z)) := by
  have tells := faultZone_tells s z
  have hz : (s.faultZone z).zones = (s.setAuthority z .faulted (s.fallback z)).zones := by
    unfold State.faultZone
    refine (foldl_keeps State.zones _ (fun _ _ => by simp) _ _).trans (by simp)
  have hs : (s.faultZone z).sessions = (s.setAuthority z .faulted (s.fallback z)).sessions := by
    unfold State.faultZone
    refine (foldl_keeps State.sessions _ (fun _ _ => by simp) _ _).trans (by simp)
  have hmv : s.zones[z].authority.moves .faulted = true := by
    unfold Authority.moves
    cases h : s.zones[z].authority <;> first | exact absurd h hn | simp [Authority.kind]
  have hq : (s.faultZone z).queue = s.queue.filter (fun e => !(decide (e.zone = z) && s.holds e.poster e.zone)) := by
    have h0 : (s.faultZone z).queue =
        ((s.setAuthority z .faulted (s.fallback z)).faultHolder z s.zones[z].authority.holder).queue := by
      unfold State.faultZone
      refine (foldl_keeps State.queue _ (fun _ _ => by simp) _ _).trans (by simp)
    rw [h0]
    unfold State.faultHolder State.holds
    cases hh : s.zones[z].authority.holder with
    | none =>
      rw [State.setAuthority_queue, List.filter_eq_self.mpr]
      intro e _
      by_cases he : e.zone = z
      · rw [he, hh]; simp
      · simp [he]
    | some h =>
      rw [State.signal_queue, State.dropEntries_queue, State.setAuthority_queue]
      refine List.filter_congr fun e _ => ?_
      by_cases he : e.zone = z
      · rw [he, hh]
        by_cases hp : e.poster = h
        · simp [Entry.isOf, he, hp]
        · have : ¬ h = e.poster := fun x => hp x.symm
          simp [Entry.isOf, he, hp, this]
      · simp [Entry.isOf, he]
  have mv : ∀ y, (decide (y = z) && s.zones[z].authority.moves .faulted) = decide (y = z) := fun y => by
    rw [hmv, Bool.and_true]
  have told := tells.congr (m₂ := fun y => decide (y = z))
    (e₂ := fun n => allZones.flatMap fun y => if decide (y = z) then s.faultReports n y else []) mv fun n => by
      have one : ∀ l : List ZoneId, l.Nodup →
          (l.flatMap fun y => if decide (y = z) then s.faultReports n y else []) =
            if z ∈ l then s.faultReports n z else [] := by
        intro l
        induction l with
        | nil => intro _; simp
        | cons y l ih =>
          intro hl
          have hmem := List.nodup_cons.mp hl
          rw [List.flatMap_cons, ih hmem.2]
          by_cases hy : y = z
          · subst hy; simp [hmem.1]
          · have : ¬ z = y := fun x => hy x.symm
            simp [hy, this]
      rw [one allZones (by decide), if_pos (mem_allZones z)]
  refine ⟨?_, fun y => ⟨fun hy => ?_, fun hy => ?_⟩, hq, fun n => ?_, fun n => ⟨told.sets n, told.attention n⟩⟩
  · exact onlyFaults s _ (by simp) (by simp) (by simp) (by simp) (by simp) (by simp) (by simp) (by simp) (by simp)
      (by simp) (by simp) (by simp) (by simp) (by simp) (by simp) (by simp) (by simp)
  · obtain rfl := of_decide_eq_true hy
    have hzone : (s.faultZone y).zones[y] = (s.zones[y].reassign .faulted (s.fallback y)).drive (s.fallback y)
        s.config.zones[y].checkTime s.timeCount := by rw [hz, State.setAuthority_zones_self]
    unfold EpochFollows
    rw [hzone]
    refine ⟨by rw [Zone.drive_authority]; rfl, by rw [Zone.drive_driven]; rfl, by rw [Zone.drive_commanded]; rfl,
      by rw [Zone.drive_epoch, Zone.drive_authority]; rfl, by rw [Zone.drive_inhibit]; rfl,
      by rw [Zone.drive_sensed]; rfl, fun d hd => ?_⟩
    unfold Zone.drive
    rw [show (s.zones[y].reassign .faulted (s.fallback y)).driven = some d from hd]
    rfl
  · rw [hz, State.setAuthority_zones_ne s fun x => of_decide_eq_false hy x.symm]
  · rw [hs, State.setAuthority_sessions, State.heldCount_congr hz]

end Sys2Proof.Machine
end

