-- ==== Sys2Proof/Laws/Inhibits.lean ====
section
/-! SUPPORT. What the input unit's events do as a whole: a change of one zone's inhibit set, of an input's memberships
at all eight zones, and the append of a capture, each with what every master is told. -/

namespace Sys2Proof.Machine

/-! ### One zone -/

/-- The zone record after its inhibit set has become `new` (R149, R150). -/
theorem State.setInhibit_zones (s : State) (z y : ZoneId) (new : InputSet) :
    (s.setInhibit z new).zones[y] =
      if z = y then
        Zone.drive (s.fallback z) s.config.zones[z].checkTime s.timeCount
          { s.zones[z] with
            inhibit := new
            commanded := if s.zones[z].inhibit = 0 ∧ new ≠ 0 then s.fallback z else s.zones[z].commanded }
      else s.zones[y] := by
  unfold State.setInhibit
  dsimp only
  by_cases h : s.zones[z].inhibit = 0 ∧ new ≠ 0
  · simp only [if_pos h, State.tellHolderInhibit_zones, State.putZone_zones]
  · simp only [if_neg h]
    split
    · simp only [State.tellHolderInhibit_zones, State.putZone_zones]
    · simp only [State.putZone_zones]

theorem putZone_tells (s : State) (z : ZoneId) (r : Zone) :
    Tells s (s.putZone z r) (fun _ => false) (fun _ => []) :=
  Tells.of_eq rfl rfl fun _ => rfl

theorem tellHolderInhibit_tells (s : State) (z : ZoneId) :
    Tells s (s.tellHolderInhibit z) (fun _ => false) (fun n => if s.holds n z then [.inhibitChange] else []) := by
  unfold State.tellHolderInhibit
  cases h : s.zones[z].authority.holder with
  | none => exact (Tells.refl s).congr (fun _ => rfl) fun n => by simp [State.holds, -Fin.getElem_fin, h]
  | some k =>
    refine (signal_tells s k .inhibitChange).congr (fun _ => rfl) fun n => ?_
    by_cases hn : n = k
    · subst hn; simp [State.holds, -Fin.getElem_fin, h]
    · have : ¬ k = n := fun x => hn x.symm
      simp [State.holds, -Fin.getElem_fin, h, hn, this]

/-- The holder alone is told, where the inhibit starts or ends (R149, R150). -/
theorem setInhibit_tells (s : State) (z : ZoneId) (new : InputSet) :
    Tells s (s.setInhibit z new) (fun _ => false)
      (fun n => if s.holds n z = true ∧ ¬ (s.zones[z].inhibit = 0 ↔ new = 0) then [.inhibitChange] else []) := by
  have told : ∀ r : Zone, r.authority = s.zones[z].authority → ¬ (s.zones[z].inhibit = 0 ↔ new = 0) →
      Tells s ((s.putZone z r).tellHolderInhibit z) (fun _ => false)
        (fun n => if s.holds n z = true ∧ ¬ (s.zones[z].inhibit = 0 ↔ new = 0) then [.inhibitChange] else []) := by
    intro r hr hc
    refine ((putZone_tells s z r).trans (tellHolderInhibit_tells _ z)).congr (fun _ => rfl) fun n => ?_
    have : (s.putZone z r).holds n z = s.holds n z := by
      unfold State.holds
      rw [State.putZone_zones_self, Zone.drive_authority, hr]
    simp only [this, hc, not_false_iff, and_true, List.nil_append]
  unfold State.setInhibit
  dsimp only
  by_cases h1 : s.zones[z].inhibit = 0 ∧ new ≠ 0
  · rw [if_pos h1]
    exact told _ rfl fun x => h1.2 (x.mp h1.1)
  · rw [if_neg h1]
    by_cases h2 : s.zones[z].inhibit ≠ 0 ∧ new = 0
    · rw [if_pos h2]
      exact told _ rfl fun x => h2.1 (x.mpr h2.2)
    · rw [if_neg h2]
      refine (putZone_tells s z _).congr (fun _ => rfl) fun n => ?_
      rw [if_neg]
      rintro ⟨-, hc⟩
      refine hc ⟨fun x => ?_, fun x => ?_⟩
      · by_contra hn; exact h1 ⟨x, hn⟩
      · by_contra hn; exact h2 ⟨hn, x⟩

theorem setInhibit_context (s : State) (z : ZoneId) (new : InputSet) : SameContext s (s.setInhibit z new) :=
  .of_sessions (by simp) (by simp) (by simp)

/-! ### All eight zones -/

/-- An inhibit set with one input's membership set. -/
def memberSet (i : InputId) (member : Bool) (x : InputSet) : InputSet :=
  if member then x ||| BitVec.twoPow 8 i.val else x &&& ~~~ (BitVec.twoPow 8 i.val)

theorem memberSet_bit (i j : InputId) (member : Bool) (x : InputSet) :
    (memberSet i member x).getLsbD j.val = if j = i then member else x.getLsbD j.val := by
  have hj : j.val < 8 := j.isLt
  have hv : j.val = i.val ↔ j = i := Fin.ext_iff.symm
  unfold memberSet
  cases member <;> by_cases h : j = i
  · subst h; simp [hj]
  · simp [hj, hv, h]
  · subst h; simp [hj]
  · simp [hj, hv, h]

/-- The membership is the same at every zone, since no zone's change touches inputs or configuration. -/
theorem refresh_fold (s : State) (i : InputId) (l : List ZoneId) :
    ∀ t : State, t.inputs = s.inputs → t.config = s.config →
      l.foldl (State.refreshAt i) t =
        l.foldl (fun u z => u.setInhibit z (memberSet i (s.inhibits i z) u.zones[z].inhibit)) t := by
  induction l with
  | nil => intro _ _ _; rfl
  | cons z l ih =>
    intro t hi hc
    have h : State.refreshAt i t z = t.setInhibit z (memberSet i (s.inhibits i z) t.zones[z].inhibit) := by
      unfold State.refreshAt State.inhibitAfter memberSet State.inhibits State.forcing
      rw [hi, hc]
    rw [List.foldl_cons, List.foldl_cons, h]
    exact ih _ (by simp [hi]) (by simp [hc])

theorem refresh_zone (s : State) (i : InputId) (z : ZoneId) :
    (s.refresh i).zones[z] =
      (s.setInhibit z (memberSet i (s.inhibits i z) s.zones[z].inhibit)).zones[z] := by
  unfold State.refresh
  rw [refresh_fold s i allZones s rfl rfl]
  refine fold_zones (fun u z => u.setInhibit z (memberSet i (s.inhibits i z) u.zones[z].inhibit)) (fun u a y h => ?_)
    (fun u a => setInhibit_context _ _ _) (fun u t a hc hz => ?_) s z
  · rw [State.setInhibit_zones, if_neg h]
  · rw [State.setInhibit_zones, State.setInhibit_zones, if_pos rfl, if_pos rfl, hz]
    simp only [State.fallback, hc.1, hc.2.1]

theorem refresh_inhibit (s : State) (i : InputId) (z : ZoneId) :
    (s.refresh i).zones[z].inhibit = memberSet i (s.inhibits i z) s.zones[z].inhibit := by
  rw [refresh_zone, State.setInhibit_zones, if_pos rfl, Zone.drive_inhibit]

theorem refresh_tells (s : State) (i : InputId) :
    Tells s (s.refresh i) (fun _ => false) (s.inhibitReports (s.refresh i)) := by
  have h := fold_tells (fun u z => u.setInhibit z (memberSet i (s.inhibits i z) u.zones[z].inhibit)) (fun _ _ => false)
    (fun u n z =>
      if u.holds n z = true ∧ ¬ (u.zones[z].inhibit = 0 ↔ memberSet i (s.inhibits i z) u.zones[z].inhibit = 0) then
        [.inhibitChange] else [])
    (fun u t z => t.zones[z] = u.zones[z])
    (fun u z => (setInhibit_tells u z _).congr (fun _ => by simp) fun _ => rfl)
    (fun u t z hz => ⟨rfl, fun n => by simp only [State.holds, hz]; congr⟩)
    (fun u t y z hn hz => by rw [State.setInhibit_zones, if_neg hz]; exact hn)
    s allZones s (by decide) fun _ _ => rfl
  have he : s.refresh i =
      allZones.foldl (fun u z => u.setInhibit z (memberSet i (s.inhibits i z) u.zones[z].inhibit)) s :=
    refresh_fold s i allZones s rfl rfl
  rw [← he] at h
  refine h.congr (fun _ => by simp) fun n => ?_
  unfold State.inhibitReports
  simp only [refresh_inhibit]

/-- Everything that setting an input's memberships does (R148 to R150). -/
theorem refresh_spec (s : State) (i : InputId) :
    InhibitFollows s (s.refresh i) i ∧
      (∀ n : Master, (s.refresh i).attention[n] = s.told n (s.inhibitReports (s.refresh i) n)) ∧
      s.refresh i = { s with zones := (s.refresh i).zones, attention := (s.refresh i).attention } := by
  refine ⟨fun z => ?_, fun n => ?_, ?_⟩
  · have hz := refresh_zone s i z
    rw [State.setInhibit_zones, if_pos rfl] at hz
    have hi := refresh_inhibit s i z
    have hm : (s.refresh i).inhibits i z = s.inhibits i z := by
      have h1 : (s.refresh i).inputs = s.inputs := by simp
      have h2 : (s.refresh i).config = s.config := by simp
      simp only [State.inhibits, State.forcing, h1, h2]
    refine ⟨fun j => ?_, ?_, ?_, ?_, ?_, ?_, fun v hv => ?_⟩
    · rw [hi, memberSet_bit, hm]
    · rw [hz, Zone.drive_authority]
    · rw [hz, Zone.drive_epoch]
    · rw [hi, hz, Zone.drive_commanded]
    · rw [hz, Zone.drive_sensed]
    · rw [hz, Zone.drive_driven, Zone.drive_commanded, Zone.drive_inhibit]
    · unfold Redriven
      rw [hz] at hv ⊢
      rw [Zone.drive_driven] at hv
      exact Zone.drive_some _ _ _ _ v hv
  · rw [(refresh_tells s i).attention n]
    have : s.changeReport n (fun _ => false) = [] := by simp [State.changeReport]
    rw [this, List.nil_append]
  · ext1 <;> simp

/-! ### The append of a capture -/

theorem overflowFor_at (k : Serial) (s : State) (m n : Master) :
    ((State.overflowFor k s m).sessions[n] =
        if m = n ∧ s.sessions[n].standing = .attached k then { s.sessions[n] with standing := .attached (k + 1) }
        else s.sessions[n]) ∧
      (State.overflowFor k s m).attention[n] =
        if m = n ∧ s.sessions[n].standing = .attached k then s.attention[n].after .captureGap else s.attention[n] := by
  by_cases hk : s.sessions[m].standing = .attached k
  · have ho : State.overflowFor k s m =
        (s.withSession m { s.sessions[m] with standing := .attached (k + 1) }).signal m .captureGap := if_pos hk
    rw [ho, State.signal_attention]
    simp only [State.signal_sessions, State.withSession_sessions, State.withSession_attention, at_set]
    by_cases hn : m = n
    · subst hn; simp [-Fin.getElem_fin, hk]
    · simp [-Fin.getElem_fin, hn]
  · have ho : State.overflowFor k s m = s := if_neg hk
    rw [ho]
    by_cases hn : m = n
    · subst hn; simp [-Fin.getElem_fin, hk]
    · simp [-Fin.getElem_fin, hn]

theorem overflow_fold (k : Serial) (n : Master) :
    ∀ (l : List Master) (s : State), l.Nodup →
      ((l.foldl (State.overflowFor k) s).sessions[n] =
        if n ∈ l ∧ s.sessions[n].standing = .attached k then { s.sessions[n] with standing := .attached (k + 1) }
        else s.sessions[n]) ∧
      (l.foldl (State.overflowFor k) s).attention[n] =
        if n ∈ l ∧ s.sessions[n].standing = .attached k then s.attention[n].after .captureGap else s.attention[n] := by
  intro l
  induction l with
  | nil => intro s _; simp
  | cons m l ih =>
    intro s hl
    have hmem := List.nodup_cons.mp hl
    have ho := overflowFor_at k s m n
    rw [List.foldl_cons, (ih _ hmem.2).1, (ih _ hmem.2).2]
    by_cases hn : m = n
    · subst hn
      simp only [hmem.1, false_and, if_false, List.mem_cons_self, true_and] at ho ⊢
      exact ho
    · have hm : n ∈ m :: l ↔ n ∈ l :=
        ⟨fun h => (List.mem_cons.mp h).resolve_left fun e => hn e.symm, List.mem_cons_of_mem m⟩
      simp only [hn, false_and, if_false] at ho
      simp only [ho.1, ho.2, hm, and_self]

theorem available_fold (i : InputId) (n : Master) :
    ∀ (l : List Master) (s : State), l.Nodup →
      (l.foldl (State.availableFor i) s).attention[n] =
        if n ∈ l ∧ (s.isAttached n && s.attention[n].notifyMask.getLsbD i.val) = true then
          s.attention[n].after .captureAvailable
        else s.attention[n] := by
  intro l
  induction l with
  | nil => intro s _; simp
  | cons m l ih =>
    intro s hl
    have hmem := List.nodup_cons.mp hl
    rw [List.foldl_cons, ih _ hmem.2]
    have ht : (State.availableFor i s m).isAttached n = s.isAttached n := by simp [State.isAttached]
    by_cases hn : m = n
    · subst hn
      simp only [hmem.1, false_and, if_false, List.mem_cons_self, true_and]
      unfold State.availableFor
      by_cases hc : (s.isAttached m && s.attention[m].notifyMask.getLsbD i.val) = true
      · rw [if_pos hc, if_pos hc, State.signal_attention, if_pos ⟨rfl, fun hd => by
          simp [State.isAttached, Standing.isAttached, -Fin.getElem_fin, hd] at hc⟩]
      · rw [if_neg hc, if_neg hc]
    · have ha : (State.availableFor i s m).attention[n] = s.attention[n] := by
        unfold State.availableFor
        split
        · rw [State.signal_attention, if_neg fun x => hn x.1]
        · rfl
      have hm : n ∈ m :: l ↔ n ∈ l :=
        ⟨fun h => (List.mem_cons.mp h).resolve_left fun e => hn e.symm, List.mem_cons_of_mem m⟩
      simp only [ht, ha, hm]

/-- Making room: the oldest record of a full ring goes, and cursors at it move on with CAPTURE_GAP (R143). -/
theorem makeRoom_spec (s : State) :
    s.makeRoom.ring = (if s.ring.length < 64 then s.ring else s.ring.drop 1) ∧
      s.makeRoom.nextSerial = s.nextSerial ∧
      ∀ n : Master,
        s.makeRoom.sessions[n] = s.sessionAfterAppend n ∧
          s.makeRoom.attention[n] =
            if s.overrun n = true then s.attention[n].after .captureGap else s.attention[n] := by
  unfold State.makeRoom State.sessionAfterAppend State.overrun
  cases hr : s.ring with
  | nil => simp [hr]
  | cons r rest =>
    dsimp only
    by_cases hc : ringCapacity ≤ (r :: rest).length
    · have hc' : 64 ≤ (r :: rest).length := hc
      rw [if_pos hc, if_neg (by omega)]
      refine ⟨?_, ?_, fun n => ?_⟩
      · rw [foldl_keeps State.ring _ (fun _ _ => by simp)]; rfl
      · rw [foldl_keeps State.nextSerial _ (fun _ _ => by simp)]; rfl
      · have h := overflow_fold r.serial n allMasters (s.withCaptures rest s.nextSerial) (by decide)
        rw [h.1, h.2]
        simp only [mem_allMasters, true_and, hc', decide_eq_true_eq]
        exact ⟨rfl, rfl⟩
    · have hc' : ¬ 64 ≤ (r :: rest).length := hc
      rw [if_neg hc, if_pos (by omega)]
      exact ⟨hr, rfl, fun n => by simp only [hc', false_and, decide_false, Bool.false_eq_true, if_false, and_self]⟩

/-- Everything that the append of a capture does (R140, R143, R144). -/
theorem appendCapture_spec (s : State) (i : InputId) (level : Level) :
    (s.appendCapture i level).nextSerial = s.nextSerial + 1 ∧
      (s.appendCapture i level).ring =
        (if s.ring.length < 64 then s.ring else s.ring.drop 1) ++ [⟨s.nextSerial, i, level, s.timeCount⟩] ∧
      ∀ n : Master,
        (s.appendCapture i level).sessions[n] = s.sessionAfterAppend n ∧
          (s.appendCapture i level).attention[n] = s.told n (s.captureReports i n) := by
  obtain ⟨hr, hs, hm⟩ := makeRoom_spec s
  have ht : s.makeRoom.timeCount = s.timeCount := by simp
  unfold State.appendCapture
  dsimp only
  refine ⟨?_, ?_, fun n => ⟨?_, ?_⟩⟩
  · rw [foldl_keeps State.nextSerial _ (fun _ _ => by simp), ← hs]; rfl
  · rw [foldl_keeps State.ring _ (fun _ _ => by simp), ← hr, ← hs, ← ht]; rfl
  · rw [← (hm n).1]
    have := foldl_keeps State.sessions (State.availableFor i) (fun _ _ => by simp) allMasters
      (s.makeRoom.withCaptures (s.makeRoom.ring ++ [⟨s.makeRoom.nextSerial, i, level, s.makeRoom.timeCount⟩])
        (s.makeRoom.nextSerial + 1))
    simp only [this]; rfl
  · rw [available_fold i n allMasters _ (by decide)]
    simp only [mem_allMasters, true_and]
    have hu : ∀ (l : List CaptureRecord) (k : Serial), (s.makeRoom.withCaptures l k).isAttached n = s.isAttached n := by
      intro l k
      unfold State.isAttached
      rw [State.withCaptures_sessions, (hm n).1]
      unfold State.sessionAfterAppend State.overrun
      cases s.ring with
      | nil => rfl
      | cons r rest =>
        dsimp only
        split
        · rename_i h
          have := (of_decide_eq_true h).2
          simp [Standing.isAttached, -Fin.getElem_fin, this]
        · rfl
    have ha : ∀ (l : List CaptureRecord) (k : Serial), (s.makeRoom.withCaptures l k).attention[n] =
        if s.overrun n = true then s.attention[n].after .captureGap else s.attention[n] := fun l k => (hm n).2
    have hk : (if s.overrun n = true then s.attention[n].after .captureGap else s.attention[n]).notifyMask =
        s.attention[n].notifyMask := by split <;> rfl
    rw [hu, ha, hk]
    unfold State.told State.captureReports
    by_cases hd : s.sessions[n].standing = .detached
    · have h1 : s.isAttached n = false := by simp [State.isAttached, Standing.isAttached, -Fin.getElem_fin, hd]
      have h2 : s.overrun n = false := by
        unfold State.overrun; cases s.ring <;> simp [-Fin.getElem_fin, hd]
      simp [-Fin.getElem_fin, hd, h1, h2]
    · rw [if_neg hd]
      cases s.overrun n <;> cases (s.isAttached n && s.attention[n].notifyMask.getLsbD i.val) <;> rfl

end Sys2Proof.Machine
end

