-- ==== Sys2Proof/WellFormed.lean ====
section
/-! DEFINITION. Which terms spell a command the part can meet: a frame carries at most 24 operand bytes (R162), and
fewer than eight bits are clocked after the last whole byte (R163). -/

namespace Sys2Proof

/-- The operand bytes of a request fit a frame (R162). -/
def operandsFit (operands : List Byte) : Bool :=
  decide (operands.length ≤ 24)

/-- The checks on a command as syntax. -/
def Instr.wellFormed : Instr → Bool
  | .transactionBegin _ => true
  | .transactionEnd _ _ strayBits => decide (strayBits < 8)
  | .nop _ o => operandsFit o
  | .status _ o => operandsFit o
  | .attach _ o => operandsFit o
  | .detach _ o => operandsFit o
  | .park _ o => operandsFit o
  | .unpark _ o => operandsFit o
  | .renew _ o => operandsFit o
  | .supervise _ o => operandsFit o
  | .claim _ o => operandsFit o
  | .release _ o => operandsFit o
  | .setOutput _ o => operandsFit o
  | .readZone _ o => operandsFit o
  | .readZoneChanges _ o => operandsFit o
  | .clearFault _ o => operandsFit o
  | .requestHandover _ o => operandsFit o
  | .withdraw _ o => operandsFit o
  | .yield _ o => operandsFit o
  | .refuse _ o => operandsFit o
  | .readTime _ o => operandsFit o
  | .postAction _ o => operandsFit o
  | .postSequence _ o => operandsFit o
  | .cancelTag _ o => operandsFit o
  | .cancelZone _ o => operandsFit o
  | .readQueue _ o => operandsFit o
  | .writeSteps _ o => operandsFit o
  | .readSteps _ o => operandsFit o
  | .readInputs _ o => operandsFit o
  | .readCaptures _ o => operandsFit o
  | .readFlags _ o => operandsFit o
  | .acknowledge _ o => operandsFit o
  | .setEnables _ o => operandsFit o
  | .readConfig _ o => operandsFit o
  | .writeZoneConfig _ o => operandsFit o
  | .writeInputConfig _ o => operandsFit o
  | .writeMasterPolicy _ o => operandsFit o
  | .commit _ o => operandsFit o
  | .storeWriteEnd _ _ => true
  | .powerOn _ => true
  | .resetPin _ => true
  | .startUpDecision => true
  | .supervisionExpiry _ => true
  | .windowOpen _ => true
  | .handoverTimeout _ => true
  | .settleExpiry _ => true
  | .sensedValueChange _ _ => true
  | .readbackCheckExpiry _ => true
  | .dueEvent => true
  | .firstRecognition _ => true
  | .recognisedChange _ => true
  | .rawLevelChange _ _ => true
  | .timeCountAdvance => true

end Sys2Proof
end

