-- ==== Sys2Proof/Laws/PerInstr.lean ====
section
/-! SUPPORT. What well-formedness says of each command: a request's operand bytes fit a frame (R162), the bits clocked
after the last whole byte of a transaction are fewer than eight (R163), and every other command is well formed. -/

namespace Sys2Proof.Laws.OperandBytes

open Sys2Proof.Machine

/-- The statement of the family, about the command as syntax. -/
def Statement (i : Instr) : Prop :=
  (∀ c m operands, i = Command.row m operands c → (i.wellFormed = true ↔ operands.length ≤ 24)) ∧
    (∀ p received strayBits, i = .transactionEnd p received strayBits → (i.wellFormed = true ↔ strayBits < 8)) ∧
    ((∀ c m operands, i ≠ Command.row m operands c) → (∀ p received strayBits, i ≠ .transactionEnd p received strayBits) →
      i.wellFormed = true)

theorem row_wellFormed (c : Command) (m : Master) (operands : List Byte) :
    (c.row m operands).wellFormed = true ↔ operands.length ≤ 24 := by
  cases c <;> simp [Command.row, Instr.wellFormed, operandsFit]

theorem row_ne_transactionEnd (c : Command) (m : Master) (operands : List Byte) (p : Master) (received : List Byte)
    (strayBits : Nat) : c.row m operands ≠ .transactionEnd p received strayBits := by
  cases c <;> simp [Command.row]

/-- The statement of a request row. -/
theorem of_row (c : Command) (m : Master) (operands : List Byte) : Statement (c.row m operands) :=
  ⟨fun c' m' operands' h => by rw [h]; exact row_wellFormed c' m' operands',
    fun p received strayBits h => absurd h (row_ne_transactionEnd c m operands p received strayBits),
    fun h _ => absurd rfl (h c m operands)⟩

/-- The statement of a row that is neither a request nor the end of a transaction. -/
theorem of_event (i : Instr) (hrow : ∀ c m operands, i ≠ Command.row m operands c)
    (hend : ∀ p received strayBits, i ≠ .transactionEnd p received strayBits) (hwf : i.wellFormed = true) : Statement i :=
  ⟨fun c m operands h => absurd h (hrow c m operands),
    fun p received strayBits h => absurd h (hend p received strayBits), fun _ _ => hwf⟩

theorem transactionBegin (port : Master) : Statement (.transactionBegin port) :=
  of_event _ (fun c _ _ => by cases c <;> simp [Command.row]) (fun _ _ _ => by simp) rfl

theorem transactionEnd (port : Master) (received : List Byte) (strayBits : Nat) :
    Statement (.transactionEnd port received strayBits) :=
  ⟨fun c m operands h => absurd h.symm (row_ne_transactionEnd c m operands port received strayBits),
    fun _ _ _ h => by rw [h]; simp [Instr.wellFormed], fun _ h => absurd rfl (h port received strayBits)⟩

theorem nop (port : Master) (operands : List Byte) : Statement (.nop port operands) :=
  of_row .nop port operands

theorem status (port : Master) (operands : List Byte) : Statement (.status port operands) :=
  of_row .status port operands

theorem attach (port : Master) (operands : List Byte) : Statement (.attach port operands) :=
  of_row .attach port operands

theorem detach (port : Master) (operands : List Byte) : Statement (.detach port operands) :=
  of_row .detach port operands

theorem park (port : Master) (operands : List Byte) : Statement (.park port operands) :=
  of_row .park port operands

theorem unpark (port : Master) (operands : List Byte) : Statement (.unpark port operands) :=
  of_row .unpark port operands

theorem renew (port : Master) (operands : List Byte) : Statement (.renew port operands) :=
  of_row .renew port operands

theorem supervise (port : Master) (operands : List Byte) : Statement (.supervise port operands) :=
  of_row .supervise port operands

theorem claim (port : Master) (operands : List Byte) : Statement (.claim port operands) :=
  of_row .claim port operands

theorem release (port : Master) (operands : List Byte) : Statement (.release port operands) :=
  of_row .release port operands

theorem setOutput (port : Master) (operands : List Byte) : Statement (.setOutput port operands) :=
  of_row .setOutput port operands

theorem readZone (port : Master) (operands : List Byte) : Statement (.readZone port operands) :=
  of_row .readZone port operands

theorem readZoneChanges (port : Master) (operands : List Byte) : Statement (.readZoneChanges port operands) :=
  of_row .readZoneChanges port operands

theorem clearFault (port : Master) (operands : List Byte) : Statement (.clearFault port operands) :=
  of_row .clearFault port operands

theorem requestHandover (port : Master) (operands : List Byte) : Statement (.requestHandover port operands) :=
  of_row .requestHandover port operands

theorem withdraw (port : Master) (operands : List Byte) : Statement (.withdraw port operands) :=
  of_row .withdraw port operands

theorem yield (port : Master) (operands : List Byte) : Statement (.yield port operands) :=
  of_row .yield port operands

theorem refuse (port : Master) (operands : List Byte) : Statement (.refuse port operands) :=
  of_row .refuse port operands

theorem readTime (port : Master) (operands : List Byte) : Statement (.readTime port operands) :=
  of_row .readTime port operands

theorem postAction (port : Master) (operands : List Byte) : Statement (.postAction port operands) :=
  of_row .postAction port operands

theorem postSequence (port : Master) (operands : List Byte) : Statement (.postSequence port operands) :=
  of_row .postSequence port operands

theorem cancelTag (port : Master) (operands : List Byte) : Statement (.cancelTag port operands) :=
  of_row .cancelTag port operands

theorem cancelZone (port : Master) (operands : List Byte) : Statement (.cancelZone port operands) :=
  of_row .cancelZone port operands

theorem readQueue (port : Master) (operands : List Byte) : Statement (.readQueue port operands) :=
  of_row .readQueue port operands

theorem writeSteps (port : Master) (operands : List Byte) : Statement (.writeSteps port operands) :=
  of_row .writeSteps port operands

theorem readSteps (port : Master) (operands : List Byte) : Statement (.readSteps port operands) :=
  of_row .readSteps port operands

theorem readInputs (port : Master) (operands : List Byte) : Statement (.readInputs port operands) :=
  of_row .readInputs port operands

theorem readCaptures (port : Master) (operands : List Byte) : Statement (.readCaptures port operands) :=
  of_row .readCaptures port operands

theorem readFlags (port : Master) (operands : List Byte) : Statement (.readFlags port operands) :=
  of_row .readFlags port operands

theorem acknowledge (port : Master) (operands : List Byte) : Statement (.acknowledge port operands) :=
  of_row .acknowledge port operands

theorem setEnables (port : Master) (operands : List Byte) : Statement (.setEnables port operands) :=
  of_row .setEnables port operands

theorem readConfig (port : Master) (operands : List Byte) : Statement (.readConfig port operands) :=
  of_row .readConfig port operands

theorem writeZoneConfig (port : Master) (operands : List Byte) : Statement (.writeZoneConfig port operands) :=
  of_row .writeZoneConfig port operands

theorem writeInputConfig (port : Master) (operands : List Byte) : Statement (.writeInputConfig port operands) :=
  of_row .writeInputConfig port operands

theorem writeMasterPolicy (port : Master) (operands : List Byte) : Statement (.writeMasterPolicy port operands) :=
  of_row .writeMasterPolicy port operands

theorem commit (port : Master) (operands : List Byte) : Statement (.commit port operands) :=
  of_row .commit port operands

theorem storeWriteEnd (verified : Bool) (cfg : Level) : Statement (.storeWriteEnd verified cfg) :=
  of_event _ (fun c _ _ => by cases c <;> simp [Command.row]) (fun _ _ _ => by simp) rfl

theorem powerOn (cfg : Level) : Statement (.powerOn cfg) :=
  of_event _ (fun c _ _ => by cases c <;> simp [Command.row]) (fun _ _ _ => by simp) rfl

theorem resetPin (cfg : Level) : Statement (.resetPin cfg) :=
  of_event _ (fun c _ _ => by cases c <;> simp [Command.row]) (fun _ _ _ => by simp) rfl

theorem startUpDecision : Statement (.startUpDecision) :=
  of_event _ (fun c _ _ => by cases c <;> simp [Command.row]) (fun _ _ _ => by simp) rfl

theorem supervisionExpiry (master : Master) : Statement (.supervisionExpiry master) :=
  of_event _ (fun c _ _ => by cases c <;> simp [Command.row]) (fun _ _ _ => by simp) rfl

theorem windowOpen (master : Master) : Statement (.windowOpen master) :=
  of_event _ (fun c _ _ => by cases c <;> simp [Command.row]) (fun _ _ _ => by simp) rfl

theorem handoverTimeout (zone : ZoneId) : Statement (.handoverTimeout zone) :=
  of_event _ (fun c _ _ => by cases c <;> simp [Command.row]) (fun _ _ _ => by simp) rfl

theorem settleExpiry (zone : ZoneId) : Statement (.settleExpiry zone) :=
  of_event _ (fun c _ _ => by cases c <;> simp [Command.row]) (fun _ _ _ => by simp) rfl

theorem sensedValueChange (zone : ZoneId) (sensed : Value) : Statement (.sensedValueChange zone sensed) :=
  of_event _ (fun c _ _ => by cases c <;> simp [Command.row]) (fun _ _ _ => by simp) rfl

theorem readbackCheckExpiry (zone : ZoneId) : Statement (.readbackCheckExpiry zone) :=
  of_event _ (fun c _ _ => by cases c <;> simp [Command.row]) (fun _ _ _ => by simp) rfl

theorem dueEvent : Statement (.dueEvent) :=
  of_event _ (fun c _ _ => by cases c <;> simp [Command.row]) (fun _ _ _ => by simp) rfl

theorem firstRecognition (input : InputId) : Statement (.firstRecognition input) :=
  of_event _ (fun c _ _ => by cases c <;> simp [Command.row]) (fun _ _ _ => by simp) rfl

theorem recognisedChange (input : InputId) : Statement (.recognisedChange input) :=
  of_event _ (fun c _ _ => by cases c <;> simp [Command.row]) (fun _ _ _ => by simp) rfl

theorem rawLevelChange (input : InputId) (level : Level) : Statement (.rawLevelChange input level) :=
  of_event _ (fun c _ _ => by cases c <;> simp [Command.row]) (fun _ _ _ => by simp) rfl

theorem timeCountAdvance : Statement (.timeCountAdvance) :=
  of_event _ (fun c _ _ => by cases c <;> simp [Command.row]) (fun _ _ _ => by simp) rfl

end Sys2Proof.Laws.OperandBytes
end

