-- ==== Sys2Proof/Tests/Slice0.lean ====
section
/-! SUPPORT. The model's own tests: the checks on syntax, frames written out from the manual, one step each on small
states, and for every obligation with hypotheses a state and operands that meet them. -/

namespace Sys2Proof.Tests

open Sys2Proof.Machine

set_option Elab.async false
set_option linter.constructorNameAsVariable false

/-! ### Well-formedness: what the check refuses -/

theorem test_operands_too_long : (Instr.claim 0 (List.replicate 25 0)).wellFormed = false := by decide

theorem test_operands_longest : (Instr.writeSteps 0 (List.replicate 24 0)).wellFormed = true := by decide

theorem test_too_many_stray_bits : (Instr.transactionEnd 0 [] 8).wellFormed = false := by decide

theorem test_stray_bits_most : (Instr.transactionEnd 0 [] 7).wellFormed = true := by decide

/-! ### Table words: no row gives bits -/

theorem test_no_table_word : decodeTableWord 8 0 = none ∧ decodeTableWord 16 0xFFFF = none := by decide

theorem test_fetch_word_changes_nothing : State.reset.withFetchWord 8 0 = State.reset := rfl

/-! ### Small states -/

/-- After the start-up decision of a factory part: COMMISSIONING, defaults, every zone VACANT. -/
def live : State := State.reset.startUp

/-- A master ATTACHED in TIMEOUT with a period of 500 ms, its cursor at the next serial. -/
def State.join (s : State) (m : Master) : State := s.attach m .timeout .ms500

/-- M0 and M1 ATTACHED. -/
def joined : State := State.join (State.join live 0) 1

/-- Z0 HELD by M0. -/
def held : State := joined.claim 0 0

/-- Z0 in TRANSFER from M0 to M1. -/
def transferring : State := held.requestHandover 0 0 1

/-- Z0 SETTLING with candidate M1 since count value 0. -/
def settling : State := joined.setAuthority 0 (.settling ⟨1, .list 0, 0, 10⟩) 0

/-- Z0 FAULTED. -/
def faulted : State := joined.setAuthority 0 .faulted 0

/-- The request waits at the port, and it is its turn. -/
def State.asking (s : State) (m : Master) (c : Command) (operands : List Byte) : State :=
  { s with ports := s.ports.set m { s.ports[m] with phase := .waiting ⟨c, operands, s.timeCount⟩ }, chosen := some m }

/-- Waiting, turn and gating, as one test. -/
theorem serves_of {s : State} {m : Master} {c : Command} {o : List Byte}
    (h : (s.ready m c o && decide (s.gate m c o = none)) = true) : s.serves m c o := by
  simpa [State.serves] using h

/-- The outcome of a command, read by a test on the next state. -/
def after (i : Instr) (s : State) (p : State → Bool) : Bool :=
  match exec i s with
  | .next t => p t
  | .fault _ => false
  | .refused _ => false

/-! ### Frames (R161 to R164) -/

theorem test_nop_frame : checkFrame [0x00, 0x00, 0xD7] 0 = .request .nop [] := by decide +kernel

theorem test_claim_frame : checkFrame (encodeRequest .claim [0x07]) 0 = .request .claim [0x07] := by decide +kernel

theorem test_check_byte_wrong : checkFrame [0x00, 0x00, 0xD6] 0 = .frameError := by decide +kernel

theorem test_stray_bit_is_an_error : checkFrame [0x00, 0x00, 0xD7] 1 = .frameError := by decide +kernel

theorem test_unknown_command :
    checkFrame [0x00, 0x02, crc8 [0x00, 0x02]] 0 = .unknownCommand 0x02 := by decide +kernel

theorem test_response_after_reset : encodeResponse .afterReset = [0x00, 0x00, 0x00, 0x2B] := by decide +kernel

/-! ### One step each -/

theorem test_start_up_blank :
    after .startUpDecision State.reset (fun t => decide (t.device = .commissioning ∧ t.startupStore = some .blank)) =
      true := by decide +kernel

theorem test_start_up_invalidated_halts :
    after .startUpDecision { State.reset with store := .invalidated }
      (fun t => decide (t.device = .halted ∧ t.zones[(0 : ZoneId)].authority = .dark)) = true := by decide +kernel

theorem test_start_up_by_mark_and_strap :
    (StoreRead.valid .default true).device .low = .operational ∧
      (StoreRead.valid .default true).device .high = .commissioning ∧
      (StoreRead.valid .default false).device .low = .commissioning := by decide

/-- The body of the image of the default configuration, marked. -/
theorem default_body :
    (imageBody .default true).length = 125 ∧ (imageBody .default true).head? = some 0x0F ∧
      readBody (imageBody .default true) = some (.default, true) := by decide +kernel

/-- The image that a COMMIT of the default configuration writes is VALID. -/
theorem test_default_image_is_valid : readImage (imageOf .default true) = .valid .default true := by
  obtain ⟨hl, hh, hb⟩ := default_body
  unfold imageOf
  generalize imageBody .default true = body at hl hh hb
  have hc : (bytesOf 2 (crc16 body).toNat).length = 2 := rfl
  generalize hk : bytesOf 2 (crc16 body).toNat = check at hc ⊢
  have ht : (body ++ check).take 125 = body := by rw [← hl, List.take_left]
  have hd : (body ++ check).drop 125 = check := by rw [← hl, List.drop_left]
  unfold readImage
  rw [if_neg, if_pos ⟨by rw [List.length_append, hl, hc]; rfl, by rw [ht, hd, hk]⟩, ht, hb]
  intro h
  have : (body ++ check).head? = some 0xFF := by rw [h]; rfl
  rw [List.head?_append, hh] at this
  simp at this

/-- A factory part whose store holds the image of the default configuration, marked. -/
def committed : State := { State.reset with store := .image (imageOf .default true) }

theorem image_read (s : State) (b : List Byte) : ({ s with store := .image b } : State).store.read = readImage b := rfl

theorem startUp_taken {s : State} {r : StoreRead} (hd : s.device = .starting) (hr : s.store.read = r)
    (hh : (s.withDecision r).device ≠ .halted) : s.startUp = (s.withDecision r).enterService := by
  unfold State.startUp
  rw [hd]
  dsimp only
  rw [hr]
  split
  · rename_i h; exact absurd h hh
  · rfl

theorem test_start_up_committed_image :
    after .startUpDecision committed
      (fun t => decide (t.device = .operational ∧ t.startupStore = some .valid ∧ t.source = .store ∧
        t.zones[(0 : ZoneId)].authority = .vacant)) = true := by
  have h : ∀ p : State → Bool, after .startUpDecision committed p = p committed.startUp := fun _ => rfl
  have hr : committed.store.read = .valid .default true := by
    rw [committed, ← test_default_image_is_valid]
    exact image_read _ _
  rw [h, startUp_taken rfl hr (by decide +kernel)]
  decide +kernel

/-- The check of R173 over the bytes 31 to 39 hex is 29B1 hex, the usual check value of this CRC. -/
theorem test_crc16 : crc16 [0x31, 0x32, 0x33, 0x34, 0x35, 0x36, 0x37, 0x38, 0x39] = 0x29B1 := by decide +kernel

theorem test_claim_takes :
    after (.claim 0 [0]) (State.asking joined 0 .claim [0])
      (fun t => decide (t.zones[(0 : ZoneId)].authority = .held 0 ∧ t.zones[(0 : ZoneId)].epoch = 1 ∧
        t.changeSets[(1 : Master)] = 1 ∧ t.ports[(0 : Master)].buffer = ⟨.ok, 0x20, [0, 1]⟩)) = true := by decide +kernel

theorem test_set_output_drives :
    after (.setOutput 0 [0, 9]) (State.asking held 0 .setOutput [0, 9])
      (fun t => decide (t.zones[(0 : ZoneId)].driven = some 9)) = true := by decide +kernel

theorem test_yield_is_bumpless :
    after (.yield 0 [0, 1]) (State.asking (transferring.setCommanded 0 5) 0 .yield [0, 1])
      (fun t => decide (t.zones[(0 : ZoneId)].authority = .held 1 ∧ t.zones[(0 : ZoneId)].driven = some 5 ∧
        t.attention[(1 : Master)].grant = some ⟨0, .handover⟩)) = true := by decide +kernel

theorem test_expiry_strikes :
    after (.supervisionExpiry 0) (held.withTimeCount 500000)
      (fun t => decide (t.sessions[(0 : Master)].strike = true ∧ t.zones[(0 : ZoneId)].authority = .held 0)) = true := by
  decide +kernel

theorem test_second_expiry_revokes :
    after (.supervisionExpiry 0)
      ((held.withTimeCount 500000).withSession 0 { held.sessions[(0 : Master)] with strike := true })
      (fun t => decide (t.sessions[(0 : Master)].standing = .revoked ∧ t.zones[(0 : ZoneId)].authority = .vacant)) =
      true := by decide +kernel

theorem test_expiry_before_the_period_is_none :
    after (.supervisionExpiry 0) (held.withTimeCount 499999)
      (fun t => decide (t.sessions[(0 : Master)].strike = false)) = true := by decide +kernel

theorem test_single_is_applied :
    after .dueEvent ((held.withQueue [⟨0, 0, 7, .single 3 true, 0x1234⟩]).withTimeCount 7)
      (fun t => decide (t.zones[(0 : ZoneId)].driven = some 3 ∧ t.queue = [] ∧
        t.attention[(0 : Master)].done = some ⟨0x1234, 0, .applied⟩)) = true := by decide +kernel

theorem test_advance_takes_what_is_due :
    after .timeCountAdvance ((held.withQueue [⟨0, 0, 7, .single 3 false, 1⟩]).withTimeCount 7)
      (fun t => decide (t.zones[(0 : ZoneId)].driven = some 3 ∧ t.queue = [] ∧ t.timeCount = 8)) = true := by
  decide +kernel

theorem test_count_wraps :
    after .timeCountAdvance (State.reset.withTimeCount 0xFFFFFFFFFFFF) (fun t => decide (t.timeCount = 0)) = true := by
  decide +kernel

theorem test_advance_leaves_no_timer_due :
    after .timeCountAdvance (held.withTimeCount 500000)
      (fun t => decide (t.sessions[(0 : Master)].timer = .running 500000 ∧
        t.sessions[(0 : Master)].strike = true)) = true := by decide +kernel

theorem test_idle_step : step State.reset = .next State.reset := rfl

/-! ### A state that meets the invariants, with a zone held, an entry queued and a record in the ring -/

/-- M0 holds Z0 with one entry queued; one capture record is unread by M0 and M1. -/
def running : State :=
  { (held.withQueue [⟨0, 0, 7, .single 3 true, 1⟩]).withCaptures [⟨0, 2, .high, 0⟩] 1 with pending := [.dueEvent] }

theorem test_running_steps : ∃ t, step running = .next t := ⟨_, rfl⟩

theorem test_witness_law_of_driving : LawOfDriving running := by
  have h : ∀ z : ZoneId,
      running.zones[z].driven =
          drivenBy running.zones[z].authority running.zones[z].commanded (running.fallback z) running.zones[z].inhibit ∧
        running.zones[z].monitor = .off ∧ running.zones[z].driven.isSome = true ∧
        running.config.zones[z].checkTime = 0 ∧ running.zones[z].authority ≠ .dark := by decide +kernel
  have hd : running.device = .commissioning := by decide +kernel
  intro z
  obtain ⟨h1, h2, h3, h4, h5⟩ := h z
  refine ⟨⟨h1, ?_⟩, ?_⟩
  · rw [h2]; exact ⟨h3, h4⟩
  · rw [hd]; exact ⟨fun h => absurd h h5, fun h => h.elim⟩

theorem test_witness_law_of_the_holder : LawOfHolder running := by
  have h : ∀ z : ZoneId, running.zones[z].authority = if z = 0 then .held 0 else .vacant := by decide +kernel
  refine ⟨fun z => ?_, by decide +kernel⟩
  unfold ZoneStanding
  rw [h z]
  by_cases hz : z = 0
  · subst hz; exact (by decide +kernel : running.isAttached 0 = true ∧ running.permits 0 0 = true)
  · simp [hz]

theorem test_witness_law_of_the_queue : LawOfQueue running := by
  refine ⟨by decide +kernel, by decide +kernel, by decide +kernel, by decide +kernel, ?_⟩
  have h : ∀ (m : Master) (k : StepIndex), running.banks[m][k].link = none := by decide +kernel
  intro m k hk
  rw [h m k] at hk
  cases hk

theorem test_witness_law_of_the_ring : LawOfRing running := by
  have h : ∀ m : Master, running.sessions[m].standing = if m.val < 2 then .attached 0 else .detached := by
    decide +kernel
  refine ⟨by decide +kernel, ⟨by decide +kernel, trivial⟩, fun m c hm => ?_, fun r hr => ⟨0, ?_⟩⟩
  · rw [h m] at hm
    by_cases hk : m.val < 2
    · simp only [hk, if_true, Standing.attached.injEq] at hm; subst hm; decide +kernel
    · simp [hk] at hm
  · have hr' : r = ⟨0, 2, .high, 0⟩ := by
      have : running.ring.head? = some ⟨0, 2, .high, 0⟩ := by decide +kernel
      rw [this] at hr; simpa using hr.symm
    subst hr'; decide +kernel

theorem test_witness_law_of_supervision : LawOfSupervision running := by
  have h : ∀ m : Master,
      (running.sessions[m].standing = .detached → running.sessions[m] = .afterReset ∧
          running.attention[m] = .afterReset ∧ running.changeSets[m] = 0) ∧
        running.sessions[m].strike = false ∧
        running.sessions[m].mode = (if m.val < 2 then .timeout else .off) ∧
        running.sessions[m].timer = (if m.val < 2 then .running 0 else .stopped) ∧
        running.sessions[m].standing.isAttached = decide (m.val < 2) := by decide +kernel
  have hd : running.device = .commissioning := by decide +kernel
  intro m
  obtain ⟨h1, h2, h3, h4, h5⟩ := h m
  refine ⟨h1, fun hs => ?_, ?_, fun hs => ?_, fun hs => ?_⟩
  · rw [h2] at hs; cases hs
  rotate_left
  · rw [hd] at hs; exact hs.elim
  · rw [hd] at hs; cases hs
  generalize running.heldCount m = k
  unfold TimerFits
  rw [h5, h3, h4]
  by_cases hk : m.val < 2
  · simp only [hk, decide_true, if_true]
  · simp only [hk, decide_false, Bool.false_eq_true, if_false]

theorem test_witness_law_of_inhibits : LawOfInhibit running := by
  have hd : running.device = .commissioning := by decide +kernel
  have h : ∀ (z : ZoneId) (i : InputId),
      running.zones[z].inhibit.getLsbD i.val = running.inhibits i z := by decide +kernel
  have hc : ∀ z : ZoneId, running.zones[z].commanded = running.fallback z := by decide +kernel
  unfold LawOfInhibit
  rw [hd]
  exact ⟨fun hs => hs.elim, h, fun z _ _ => hc z⟩

theorem test_witness_law_of_the_turn : LawOfTurn running ∧ LawOfTurn (State.asking running 0 .claim [0]) := by
  have h : running.chosen = none ∧ (∀ q, running.waitsAtTable q = false) := by decide +kernel
  have k : (State.asking running 0 .claim [0]).chosen = some 0 ∧
      (State.asking running 0 .claim [0]).waitsAtTable 0 = true := by decide +kernel
  refine ⟨⟨by simp only [h.1, true_iff]; exact h.2, fun q hq => by rw [h.1] at hq; cases hq⟩, ?_, fun q hq => ?_⟩
  · rw [k.1]
    exact ⟨fun x => (by cases x), fun x => absurd (x 0) (by rw [k.2]; simp)⟩
  · rw [k.1] at hq; cases hq; exact k.2

theorem test_witness_config_in_range : running.config.InRange := by decide +kernel

/-! ### States that meet the hypotheses of the obligations -/

theorem test_witness_ResetsGiveTheResetValues : State.reset.device = .starting ∧ live.device ≠ .starting := by
  decide +kernel

theorem claim_answers (s : State) (h : s.serves 0 .claim [0]) : ∃ t, exec (.claim 0 [0]) s = .next t :=
  ⟨_, serve_taken _ h⟩

theorem test_witness_EpochStepsWithTheHolder :
    (∃ t, exec (.claim 0 [0]) (State.asking joined 0 .claim [0]) = .next t) ∧
      (∀ cfg, Instr.claim 0 [0] ≠ .powerOn cfg) ∧ (∀ cfg, Instr.claim 0 [0] ≠ .resetPin cfg) ∧
      (∀ v cfg, Instr.claim 0 [0] ≠ .storeWriteEnd v cfg) ∧ Instr.claim 0 [0] ≠ .timeCountAdvance :=
  ⟨claim_answers _ (serves_of (by decide +kernel)), by simp, by simp, by simp, by simp⟩

theorem test_witness_TheTimeCountAdvances :
    (∃ t, exec .timeCountAdvance running = .next t) ∧ (∃ t, exec (.powerOn .low) running = .next t) ∧
      (∃ t, exec .dueEvent running = .next t) := ⟨⟨_, rfl⟩, ⟨_, rfl⟩, ⟨_, rfl⟩⟩

theorem test_witness_EveryRequestFrameIsRead :
    ([] : List Byte).length ≤ 24 ∧ (List.replicate 24 (0xFF : Byte)).length ≤ 24 := by decide

theorem test_witness_TransactionBegins :
    live.ports[(0 : Master)].cs = false ∧ live.ports[(0 : Master)].phase = .idle ∧
      (State.asking live 0 .nop []).ports[(0 : Master)].cs = false ∧
      (State.asking live 0 .nop []).ports[(0 : Master)].phase = .waiting ⟨.nop, [], 0⟩ ∧
      (live.withPort 0 { live.ports[(0 : Master)] with phase := .shifting }).ports[(0 : Master)].cs = false ∧
      (live.withPort 0 { live.ports[(0 : Master)] with phase := .shifting }).ports[(0 : Master)].phase = .shifting ∧
      (live.transactionBegin 0).ports[(0 : Master)].cs = true := by decide +kernel

theorem test_repeated_edges_are_no_events :
    after (.transactionBegin 0) (live.transactionBegin 0) (fun t => decide (t = live.transactionBegin 0)) = true ∧
      live.ports[(0 : Master)].cs = false ∧
      after (.transactionEnd 0 [0, 0, 0xD7] 0) live (fun t => decide (t = live)) = true := by decide +kernel

theorem test_witness_TransactionEnd :
    (live.transactionBegin 0).ports[(0 : Master)].cs = true ∧
      (live.transactionBegin 0).ports[(0 : Master)].phase = .shifting ∧
      (∃ len : Byte, ([25, 0, 0] : List Byte)[0]? = some len ∧ 24 < len.toNat) ∧ ([] : List Byte).length < 3 ∧
      ([0x00, 0x02, crc8 [0x00, 0x02]] : List Byte)[2]? = some (crc8 [0x00, 0x02]) ∧ commandOfId 0x02 = none ∧
      commandOfId 0x00 = some .nop ∧
      ((State.asking live 0 .nop []).transactionBegin 0).ports[(0 : Master)].cs = true ∧
      ((State.asking live 0 .nop []).transactionBegin 0).ports[(0 : Master)].phase ≠ .shifting ∧
      ((State.asking live 0 .nop []).transactionBegin 0).ports[(0 : Master)].out = some [] ∧
      (live.transactionBegin 0).ports[(0 : Master)].out = some (encodeResponse .afterReset) ∧
      live.chosen = none ∧ (State.asking live 1 .claim [0]).chosen = some 1 ∧
      (State.asking live 1 .claim [0]).ports[(1 : Master)].phase = .waiting ⟨.claim, [0], 0⟩ := by
  refine ⟨?_, ?_, ⟨25, ?_⟩, ?_⟩ <;> decide +kernel

theorem test_witness_GatingInOrder :
    (State.asking live 0 .claim [0]).ready 0 .claim [0] = true ∧
      (State.asking live 0 .claim [0]).gate 0 .claim [0] = some .notAttached ∧
      (State.asking State.reset 0 .claim [0]).gate 0 .claim [0] = some .wrongState ∧
      (State.asking joined 0 .claim []).gate 0 .claim [] = some .range := by decide +kernel

theorem test_witness_RequestsThatDoNotWait : live.ready 0 .claim [0] = false := by decide +kernel

theorem test_witness_NopIsServedEverywhere :
    (State.asking State.reset 3 .nop []).ready 3 .nop [] = true ∧ State.reset.ports[(3 : Master)].cs = false ∧
      State.reset.ports[(3 : Master)].phase = .idle := by decide +kernel

theorem test_witness_StatusAndConfiguration :
    (State.asking State.reset 0 .status []).ready 0 .status [] = true ∧
      (∀ b ∈ ([0, 7, 8, 15, 16, 23, 24, 32, 33] : List Byte),
        (State.asking live 0 .readConfig [b]).serves 0 .readConfig [b]) := by
  refine ⟨by decide +kernel, fun b hb => serves_of ?_⟩
  revert b; decide +kernel

theorem test_witness_ReadZoneAndReadZoneChanges :
    zoneOf 7 = some 7 ∧ (State.asking joined 0 .readZone [7]).serves 0 .readZone [7] ∧
      (State.asking joined 0 .readZoneChanges []).serves 0 .readZoneChanges [] ∧ 8 ≤ (8 : Byte).toNat ∧
      (State.asking joined 0 .readZone [8]).serves 0 .readZone [8] :=
  ⟨by decide +kernel, serves_of (by decide +kernel), serves_of (by decide +kernel), by decide,
    serves_of (by decide +kernel)⟩

theorem test_witness_QueueAndInputReads :
    (State.asking joined 0 .readTime []).serves 0 .readTime [] ∧
      (State.asking joined 0 .readSteps [12, 4]).serves 0 .readSteps [12, 4] ∧
      (State.asking joined 0 .readSteps [13, 4]).serves 0 .readSteps [13, 4] ∧
      (State.asking joined 0 .readQueue [15]).serves 0 .readQueue [15] ∧
      (State.asking joined 0 .readQueue [16]).serves 0 .readQueue [16] ∧
      (State.asking joined 0 .readInputs []).serves 0 .readInputs [] :=
  ⟨serves_of (by decide +kernel), serves_of (by decide +kernel), serves_of (by decide +kernel),
    serves_of (by decide +kernel), serves_of (by decide +kernel), serves_of (by decide +kernel)⟩

theorem test_witness_ReadFlags : (State.asking joined 0 .readFlags []).serves 0 .readFlags [] :=
  serves_of (by decide +kernel)

theorem test_witness_Attach :
    (State.asking live 0 .attach [0xA5, 0x11]).serves 0 .attach [0xA5, 0x11] ∧
      (State.asking joined 0 .attach [0xA5, 0x11]).serves 0 .attach [0xA5, 0x11] ∧
      (State.asking live 0 .attach [0xA4, 0x11]).serves 0 .attach [0xA4, 0x11] ∧
      (State.asking live 0 .attach [0xA5, 0x10]).serves 0 .attach [0xA5, 0x10] ∧
      (State.asking (live.withDevice .operational) 0 .attach [0x3C, 0x11]).serves 0 .attach [0x3C, 0x11] :=
  ⟨serves_of (by decide +kernel), serves_of (by decide +kernel), serves_of (by decide +kernel),
    serves_of (by decide +kernel), serves_of (by decide +kernel)⟩

theorem test_witness_Detach :
    (State.asking held 0 .detach []).serves 0 .detach [] ∧ held.isAttached 0 = true ∧
      (State.asking live 0 .detach []).serves 0 .detach [] ∧ live.sessions[(0 : Master)].standing = .detached :=
  ⟨serves_of (by decide +kernel), by decide +kernel, serves_of (by decide +kernel), by decide +kernel⟩

theorem test_witness_Park :
    (State.asking joined 0 .park []).serves 0 .park [] ∧ (State.asking held 0 .park []).serves 0 .park [] ∧
      held.holds 0 0 = true :=
  ⟨serves_of (by decide +kernel), serves_of (by decide +kernel), by decide +kernel⟩

theorem test_witness_Unpark :
    (State.asking (joined.park 0) 0 .unpark []).serves 0 .unpark [] ∧
      (joined.park 0).sessions[(0 : Master)].standing = .parked 0 ∧
      (State.asking joined 0 .unpark []).serves 0 .unpark [] ∧ joined.isAttached 0 = true :=
  ⟨serves_of (by decide +kernel), by decide +kernel, serves_of (by decide +kernel), by decide +kernel⟩

theorem test_witness_Renew :
    (State.asking joined 0 .renew []).serves 0 .renew [] ∧ joined.sessions[(0 : Master)].timer = .running 0 ∧
      (State.asking (joined.withTimer 0 (.closed 0)) 0 .renew []).serves 0 .renew [] ∧
      (joined.withTimer 0 (.closed 0)).sessions[(0 : Master)].timer = .closed 0 ∧
      (State.asking (joined.withTimer 0 (.opened 0)) 0 .renew []).serves 0 .renew [] ∧
      (State.asking (joined.withTimer 0 .stopped) 0 .renew []).serves 0 .renew [] :=
  ⟨serves_of (by decide +kernel), by decide +kernel, serves_of (by decide +kernel), by decide +kernel,
    serves_of (by decide +kernel), serves_of (by decide +kernel)⟩

theorem test_witness_Supervise :
    (State.asking joined 0 .supervise [0xC3, 0x22]).serves 0 .supervise [0xC3, 0x22] ∧
      (State.asking (held.withDevice .operational) 0 .supervise [0x5A, 0x22]).serves 0 .supervise [0x5A, 0x22] ∧
      (held.withDevice .operational).heldCount 0 ≠ 0 :=
  ⟨serves_of (by decide +kernel), serves_of (by decide +kernel), by decide +kernel⟩

theorem test_witness_SupervisionTimers :
    joined.isAttached 0 = true ∧ joined.sessions[(0 : Master)].timer = .running 0 ∧
      ((joined.withTimer 0 (.closed 0)).withTimeCount 250000).sessions[(0 : Master)].period.micros / 2 ≤
        (((joined.withTimer 0 (.closed 0)).withTimeCount 250000).timeCount - 0).toNat ∧
      (joined.withTimer 0 (.closed 0)).sessions[(0 : Master)].timer = .closed 0 ∧
      (joined.timeCount - 0).toNat < joined.sessions[(0 : Master)].period.micros / 2 := by decide +kernel

theorem test_witness_Claim :
    zoneOf 0 = some 0 ∧ (State.asking joined 0 .claim [0]).serves 0 .claim [0] ∧
      (State.asking joined 0 .claim [0]).device.isStoring = false ∧
      (State.asking joined 0 .claim [0]).permits 0 0 = true ∧
      (State.asking joined 0 .claim [0]).sessions[(0 : Master)].strike = false ∧
      (State.asking joined 0 .claim [0]).zones[(0 : ZoneId)].authority = .vacant ∧
      (State.asking held 1 .claim [0]).serves 1 .claim [0] ∧ (State.asking held 1 .claim [8]).serves 1 .claim [8] ∧
      zoneOf 8 = none ∧ (State.asking held 1 .claim [0]).zones[(0 : ZoneId)].authority ≠ .vacant :=
  ⟨by decide +kernel, serves_of (by decide +kernel), by decide +kernel, by decide +kernel, by decide +kernel,
    by decide +kernel, serves_of (by decide +kernel), serves_of (by decide +kernel), by decide +kernel,
    by decide +kernel⟩

theorem test_witness_Release :
    (State.asking held 0 .release [0]).serves 0 .release [0] ∧
      (State.asking held 0 .release [0]).zones[(0 : ZoneId)].authority = .held 0 ∧
      (State.asking transferring 0 .release [0]).serves 0 .release [0] ∧
      (State.asking transferring 0 .release [0]).zones[(0 : ZoneId)].authority = .transfer 0 ⟨1, 0, 10⟩ ∧
      (1 : Master) ≠ 0 ∧ (State.asking held 1 .release [0]).serves 1 .release [0] ∧
      (State.asking held 1 .release [0]).zones[(0 : ZoneId)].authority.holder ≠ some 1 :=
  ⟨serves_of (by decide +kernel), by decide +kernel, serves_of (by decide +kernel), by decide +kernel, by decide,
    serves_of (by decide +kernel), by decide +kernel⟩

theorem test_witness_SetOutput :
    (State.asking held 0 .setOutput [0, 15]).serves 0 .setOutput [0, 15] ∧ valueOf 15 = some 15 ∧ valueOf 16 = none ∧
      (State.asking held 0 .setOutput [0, 16]).serves 0 .setOutput [0, 16] :=
  ⟨serves_of (by decide +kernel), by decide, by decide, serves_of (by decide +kernel)⟩

theorem test_witness_ClearFault :
    (State.asking faulted 0 .clearFault [0]).serves 0 .clearFault [0] ∧
      faulted.zones[(0 : ZoneId)].authority = .faulted ∧ faulted.zones[(0 : ZoneId)].driven = none ∧
      (State.asking held 0 .clearFault [0]).serves 0 .clearFault [0] :=
  ⟨serves_of (by decide +kernel), by decide +kernel, by decide +kernel, serves_of (by decide +kernel)⟩

theorem test_witness_RequestHandover :
    (State.asking held 1 .requestHandover [0]).serves 1 .requestHandover [0] ∧
      (State.asking held 1 .requestHandover [0]).device.isStoring = false ∧
      (State.asking held 1 .requestHandover [0]).permits 0 1 = true ∧
      (State.asking held 1 .requestHandover [0]).sessions[(1 : Master)].strike = false ∧
      (State.asking held 1 .requestHandover [0]).zones[(0 : ZoneId)].authority = .held 0 ∧
      (State.asking held 0 .requestHandover [0]).serves 0 .requestHandover [0] ∧
      (State.asking joined 1 .requestHandover [0]).serves 1 .requestHandover [0] ∧
      joined.zones[(0 : ZoneId)].authority = .vacant :=
  ⟨serves_of (by decide +kernel), by decide +kernel, by decide +kernel, by decide +kernel, by decide +kernel,
    serves_of (by decide +kernel), serves_of (by decide +kernel), by decide +kernel⟩

theorem test_witness_YieldAndRefuse :
    masterOf 1 = some 1 ∧ (State.asking transferring 0 .yield [0, 1]).serves 0 .yield [0, 1] ∧
      (State.asking transferring 0 .refuse [0, 1]).serves 0 .refuse [0, 1] ∧
      transferring.zones[(0 : ZoneId)].authority = .transfer 0 ⟨1, 0, 10⟩ ∧
      (State.asking transferring 0 .yield [0, 2]).serves 0 .yield [0, 2] ∧ masterOf 2 ≠ some 1 ∧
      (State.asking transferring 1 .refuse [0, 1]).serves 1 .refuse [0, 1] :=
  ⟨by decide, serves_of (by decide +kernel), serves_of (by decide +kernel), by decide +kernel,
    serves_of (by decide +kernel), by decide, serves_of (by decide +kernel)⟩

theorem test_witness_Withdraw :
    (State.asking transferring 1 .withdraw [0]).serves 1 .withdraw [0] ∧
      (State.asking held 1 .withdraw [0]).serves 1 .withdraw [0] :=
  ⟨serves_of (by decide +kernel), serves_of (by decide +kernel)⟩

theorem test_witness_HandoverTimeout :
    (transferring.withTimeCount 100000).zones[(0 : ZoneId)].authority = .transfer 0 ⟨1, 0, 10⟩ ∧
      (10 : Byte).toNat * 10000 ≤ ((transferring.withTimeCount 100000).timeCount - 0).toNat ∧ (0 : Master) ≠ 1 ∧
      transferring.config.zones[(0 : ZoneId)].policy = .yieldOnly ∧
      (transferring.withZoneConfig 0 { ZoneConfig.default with policy := .preempt }).config.zones[(0 : ZoneId)].policy =
        .preempt ∧
      (transferring.withTimeCount 99999).zones[(0 : ZoneId)].authority = .transfer 0 ⟨1, 0, 10⟩ ∧
      ((99999 : TimeCount) - 0).toNat < (10 : Byte).toNat * 10000 := by decide +kernel

/-- Zones that drive by the law of driving before a handover, a grant or a release. -/
theorem test_witness_LinesKept :
    (∀ s ∈ [held, transferring, settling], s.zones[(0 : ZoneId)].driven =
        drivenBy s.zones[(0 : ZoneId)].authority s.zones[(0 : ZoneId)].commanded (s.fallback 0)
          s.zones[(0 : ZoneId)].inhibit) ∧
      held.zones[(0 : ZoneId)].driven = some 0 := by decide +kernel

theorem test_witness_SettleExpiry :
    (settling.withTimeCount 100000).zones[(0 : ZoneId)].authority = .settling ⟨1, .list 0, 0, 10⟩ ∧
      (10 : Byte).toNat * 10000 ≤ ((settling.withTimeCount 100000).timeCount - 0).toNat := by decide +kernel

/-- Z0 with the succession list M2, M1. -/
def listed : State := joined.withZoneConfig 0 { ZoneConfig.default with succession := [2, 1] }

theorem test_witness_ChoiceTakesTheFirstEligible :
    listed.config.zones[(0 : ZoneId)].succession[1]? = some 1 ∧ listed.eligible 1 0 = true ∧
      listed.config.zones[(0 : ZoneId)].succession[0]? = some 2 ∧ listed.eligible 2 0 = false ∧
      listed.config.zones[(0 : ZoneId)].succession[2]? = none := by decide +kernel

/-- POST ACTION and POST SEQUENCE of M0 for Z0 due at count value 1. -/
theorem test_witness_Posts :
    (State.asking held 0 .postAction [0, 0, 0, 0, 0, 0, 1, 0x8F, 0, 1]).serves 0 .postAction
        [0, 0, 0, 0, 0, 0, 1, 0x8F, 0, 1] ∧
      valueOf (0x8F &&& 0x7F) = some 15 ∧
      (State.asking held 0 .postSequence [0, 0, 0, 0, 0, 0, 1, 15, 0, 1]).serves 0 .postSequence
        [0, 0, 0, 0, 0, 0, 1, 15, 0, 1] ∧
      stepIndexOf 15 = some 15 ∧ held.zones[(0 : ZoneId)].authority.holder = some 0 ∧
      held.timeCount < BitVec.ofNat 48 (numberOf [0, 0, 0, 0, 0, 1]) ∧ held.queue.length < 32 ∧ held.entryCount 0 < 16 :=
  ⟨serves_of (by decide +kernel), by decide, serves_of (by decide +kernel), by decide, by decide +kernel,
    by decide +kernel, by decide +kernel, by decide +kernel⟩

theorem test_witness_Cancels :
    (State.asking running 0 .cancelTag [0, 1]).serves 0 .cancelTag [0, 1] ∧
      (State.asking running 0 .cancelZone [0]).serves 0 .cancelZone [0] :=
  ⟨serves_of (by decide +kernel), serves_of (by decide +kernel)⟩

theorem test_witness_WriteSteps :
    (State.asking joined 0 .writeSteps [15, 0x8F, 0xFF, 0, 0, 0]).serves 0 .writeSteps [15, 0x8F, 0xFF, 0, 0, 0] ∧
      stepsOf [0x8F, 0xFF, 0, 0, 0] = some [⟨15, none, 0, true⟩] ∧
      (State.asking joined 0 .writeSteps [0, 0, 1, 0, 0, 0]).serves 0 .writeSteps [0, 0, 1, 0, 0, 0] ∧
      stepsOf [0, 1, 0, 0, 0] = none :=
  ⟨serves_of (by decide +kernel), by decide, serves_of (by decide +kernel), by decide⟩

theorem test_witness_StepRecords :
    (∀ r ∈ ([⟨15, some 15, 0xFFFFFF, true⟩, ⟨0, some 0, 1, false⟩, ⟨0, none, 0, false⟩] : List Sys2Proof.Machine.Step),
        r.link.isSome = true → r.delay ≠ 0) ∧
      stepsOf [0x8F, 15, 0xFF, 0xFF, 0xFF, 0, 0, 0, 0, 1] = some [⟨15, some 15, 0xFFFFFF, true⟩, ⟨0, some 0, 1, false⟩] ∧
      stepsOf [16, 0xFF, 0, 0, 0] = none ∧ stepsOf [0, 16, 0, 0, 1] = none ∧ stepsOf [0, 0xFE, 0, 0, 1] = none ∧
      stepsOf [0, 15, 0, 0, 0] = none := by decide

/-- A SINGLE entry and a SEQUENCE entry of M0 for Z0, each alone due at count value 7. -/
theorem test_witness_DueEvent :
    ((running.withTimeCount 7).queue.filter (fun x => decide (x.due = (running.withTimeCount 7).timeCount))) =
        [⟨0, 0, 7, .single 3 true, 1⟩] ∧
      ((held.withQueue [⟨0, 0, 7, .sequence 2, 1⟩]).withTimeCount 7).queue.filter
          (fun x => decide (x.due = ((held.withQueue [⟨0, 0, 7, .sequence 2, 1⟩]).withTimeCount 7).timeCount)) =
        [⟨0, 0, 7, .sequence 2, 1⟩] ∧
      held.sessions[(0 : Master)].standing ≠ .detached := by decide +kernel

/-- Z0 driven at 0 with a check time of 1 ms and sensed at 1 since count value 0. -/
def checking : State :=
  ((joined.withZoneConfig 0 { ZoneConfig.default with checkTime := 1 }).withZone 0
    { joined.zones[(0 : ZoneId)] with monitor := .matching }).sensedChange 0 1

theorem test_witness_SensingMovesTheMonitor :
    checking.zones[(0 : ZoneId)].driven = some 0 ∧ checking.config.zones[(0 : ZoneId)].checkTime ≠ 0 ∧
      checking.zones[(0 : ZoneId)].monitor = .checking 0 1 ∧ joined.config.zones[(0 : ZoneId)].checkTime = 0 := by
  decide +kernel

theorem test_witness_CheckExpiry : ZoneDrives (checking.withTimeCount 1000) 0 ∧
    (checking.withTimeCount 1000).zones[(0 : ZoneId)].monitor = .checking 0 1 ∧
    (checking.withTimeCount 1000).config.zones[(0 : ZoneId)].checkTime.toNat * 1000 ≤
      ((checking.withTimeCount 1000).timeCount - 0).toNat := by
  have h : (checking.withTimeCount 1000).zones[(0 : ZoneId)].monitor = .checking 0 1 := by decide +kernel
  refine ⟨⟨by decide +kernel, ?_⟩, h, by decide +kernel⟩
  rw [h]
  exact ⟨by decide +kernel, 0, by decide +kernel, by decide +kernel, by decide +kernel⟩

theorem test_witness_FaultTakesTheZone :
    after (.readbackCheckExpiry 0) (checking.withTimeCount 1000)
      (fun t => decide (t.zones[(0 : ZoneId)].monitor = .fault ⟨0, 1⟩ ∧ t.zones[(0 : ZoneId)].driven = none)) = true := by
  decide +kernel

/-- Z0 HELD by M0 and under check, its check timer expired at count value 1000, where an entry of M0 is due. -/
def expiring : State :=
  ((checking.claim 0 0).withTimeCount 1000).withQueue [⟨0, 0, 1000, .single 3 true, 0x1234⟩]

theorem test_witness_DueEventAtAnExpiredTimer :
    expiring.queue.filter (fun x => decide (x.due = expiring.timeCount)) = [⟨0, 0, 1000, .single 3 true, 0x1234⟩] ∧
      ZoneDrives expiring 0 ∧ expiring.holds 0 0 = true ∧ expiring.isAttached 0 = true ∧
      expiring.zones[(0 : ZoneId)].inhibit = 0 ∧ expiring.checkExpired 0 = true ∧
      expiring.zones[(0 : ZoneId)].driven ≠ some 3 ∧ (expiring.withTimeCount 999).checkExpired 0 = false ∧
      (∀ e ∈ (expiring.withTimeCount 999).queue, e.due ≠ (expiring.withTimeCount 999).timeCount) := by
  have h : expiring.zones[(0 : ZoneId)].monitor = .checking 0 1 := by decide +kernel
  refine ⟨by decide +kernel, ⟨by decide +kernel, ?_⟩, by decide +kernel, by decide +kernel, by decide +kernel,
    by decide +kernel, by decide +kernel, by decide +kernel, by decide +kernel⟩
  rw [h]
  exact ⟨by decide +kernel, 0, by decide +kernel, by decide +kernel, by decide +kernel⟩

theorem test_witness_EveryZoneDrives (z : ZoneId) : ZoneDrives running z := (test_witness_law_of_driving z).1

theorem test_due_event_before_an_expiry :
    after .dueEvent expiring
      (fun t => decide (t.zones[(0 : ZoneId)].monitor = .fault ⟨3, 2⟩ ∧ t.attention[(0 : Master)].loss = some ⟨0, .fault⟩ ∧
        t.attention[(0 : Master)].done = some ⟨0x1234, 0, .applied⟩)) = true := by decide +kernel

/-- Two entries at the expired timer, the first equal to the sensed value: the record holds no lines (log 31). -/
theorem test_several_entries_before_an_expiry :
    after .dueEvent (expiring.withQueue [⟨0, 0, 1000, .single 1 false, 1⟩, ⟨0, 0, 1000, .single 3 false, 2⟩])
      (fun t => decide (t.zones[(0 : ZoneId)].monitor = .fault ⟨3, 0⟩)) = true := by decide +kernel

/-- The holder's session end before the expiry (log 32): no fault where the loss changes the driven value, else one. -/
theorem test_session_end_before_an_expiry :
    after (.readbackCheckExpiry 0) (expiring.detach 0)
        (fun t => decide (t.zones[(0 : ZoneId)].authority = .faulted)) = true ∧
      after (.readbackCheckExpiry 0)
        ((expiring.withZone 0 { expiring.zones[(0 : ZoneId)] with commanded := 3, driven := some 3 }).detach 0)
        (fun t => decide (t.zones[(0 : ZoneId)].authority = .vacant ∧
          t.zones[(0 : ZoneId)].monitor = .checking 1000 1)) = true := by decide +kernel

theorem test_due_event_restarts_a_running_timer :
    after .dueEvent ((expiring.withTimeCount 999).withQueue [⟨0, 0, 999, .single 3 true, 1⟩])
      (fun t => decide (t.zones[(0 : ZoneId)].monitor = .checking 999 2)) = true := by decide +kernel

theorem test_set_output_restarts_a_running_timer :
    after (.setOutput 0 [0, 3]) (State.asking (expiring.withTimeCount 999) 0 .setOutput [0, 3])
      (fun t => decide (t.zones[(0 : ZoneId)].monitor = .checking 999 2)) = true := by decide +kernel

/-- M1 PARKED and next in the succession list of Z0, which M0 holds. -/
def heldBeforeParked : State :=
  (((held.park 1).withZoneConfig 0 { ZoneConfig.default with succession := [1] }).withTimer 0 (.closed 0))

theorem test_early_renewal_wakes :
    after (.renew 0 []) (State.asking heldBeforeParked 0 .renew [])
      (fun t => decide (t.sessions[(0 : Master)].standing = .revoked ∧
        Flag.wakeRequest.mem t.attention[(1 : Master)].flags = true ∧
        t.attention[(0 : Master)].loss = some ⟨0, .revoked⟩)) = true := by decide +kernel

/-- IN0 enabled, with a filter time of 10 µs, forcing Z0 at HIGH. -/
def wired : State := joined.writeInputConfig 0 ⟨true, .both, 1, 1, .high⟩

/-- IN0 TRACKING at LOW with HIGH sampled since count value 0. -/
def rising : State := (wired.recognise 0 .low).sampleInput 0 .high

theorem test_witness_RecognitionOfInputs :
    ((wired.sampleInput 0 .low).withTimeCount 10).inputs[(0 : InputId)] = ⟨.low, .establishing (some (.low, 0))⟩ ∧
      wired.config.inputs[(0 : InputId)].filterTime.toNat * 10 ≤ ((10 : TimeCount) - 0).toNat ∧
      ((9 : TimeCount) - 0).toNat < wired.config.inputs[(0 : InputId)].filterTime.toNat * 10 ∧
      (rising.withTimeCount 10).inputs[(0 : InputId)] = ⟨.high, .tracking .low (some 0)⟩ ∧
      wired.inputs[(0 : InputId)].live = .establishing none ∧
      EdgeMode.captures .high rising.config.inputs[(0 : InputId)].edge = true ∧ rising.isAttached 0 = true := by
  decide +kernel

theorem test_filter_time_zero_recognises_at_once :
    after (.firstRecognition 1) (joined.writeInputConfig 1 ⟨true, .both, 0, 1, .high⟩)
      (fun t => decide (t.inputs[(1 : InputId)].live = .tracking .low none ∧ t.zones[(0 : ZoneId)].inhibit = 0)) =
      true := by decide +kernel

theorem test_recognised_change_is_captured :
    after (.recognisedChange 0) (rising.withTimeCount 10)
      (fun t => decide (t.ring = [⟨0, 0, .high, 10⟩] ∧ t.nextSerial = 1 ∧ t.zones[(0 : ZoneId)].inhibit = 1)) = true := by
  decide +kernel

/-- As `rising` at its recognition, with a full ring whose oldest record both cursors are at, M0 holding Z0 with every
input in its notify mask. -/
def overflowing : State :=
  (((rising.withTimeCount 10).setAuthority 0 (.held 0) 0).withCaptures
      ((List.range 64).map fun k => ⟨BitVec.ofNat 32 k, 1, .low, 0⟩) 64).withAttention 0
    { rising.attention[(0 : Master)] with notifyMask := 0xFF }

theorem test_witness_overflow :
    overflowing.overrun 0 = true ∧ overflowing.overrun 2 = false ∧ overflowing.ring.length = 64 ∧
      rising.overrun 0 = false ∧ overflowing.holds 0 0 = true ∧
      overflowing.captureReports 0 0 = [.captureGap, .captureAvailable] ∧
      overflowing.captureReports 0 1 = [.captureGap] := by decide +kernel

theorem test_overflow_tells_its_masters :
    after (.recognisedChange 0) (overflowing.withZone 0 { overflowing.zones[(0 : ZoneId)] with inhibit := 0 })
      (fun t => decide (t.sessions[(0 : Master)].standing = .attached 1 ∧ t.ring.length = 64 ∧
        Flag.captureGap.mem t.attention[(1 : Master)].flags = true ∧
        Flag.captureAvailable.mem t.attention[(1 : Master)].flags = false ∧
        Flag.inhibitChange.mem t.attention[(0 : Master)].flags = true ∧
        Flag.inhibitChange.mem t.attention[(1 : Master)].flags = false)) = true := by decide +kernel

theorem asking_ring {s : State} (h : LawOfRing s) (m : Master) (c : Command) (o : List Byte) :
    LawOfRing (State.asking s m c o) := h

theorem test_witness_ReadCaptures :
    (State.asking running 0 .readCaptures [4]).serves 0 .readCaptures [4] ∧
      (State.asking running 0 .readCaptures [4]).sessions[(0 : Master)].standing = .attached 0 ∧
      LawOfRing (State.asking running 0 .readCaptures [4]) ∧
      (State.asking running 0 .readCaptures [0]).serves 0 .readCaptures [0] ∧
      (State.asking running 0 .readCaptures [5]).serves 0 .readCaptures [5] :=
  ⟨serves_of (by decide +kernel), by decide +kernel,
    asking_ring test_witness_law_of_the_ring 0 .readCaptures [4], serves_of (by decide +kernel),
    serves_of (by decide +kernel)⟩

theorem test_witness_AcknowledgeAndSetEnables :
    (State.asking joined 0 .acknowledge [0x7F, 0xFF]).serves 0 .acknowledge [0x7F, 0xFF] ∧
      (State.asking joined 0 .acknowledge [0x80, 0x00]).serves 0 .acknowledge [0x80, 0x00] ∧
      (State.asking joined 0 .setEnables [0x7F, 0xFF, 0xFF]).serves 0 .setEnables [0x7F, 0xFF, 0xFF] ∧
      (State.asking joined 0 .setEnables [0x80, 0x00, 0x00]).serves 0 .setEnables [0x80, 0x00, 0x00] :=
  ⟨serves_of (by decide +kernel), serves_of (by decide +kernel), serves_of (by decide +kernel),
    serves_of (by decide +kernel)⟩

/-- The ten bytes of the default zone configuration. -/
def defaultBytes : List Byte := [0x0F, 0, 0xFF, 0xFF, 0xFF, 0, 0, 10, 10, 0]

/-- As the default, with a check time of 255 ms and fallback value 6. -/
def checkedBytes : List Byte := [0x0F, 0, 0xFF, 0xFF, 0xFF, 6, 0, 10, 10, 255]

theorem test_new_check_time_and_fallback :
    after (.writeZoneConfig 0 (0 :: checkedBytes))
      (State.asking (joined.sensedChange 0 5) 0 .writeZoneConfig (0 :: checkedBytes))
      (fun t => decide (t.zones[(0 : ZoneId)].monitor = .checking 0 3 ∧ t.zones[(0 : ZoneId)].driven = some 6)) =
      true := by decide +kernel

theorem test_witness_ConfigurationWrites :
    (State.asking joined 0 .writeZoneConfig (0 :: defaultBytes)).serves 0 .writeZoneConfig (0 :: defaultBytes) ∧
      zoneConfigOf defaultBytes = some .default ∧ ZoneConfig.default.InRange ∧
      (State.asking joined 0 .writeZoneConfig (0 :: checkedBytes)).serves 0 .writeZoneConfig (0 :: checkedBytes) ∧
      (zoneConfigOf checkedBytes).map (·.checkTime) = some 255 ∧ joined.config.zones[(0 : ZoneId)].checkTime = 0 ∧
      joined.zones[(0 : ZoneId)].driven = some 0 ∧
      (State.asking joined 0 .writeInputConfig [7, 1, 2, 1, 1, 1]).serves 0 .writeInputConfig [7, 1, 2, 1, 1, 1] ∧
      inputConfigOf [1, 2, 1, 1, 1] = some ⟨true, .both, 1, 1, .high⟩ ∧
      (State.asking joined 0 .writeMasterPolicy [3, 0xA5]).serves 0 .writeMasterPolicy [3, 0xA5] ∧
      WorkingConfig.default.InRange :=
  ⟨serves_of (by decide +kernel), by decide +kernel, by decide +kernel, serves_of (by decide +kernel),
    by decide +kernel, by decide +kernel, by decide +kernel, serves_of (by decide +kernel), by decide +kernel,
    serves_of (by decide +kernel), by decide +kernel⟩

theorem test_witness_InputConfigurations :
    inputConfigOf [0, 0, 0, 0, 0] = some ⟨false, .rising, 0, 0, .low⟩ ∧
      inputConfigOf [1, 2, 255, 255, 1] = some ⟨true, .both, 255, 255, .high⟩ ∧ inputConfigOf [2, 0, 0, 0, 0] = none ∧
      inputConfigOf [0, 3, 0, 0, 0] = none ∧ inputConfigOf [0, 0, 0, 0, 2] = none := by decide

theorem test_witness_StartUp :
    (∀ m : Master, State.reset.sessions[m].standing = .detached) ∧
      (∀ z : ZoneId, State.reset.zones[z].authority = .dark ∧ State.reset.zones[z].driven = none) ∧
      State.reset.device = .starting ∧ live.device ≠ .starting := by decide +kernel

theorem test_witness_Commit :
    (State.asking joined 0 .commit []).serves 0 .commit [] ∧ (State.asking held 0 .commit []).serves 0 .commit [] ∧
      held.zones[(0 : ZoneId)].authority ≠ .vacant :=
  ⟨serves_of (by decide +kernel), serves_of (by decide +kernel), by decide +kernel⟩

theorem test_witness_StoreWriteEnd :
    (joined.commit 0).device = .storing 0 (imageOf joined.config true) ∧ ∀ m image, joined.device ≠ .storing m image := by
  have h : joined.device = .commissioning := by decide +kernel
  have hc : ∀ (s : State) (m : Master), (s.commit m).device = .storing m (imageOf s.config true) := fun _ _ => rfl
  refine ⟨hc joined 0, fun m image hs => ?_⟩
  rw [h] at hs; cases hs

end Sys2Proof.Tests
end

/-! PROOFS. The cancels of the action queue (R102, R103). -/

namespace Sys2Proof.Machine

/-! ### The end of a service -/

@[simp] theorem State.finish_entryCount (c : Command) (m n : Master) (a : Answer) :
    (State.finish c m a).entryCount n = a.state.entryCount n := by
  simp only [State.entryCount, State.finish_queue]

/-- A request that is not for the authority table ends with nothing but the ports touched (R167). -/
theorem State.finish_of_offTable {c : Command} (m : Master) (a : Answer) (hc : c.atTable = false) :
    State.finish c m a = { a.state with ports := (State.finish c m a).ports } := by
  rw [State.finish_eq]
  simp only [hc, Bool.false_eq_true, if_false]

/-- A refusal answers with its status and no payload, whatever the request. -/
theorem State.finish_refuse_answered (s : State) (c : Command) (m : Master) (st : Status) :
    Answered s (State.finish c m (s.refuse st)) m c st [] :=
  State.finish_answered c m (s.refuse st) rfl rfl rfl

/-! ### Removal of a master's own entries -/

/-- The removed entries and those that remain make up what the poster had. -/
theorem State.entryCount_removeEntries_add (s : State) (m : Master) (p : Entry → Bool)
    (hp : ∀ e, p e = true → e.poster = m) :
    (s.removeEntries p).entryCount m + s.queue.countP p = s.entryCount m := by
  have hown : s.queue.countP p = (s.queue.filter p).countP (fun e => decide (e.poster = m)) := by
    rw [List.countP_filter]
    exact List.countP_congr fun e _ => by simpa using hp e
  simp only [State.entryCount, State.removeEntries_queue]
  rw [hown, List.countP_eq_countP_filter_add s.queue _ p, Nat.add_comm]

/-! ### What a cancel does -/

theorem State.cancel_of_none {s : State} (m : Master) {p : Entry → Bool} (h : s.queue.countP p = 0) :
    s.cancel m p = s.refuse .notFound := by
  simp only [State.cancel, h, if_true]

theorem State.cancel_of_some {s : State} (m : Master) {p : Entry → Bool} (h : s.queue.countP p ≠ 0) :
    s.cancel m p =
      (s.removeEntries p).reply [byteOf (s.queue.countP p), byteOf ((s.removeEntries p).entryCount m)] := by
  simp only [State.cancel, h, if_false]

/-- A cancel leaves the queue without the entries it names, in both outcomes: a refused one found none. -/
theorem State.cancel_state (s : State) (m : Master) (p : Entry → Bool) :
    (s.cancel m p).state = s.removeEntries p := by
  by_cases h : s.queue.countP p = 0
  · have hkept : s.queue.filter (fun e => !p e) = s.queue :=
      List.filter_eq_self.mpr fun e he => by simpa using List.countP_eq_zero.mp h e he
    rw [State.cancel_of_none m h, State.removeEntries, hkept]
    rfl
  · rw [State.cancel_of_some m h]
    rfl

/-- A served cancel changes the queue and the ports alone. -/
theorem State.finish_cancel_frame (s : State) {c : Command} (m : Master) (p : Entry → Bool)
    (hc : c.atTable = false) :
    State.finish c m (s.cancel m p) =
      { s with queue := (State.finish c m (s.cancel m p)).queue
               ports := (State.finish c m (s.cancel m p)).ports } := by
  conv_lhs => rw [State.finish_of_offTable m _ hc]
  rw [State.finish_queue, State.cancel_state]
  rfl

theorem State.finish_cancel_queue (s : State) (c : Command) (m : Master) (P : Entry → Prop) [DecidablePred P] :
    (State.finish c m (s.cancel m fun e => decide (P e))).queue = s.queue.filter fun e => decide (¬ P e) := by
  simp only [State.finish_queue, State.cancel_state, State.removeEntries_queue, decide_not]

/-- The response of a cancel that found entries: how many went, and how many remain (R102). -/
theorem State.finish_cancel_answered (s : State) (c : Command) (m : Master) {p : Entry → Bool}
    (h : s.queue.countP p ≠ 0) :
    Answered s (State.finish c m (s.cancel m p)) m c .ok
      [byteOf (s.queue.countP p), byteOf ((State.finish c m (s.cancel m p)).entryCount m)] := by
  rw [State.finish_entryCount, State.cancel_of_some m h]
  exact State.finish_answered c m _ rfl rfl rfl

/-- Of at most 16 entries of the sender, a cancel takes 1 to 16 and leaves 0 to 15 (R91, R102). -/
theorem State.finish_cancel_bounds (s : State) (c : Command) (m : Master) {p : Entry → Bool}
    (hp : ∀ e, p e = true → e.poster = m) (h : s.queue.countP p ≠ 0) (hq : s.entryCount m ≤ 16) :
    s.queue.countP p ≤ 16 ∧ (State.finish c m (s.cancel m p)).entryCount m ≤ 15 := by
  have hsum := s.entryCount_removeEntries_add m p hp
  rw [State.finish_entryCount, State.cancel_state]
  omega

/-- Both outcomes of a cancel of the sender's own entries, as the statement has them. -/
theorem State.finish_cancel_response (s : State) (c : Command) (m : Master) (p : Entry → Bool)
    (hp : ∀ e, p e = true → e.poster = m) :
    if s.queue.countP p = 0 then Answered s (State.finish c m (s.cancel m p)) m c .notFound []
    else
      Answered s (State.finish c m (s.cancel m p)) m c .ok
          [byteOf (s.queue.countP p), byteOf ((State.finish c m (s.cancel m p)).entryCount m)] ∧
        (s.entryCount m ≤ 16 →
          s.queue.countP p ≤ 16 ∧ (State.finish c m (s.cancel m p)).entryCount m ≤ 15) := by
  split
  next h =>
    rw [State.cancel_of_none m h]
    exact s.finish_refuse_answered c m .notFound
  next h => exact ⟨s.finish_cancel_answered c m h, s.finish_cancel_bounds c m hp h⟩

/-! ### The two requests -/

theorem exec_cancelTag_of_serves {s : State} {m : Master} {t1 t0 : Byte} (h : s.serves m .cancelTag [t1, t0]) :
    exec (.cancelTag m [t1, t0]) s =
      .next (State.finish .cancelTag m (s.cancel m fun e => decide (e.poster = m ∧ e.tag = tagOf [t1, t0]))) :=
  serve_taken (cancelTagAnswer m [t1, t0]) h

theorem exec_cancelZone_of_serves {s : State} {m : Master} {zb : Byte} (h : s.serves m .cancelZone [zb]) :
    exec (.cancelZone m [zb]) s =
      .next (State.finish .cancelZone m (s.onZone zb fun z => s.cancel m (Entry.isOf m z))) :=
  serve_taken (cancelZoneAnswer m [zb]) h

theorem State.onZone_of_some (s : State) {b : Byte} {z : ZoneId} (k : ZoneId → Answer) (h : zoneOf b = some z) :
    s.onZone b k = k z := by
  simp only [State.onZone, h]

theorem State.onZone_of_none (s : State) {b : Byte} (k : ZoneId → Answer) (h : zoneOf b = none) :
    s.onZone b k = s.refuse .range := by
  simp only [State.onZone, h]

/-! ### The gating of the cancels (R166) -/

/-- The cancels are served in every device state but STARTING and HALTED. -/
theorem Command.servedIn_cancel {c : Command} (hc : c = .cancelTag ∨ c = .cancelZone) (d : DeviceState) :
    c.servedIn d = !decide (d = .starting ∨ d = .halted) := by
  obtain rfl | rfl := hc <;> cases d <;> rfl

/-- Of the session states, only ATTACHED lets the cancels pass. -/
theorem Command.allowedIn_cancel {c : Command} (hc : c = .cancelTag ∨ c = .cancelZone) (st : Standing) :
    c.allowedIn st = st.isAttached := by
  obtain rfl | rfl := hc <;> cases st <;> rfl

/-- The gating of a cancel of the right length looks at the device state and the session state alone. -/
theorem State.gate_cancel (s : State) (m : Master) {c : Command} {operands : List Byte}
    (hc : c = .cancelTag ∨ c = .cancelZone) (hlen : c.lengthOk operands.length = true) :
    s.gate m c operands =
      if s.device = .starting ∨ s.device = .halted then some .wrongState
      else if s.isAttached m = true then none else some .notAttached := by
  have hst : c.allowedIn s.sessions[m].standing = s.isAttached m := Command.allowedIn_cancel hc _
  simp only [State.gate, Command.servedIn_cancel hc, hst, hlen]
  by_cases hd : s.device = .starting ∨ s.device = .halted
  · simp only [hd, decide_true, Bool.not_true, Bool.not_false, if_true]
  · cases s.isAttached m <;> simp [hd]

/-- Settles O34: each cancel is `State.cancel` of a choice among the sender's own entries. -/
theorem cancelsRemoveTheSendersEntries : Obligations.CancelsRemoveTheSendersEntries := by
  refine ⟨fun s m c operands h => ?gate, fun s m t1 t0 h => ?tag, fun s m zb h => ?zone⟩
  case gate =>
    obtain ⟨rfl, hlen⟩ | ⟨rfl, hlen⟩ := h
    · exact s.gate_cancel m (.inl rfl) (decide_eq_true hlen)
    · exact s.gate_cancel m (.inr rfl) (decide_eq_true hlen)
  case tag =>
    exact ⟨_, exec_cancelTag_of_serves h, s.finish_cancel_frame m _ rfl, s.finish_cancel_queue .cancelTag m _,
      s.finish_cancel_response .cancelTag m _ fun e he => (of_decide_eq_true he).1⟩
  case zone =>
    refine ⟨_, exec_cancelZone_of_serves h, ?_⟩
    cases hz : zoneOf zb with
    | none =>
      rw [s.onZone_of_none _ hz]
      exact ⟨State.finish_of_offTable m (s.refuse .range) rfl, s.finish_refuse_answered .cancelZone m .range,
        State.finish_queue .cancelZone m (s.refuse .range)⟩
    | some z =>
      rw [s.onZone_of_some _ hz]
      exact ⟨s.finish_cancel_frame m _ rfl, s.finish_cancel_queue .cancelZone m _,
        s.finish_cancel_response .cancelZone m _ fun e he => (of_decide_eq_true he).1⟩

end Sys2Proof.Machine

/-! PROOFS. NOP (R168), the reading of a request frame (R163), and the transaction that carries one (R161). -/

namespace Sys2Proof.Machine

/-! ### The reading of a request frame (R163) -/

/-- No two commands share an identifier. -/
theorem commandOfId_id (c : Command) : commandOfId c.id = some c := by
  cases c <;> rfl

theorem byteOf_toNat_of_operands {operands : List Byte} (h : operands.length ≤ 24) :
    (byteOf operands.length).toNat = operands.length := by
  simp only [byteOf, BitVec.toNat_ofNat]
  omega

/-- A frame whose length byte counts its operands, whose identifier is a command's and whose check byte is right passes
the checks, whatever is shifted in after it. -/
theorem checkFrame_of_command {len id : Byte} {c : Command} {operands : List Byte} (fill : List Byte)
    (hlen : len.toNat = operands.length) (h : operands.length ≤ 24) (hid : commandOfId id = some c) :
    checkFrame (len :: id :: (operands ++ crc8 (len :: id :: operands) :: fill)) 0 = .request c operands := by
  have hrest : operands ++ crc8 (len :: id :: operands) :: fill ≠ [] := by simp
  have hfits : ¬ (24 < operands.length ∨
      (len :: id :: (operands ++ crc8 (len :: id :: operands) :: fill)).length < operands.length + 3) := by
    simp only [List.length_cons, List.length_append]
    omega
  simp only [checkFrame, hlen, hrest, hfits, List.take_left, List.drop_left, List.head?_cons, hid, ne_eq,
    not_true_eq_false, if_false]

theorem checkFrame_encodeRequest_append (c : Command) {operands : List Byte} (fill : List Byte)
    (h : operands.length ≤ 24) : checkFrame (encodeRequest c operands ++ fill) 0 = .request c operands := by
  have hread := checkFrame_of_command fill (byteOf_toNat_of_operands h) h (commandOfId_id c)
  simpa only [encodeRequest, List.cons_append, List.append_assoc, List.nil_append] using hread

/-! ### The transaction that carries a request (R161) -/

/-- Chip select asserted at an IDLE port begins the shifting out of the buffer's response. -/
theorem State.transactionBegin_of_idle {s : State} {p : Master} (hcs : s.ports[p].cs = false)
    (hidle : s.ports[p].phase = .idle) :
    (s.transactionBegin p).ports[p] =
      { s.ports[p] with cs := true, phase := .shifting, out := some (encodeResponse s.ports[p].buffer) } := by
  simp only [State.transactionBegin, hcs, Bool.false_eq_true, if_false, State.withPort_ports, at_set_self, Port.begin,
    hidle]

@[simp] theorem State.transactionBegin_timeCount (s : State) (p : Master) :
    (s.transactionBegin p).timeCount = s.timeCount := by
  unfold State.transactionBegin
  split <;> rfl

/-- The arrival of a request concerns the authority table controller, not the ports. -/
@[simp] theorem State.arrive_ports (s : State) (p : Master) : (s.arrive p).ports = s.ports := by
  unfold State.arrive
  split <;> rfl

/-- Chip select released at a SHIFTING port: the port makes of the frame what the checks of R163 say. -/
theorem State.transactionEnd_of_shifting {s : State} {p : Master} (received : List Byte) (strayBits : Nat)
    (hcs : s.ports[p].cs = true) (hshift : s.ports[p].phase = .shifting) :
    (s.transactionEnd p received strayBits).ports[p] =
      (s.ports[p].release received).receive s.timeCount (checkFrame received strayBits) := by
  simp only [State.transactionEnd, hcs, if_true, hshift, State.arrive_ports, State.withPort_ports, at_set_self,
    Port.finish]

/-- A whole transaction at an IDLE port that carries a request frame: the request waits, and the response that was in
the buffer has gone out, FF hex fill after it. -/
theorem State.transaction_of_request {s : State} {p : Master} (c : Command) {operands : List Byte} (fill : List Byte)
    (hcs : s.ports[p].cs = false) (hidle : s.ports[p].phase = .idle) (h : operands.length ≤ 24) :
    ((s.transactionBegin p).transactionEnd p (encodeRequest c operands ++ fill) 0).ports[p] =
      { s.ports[p] with
        phase := .waiting ⟨c, operands, s.timeCount⟩
        out := none
        sdo := shiftedOut (encodeRequest c operands ++ fill).length (some (encodeResponse s.ports[p].buffer)) } := by
  have hport := State.transactionBegin_of_idle hcs hidle
  rw [State.transactionEnd_of_shifting _ _ (by rw [hport]) (by rw [hport]), hport,
    checkFrame_encodeRequest_append c fill h, State.transactionBegin_timeCount]
  simp only [Port.receive, Port.release, hcs]

/-! ### The service of NOP (R166, R168) -/

theorem Command.servedIn_nop (d : DeviceState) : Command.nop.servedIn d = true := by
  cases d <;> rfl

theorem Command.allowedIn_nop (st : Standing) : Command.nop.allowedIn st = true := by
  cases st <;> rfl

/-- NOP without operands passes the gating in every device state and every session state. -/
theorem State.gate_nop (s : State) (m : Master) : s.gate m .nop [] = none := by
  simp [State.gate, Command.servedIn_nop, Command.allowedIn_nop, Command.lengthOk]

theorem exec_nop_of_ready {s : State} {m : Master} (h : s.ready m .nop [] = true) :
    exec (.nop m []) s = .next (State.finish .nop m (s.reply [])) :=
  serve_taken (nopAnswer m []) ⟨h, s.gate_nop m⟩

/-- Settles O18: NOP passes every gate, its answer is the state as it was, and its frame of three bytes is read and
leaves it waiting while the response before it goes out. -/
theorem nopIsServedEverywhere : Obligations.NopIsServedEverywhere := by
  refine ⟨State.gate_nop, fun s m hready => ?service, fun s p fill hcs hidle => ?transaction⟩
  case service =>
    exact ⟨_, exec_nop_of_ready hready, State.finish_answered .nop m (s.reply []) rfl rfl rfl,
      State.finish_of_offTable m (s.reply []) rfl⟩
  case transaction =>
    have hport := State.transaction_of_request .nop fill hcs hidle (operands := []) (Nat.zero_le _)
    have hlength : (encodeRequest .nop [] ++ fill).length = 3 + fill.length := by
      rw [List.length_append]
      rfl
    refine ⟨_, _, rfl, rfl, by rw [hport], ?_⟩
    rw [hport, hlength]
    rfl

end Sys2Proof.Machine

/-! PROOFS. What a step can do: every command but a reset and the advance of the count makes one of the effects listed
here, and nothing else but at the ports and in the turn; the advance makes several and steps the count. -/

namespace Sys2Proof.Machine

/-! ### The answers, by command -/

/-- What the block that owns a request makes of it, by the request's command. -/
def answerOf (c : Command) (m : Master) (o : List Byte) : State → Answer :=
  match c with
  | .nop => nopAnswer m o
  | .status => statusAnswer m o
  | .attach => attachAnswer m o
  | .detach => detachAnswer m o
  | .park => parkAnswer m o
  | .unpark => unparkAnswer m o
  | .renew => renewAnswer m o
  | .supervise => superviseAnswer m o
  | .claim => claimAnswer m o
  | .release => releaseAnswer m o
  | .setOutput => setOutputAnswer m o
  | .readZone => readZoneAnswer m o
  | .readZoneChanges => readZoneChangesAnswer m o
  | .clearFault => clearFaultAnswer m o
  | .requestHandover => requestHandoverAnswer m o
  | .withdraw => withdrawAnswer m o
  | .yield => yieldAnswer m o
  | .refuse => refuseAnswer m o
  | .readTime => readTimeAnswer m o
  | .postAction => postActionAnswer m o
  | .postSequence => postSequenceAnswer m o
  | .cancelTag => cancelTagAnswer m o
  | .cancelZone => cancelZoneAnswer m o
  | .readQueue => readQueueAnswer m o
  | .writeSteps => writeStepsAnswer m o
  | .readSteps => readStepsAnswer m o
  | .readInputs => readInputsAnswer m o
  | .readCaptures => readCapturesAnswer m o
  | .readFlags => readFlagsAnswer m o
  | .acknowledge => acknowledgeAnswer m o
  | .setEnables => setEnablesAnswer m o
  | .readConfig => readConfigAnswer m o
  | .writeZoneConfig => writeZoneConfigAnswer m o
  | .writeInputConfig => writeInputConfigAnswer m o
  | .writeMasterPolicy => writeMasterPolicyAnswer m o
  | .commit => commitAnswer m o

/-- Every request row is the service of its answer. -/
theorem exec_row (c : Command) (m : Master) (o : List Byte) (s : State) :
    exec (c.row m o) s = serve c m o (answerOf c m o) s := by
  cases c <;> rfl

theorem exec_row_of_serves {s : State} {m : Master} {c : Command} {o : List Byte} (h : s.serves m c o) :
    exec (c.row m o) s = .next (State.finish c m (answerOf c m o s)) :=
  (exec_row c m o s).trans (serve_taken _ h)

/-- A request that is served changes the ports and the turn, and what its answer changes. -/
theorem finish_onlyAnswered (c : Command) (m : Master) (a : Answer) : OnlyAnswered a.state (State.finish c m a) := by
  unfold OnlyAnswered
  rw [State.finish_eq]

@[simp] theorem State.refuse_state (s : State) (st : Status) : (s.refuse st).state = s := rfl
@[simp] theorem State.refuse_status (s : State) (st : Status) : (s.refuse st).status = st := rfl
@[simp] theorem State.refuse_payload (s : State) (st : Status) : (s.refuse st).payload = [] := rfl
@[simp] theorem State.reply_state (s : State) (p : List Byte) : (s.reply p).state = s := rfl
@[simp] theorem State.reply_status (s : State) (p : List Byte) : (s.reply p).status = .ok := rfl
@[simp] theorem State.reply_payload (s : State) (p : List Byte) : (s.reply p).payload = p := rfl

theorem OnlyAnswered.refl (s : State) : OnlyAnswered s s := rfl

/-! ### The gating of a request that is served (R166) -/

theorem gate_none_iff {s : State} {m : Master} {c : Command} {o : List Byte} :
    s.gate m c o = none ↔
      c.servedIn s.device = true ∧ c.allowedIn s.sessions[m].standing = true ∧ c.lengthOk o.length = true := by
  unfold State.gate
  cases c.servedIn s.device <;> cases c.allowedIn s.sessions[m].standing <;> cases c.lengthOk o.length <;> simp

/-- The commands that a master which is not ATTACHED may send (R166, step 2). -/
def Command.openToAll : Command → Bool
  | .status | .readConfig | .attach | .detach | .nop | .readFlags | .acknowledge | .setEnables | .unpark | .park => true
  | _ => false

theorem Command.allowedIn_of_closed {c : Command} (h : c.openToAll = false) (st : Standing) :
    c.allowedIn st = st.isAttached := by
  revert h
  cases st <;> cases c <;> simp [Command.allowedIn, Command.openToAll, Standing.isAttached]

theorem serves_attached {s : State} {m : Master} {c : Command} {o : List Byte} (h : s.serves m c o)
    (hc : c.openToAll = false) : s.isAttached m = true := by
  have ha := (gate_none_iff.mp h.2).2.1
  rwa [Command.allowedIn_of_closed hc] at ha

/-- The attention requests and UNPARK are closed to DETACHED masters alone (R166, step 2). -/
theorem serves_notDetached {s : State} {m : Master} {c : Command} {o : List Byte} (h : s.serves m c o)
    (hc : Command.allowedIn .detached c = false) : s.sessions[m].standing ≠ .detached := by
  intro hd
  have ha := (gate_none_iff.mp h.2).2.1
  rw [hd, hc] at ha
  cases ha

/-- Out of service only STATUS, READ CONFIG and NOP are served (R166, step 1). -/
theorem serves_inService {s : State} {m : Master} {c : Command} {o : List Byte} (h : s.serves m c o)
    (hc : c ≠ .status ∧ c ≠ .readConfig ∧ c ≠ .nop) : ¬ s.device.outOfService := by
  have hd := (gate_none_iff.mp h.2).1
  intro ho
  cases hs : s.device <;> rw [hs] at hd ho
  · simp [Command.servedIn, hc] at hd
  · exact ho
  · exact ho
  · exact ho
  · simp [Command.servedIn, hc] at hd

/-- PARK passes the gating from ATTACHED and PARKED alone. -/
theorem serves_park_standing {s : State} {m : Master} {o : List Byte} (h : s.serves m .park o) :
    s.isAttached m = true ∨ s.sessions[m].standing.isParked = true := by
  have ha := (gate_none_iff.mp h.2).2.1
  unfold State.isAttached
  cases hst : s.sessions[m].standing <;> rw [hst] at ha
  · cases ha
  · exact .inl rfl
  · exact .inr rfl
  · cases ha

theorem serves_length {s : State} {m : Master} {c : Command} {o : List Byte} (h : s.serves m c o) :
    c.lengthOk o.length = true :=
  (gate_none_iff.mp h.2).2.2

/-! ### What follows a change -/

/-- From `u` to `t` entries have left the queue and masters have been told events other than a revocation, and nothing
else has happened. -/
structure Follows (u t : State) : Prop where
  frame : t = { u with queue := t.queue, attention := t.attention }
  queue : t.queue.Sublist u.queue
  told : ∀ n : Master, ∃ events : List Signal, (∀ e ∈ events, ∀ r, e ≠ .revoked r) ∧ t.attention[n] = u.told n events

theorem State.told_nil (s : State) (n : Master) : s.told n [] = s.attention[n] := by
  unfold State.told
  split <;> rfl

theorem Follows.refl (s : State) : Follows s s :=
  ⟨rfl, .refl _, fun n => ⟨[], by simp, (s.told_nil n).symm⟩⟩

theorem Follows.sessions {s t : State} (h : Follows s t) : t.sessions = s.sessions := by rw [h.frame]

theorem Follows.trans {s t u : State} (h : Follows s t) (k : Follows t u) : Follows s u := by
  refine ⟨by rw [k.frame, h.frame], k.queue.trans h.queue, fun n => ?_⟩
  obtain ⟨e₁, h₁, k₁⟩ := h.told n
  obtain ⟨e₂, h₂, k₂⟩ := k.told n
  refine ⟨e₁ ++ e₂, fun e he => (List.mem_append.mp he).elim (h₁ e) (h₂ e), ?_⟩
  rw [k₂]
  unfold State.told at k₁ ⊢
  rw [h.sessions, k₁]
  split
  · rfl
  · rw [List.foldl_append]

theorem signal_follows (s : State) (m : Master) (e : Signal) (he : ∀ r, e ≠ .revoked r) : Follows s (s.signal m e) where
  frame := by ext1 <;> simp
  queue := by rw [State.signal_queue]
  told n := by
    by_cases hm : n = m
    · subst hm
      refine ⟨[e], by simpa using he, ?_⟩
      rw [State.signal_attention, State.told]
      by_cases hd : s.sessions[n].standing = .detached <;> simp [-Fin.getElem_fin, hd]
    · exact ⟨[], by simp, by rw [State.signal_attention, if_neg fun x => hm x.1.symm, State.told_nil]⟩

theorem removeEntries_follows (s : State) (p : Entry → Bool) : Follows s (s.removeEntries p) :=
  ⟨rfl, List.filter_sublist, fun n => ⟨[], by simp, (s.told_nil n).symm⟩⟩

theorem Follows.fold {α : Type} {f : State → α → State} (hf : ∀ s a, Follows s (f s a)) (l : List α) (s : State) :
    Follows s (l.foldl f s) := by
  induction l generalizing s with
  | nil => exact .refl s
  | cons a l ih => exact (hf s a).trans (ih _)

theorem dropEntries_follows (s : State) (p : Entry → Bool) : Follows s (s.dropEntries p) :=
  (removeEntries_follows s p).trans
    (.fold (fun s _ => signal_follows s _ _ fun _ h => by cases h) _ _)

/-! ### Changes of a zone's authority -/

/-- The changes of a zone's authority and commanded value that one command makes, with their guards. -/
inductive Change (s : State) (z : ZoneId) : Authority → Value → Prop
  | claim (m : Master) (fit : s.eligible m z = true) (free : s.zones[z].authority = .vacant) :
    Change s z (.held m) (s.fallback z)
  | release (m : Master) (held : s.zones[z].authority = .held m) : Change s z .vacant (s.fallback z)
  | handOver (h : Master) (p : Pending) (asked : s.zones[z].authority = .transfer h p) :
    Change s z (.held p.requester) s.zones[z].commanded
  | keep (h : Master) (p : Pending) (asked : s.zones[z].authority = .transfer h p) :
    Change s z (.held h) s.zones[z].commanded
  | ask (h : Master) (p : Pending) (held : s.zones[z].authority = .held h)
    (fit : s.eligible p.requester z = true) (other : p.requester ≠ h) (begun : p.since = s.timeCount) :
    Change s z (.transfer h p) s.zones[z].commanded
  | grant (c : Candidate) (settling : s.zones[z].authority = .settling c) : Change s z (.held c.master) (s.fallback z)
  | clear (faulted : s.zones[z].authority = .faulted) : Change s z .vacant (s.fallback z)
  | fault (expired : s.checkExpired z = true) : Change s z .faulted (s.fallback z)

/-- The entries of a master that stops holding the zone have left the queue (R100). -/
def EntriesGone (s t : State) (z : ZoneId) (a : Authority) : Prop :=
  ∀ e ∈ t.queue, e.zone = z → s.zones[z].authority.holder = some e.poster → a.holder = some e.poster

theorem entriesGone_of_kept {s t : State} {z : ZoneId} {a : Authority} (h : a.holder = s.zones[z].authority.holder) :
    EntriesGone s t z a := fun _ _ _ he => h.trans he

theorem entriesGone_of_filter {s t : State} {z : ZoneId} {a : Authority} {m : Master}
    (hm : s.zones[z].authority.holder = some m) (hq : t.queue.Sublist (s.queue.filter fun e => !Entry.isOf m z e)) :
    EntriesGone s t z a := by
  intro e he hz hh
  have hp : m = e.poster := Option.some.inj (hm.symm.trans hh)
  have := (List.mem_filter.mp (hq.subset he)).2
  simp [Entry.isOf, hz, hp] at this

/-! ### The effects -/

/-- What one command other than a reset and the advance of the count can do, but for ports and turn, with the guards
under which it does it. -/
inductive Effect (s : State) : State → Prop
  | follow (t : State) (follows : Follows s t) : Effect s t
  | move (z : ZoneId) (a : Authority) (v : Value) (t : State) (change : Change s z a v)
    (follows : Follows (s.setAuthority z a v) t) (gone : EntriesGone s t z a) : Effect s t
  | acknowledge (m : Master) (named : FlagSet) (here : s.sessions[m].standing ≠ .detached) :
    Effect s (s.acknowledge m named)
  | setEnables (m : Master) (enables : FlagSet) (mask : InputSet) (here : s.sessions[m].standing ≠ .detached) :
    Effect s (s.setEnables m enables mask)
  | readCaptures (m : Master) (cursor : Serial) (n : Nat) (here : s.sessions[m].standing = .attached cursor) :
    Effect s (s.readCaptures m cursor n).state
  | readZoneChanges (m : Master) : Effect s (s.withChangeSet m 0)
  | attach (m : Master) (mode : Mode) (period : Period) (away : s.isAttached m = false)
    (awake : s.sessions[m].standing.isParked = false) (policy : s.policyRefuses m mode = false)
    (service : ¬ s.device.outOfService) : Effect s (s.attach m mode period)
  | detach (m : Master) (here : s.sessions[m].standing ≠ .detached) : Effect s (s.detach m)
  | park (m : Master) (here : s.isAttached m = true) (free : s.parkRefusal m = none) : Effect s (s.park m)
  | unpark (m : Master) (k : Serial) (parked : s.sessions[m].standing = .parked k) : Effect s (s.unpark m k)
  | revoke (m : Master) (reason : RevokeReason) (here : s.isAttached m = true) : Effect s (s.revoke m reason)
  | strike (m : Master) (here : s.isAttached m = true) : Effect s (s.recordStrike m)
  | expire (m : Master) (since : TimeCount) (here : s.isAttached m = true)
    (timer : s.sessions[m].timer = .running since) :
    Effect s ((s.recordStrike m).withTimer m (.running s.timeCount))
  | renewOpen (m : Master) (since : TimeCount) (here : s.isAttached m = true)
    (timer : s.sessions[m].timer = .opened since) : Effect s (s.withTimer m (.closed s.timeCount))
  | renewRunning (m : Master) (since : TimeCount) (here : s.isAttached m = true)
    (timer : s.sessions[m].timer = .running since) : Effect s (s.withTimer m (.running s.timeCount))
  | windowOpen (m : Master) (since : TimeCount) (timer : s.sessions[m].timer = .closed since) :
    Effect s (s.withTimer m (.opened since))
  | supervise (m : Master) (mode : Mode) (period : Period) (here : s.isAttached m = true)
    (policy : s.policyRefuses m mode = false) : Effect s (s.supervise m mode period)
  | setOutput (z : ZoneId) (m : Master) (v : Value) (holds : s.zones[z].authority.holder = some m)
    (clear : s.zones[z].inhibit = 0) : Effect s (s.setCommanded z v)
  | sense (z : ZoneId) (v : Value) : Effect s (s.sensedChange z v)
  | due : Effect s s.dueEvent
  | post (e : Entry) (holds : s.holds e.poster e.zone = true) (free : s.postRefusal e.poster e.due = none) :
    Effect s (s.post e)
  | writeSteps (m : Master) (first : Nat) (records : List Step)
    (linked : ∀ r ∈ records, r.link.isSome = true → r.delay ≠ 0) : Effect s (s.writeSteps m first records)
  | sample (i : InputId) (level : Level) : Effect s (s.sampleInput i level)
  | establish (i : InputId) (level : Level) (progress : Option (Level × TimeCount))
    (live : s.inputs[i].live = .establishing progress) : Effect s ((s.recognise i level).refresh i)
  | change (i : InputId) (level recognised : Level) (progress : Option TimeCount)
    (live : s.inputs[i].live = .tracking recognised progress) : Effect s (s.recogniseChange i level)
  | writeZoneConfig (z : ZoneId) (c : ZoneConfig) (vacant : s.zones[z].authority = .vacant) (range : c.InRange) :
    Effect s (s.writeZoneConfig z c)
  | writeInputConfig (i : InputId) (c : InputConfig) (service : ¬ s.device.outOfService) :
    Effect s (s.writeInputConfig i c)
  | writePolicy (m : Master) (mode : Mode) : Effect s (s.withStrictness m mode)
  | commit (m : Master) (device : s.device = .commissioning) : Effect s (s.commit m)
  | storeFailed (m : Master) (image : List Byte) (device : s.device = .storing m image) :
    Effect s ((s.withDevice .commissioning).signal m .storeFailed)
  | startUp (device : s.device = .starting) : Effect s s.startUp

theorem Effect.idle (s : State) : Effect s s := .follow s (.refl s)

/-! ### The effects on a zone's authority -/

theorem claim_effect {s : State} {z : ZoneId} {m : Master} (fit : s.eligible m z = true)
    (free : s.zones[z].authority = .vacant) : Effect s (s.claim z m) :=
  .move z _ _ _ (.claim m fit free) (.refl _) fun _ _ _ h => by rw [free] at h; cases h

theorem releaseHeld_effect {s : State} {z : ZoneId} {m : Master} (held : s.zones[z].authority = .held m) :
    Effect s (s.releaseHeld z m) :=
  .move z _ _ _ (.release m held) (removeEntries_follows _ _)
    (entriesGone_of_filter (m := m) (by rw [held]; rfl) (by simp [State.releaseHeld]))

theorem tellGranted_follows (s : State) (z : ZoneId) (m : Master) (o : HandoverOutcome) (c : GrantCause) :
    Follows s (s.tellGranted z m o c) :=
  (signal_follows s m _ fun _ h => by cases h).trans (signal_follows _ m _ fun _ h => by cases h)

theorem releaseTransfer_effect {s : State} {z : ZoneId} {m : Master} {p : Pending}
    (asked : s.zones[z].authority = .transfer m p) : Effect s (s.releaseTransfer z m p.requester) :=
  .move z _ _ _ (.handOver m p asked) ((removeEntries_follows _ _).trans (tellGranted_follows _ _ _ _ _))
    (entriesGone_of_filter (m := m) (by rw [asked]; rfl) (by simp [State.releaseTransfer]))

theorem yieldZone_effect {s : State} {z : ZoneId} {m : Master} {p : Pending}
    (asked : s.zones[z].authority = .transfer m p) : Effect s (s.yieldZone z m p.requester) :=
  .move z _ _ _ (.handOver m p asked) ((dropEntries_follows _ _).trans (tellGranted_follows _ _ _ _ _))
    (entriesGone_of_filter (m := m) (by rw [asked]; rfl) (by simp [State.yieldZone]))

theorem preempt_effect {s : State} {z : ZoneId} {m : Master} {p : Pending}
    (asked : s.zones[z].authority = .transfer m p) : Effect s (s.preempt z m p.requester) :=
  .move z _ _ _ (.handOver m p asked)
    (((dropEntries_follows _ _).trans (tellGranted_follows _ _ _ _ _)).trans
      (signal_follows _ _ _ fun _ h => by cases h))
    (entriesGone_of_filter (m := m) (by rw [asked]; rfl) (by simp [State.preempt]))

theorem refuseRequest_effect {s : State} {z : ZoneId} {h : Master} {p : Pending}
    (asked : s.zones[z].authority = .transfer h p) : Effect s (s.refuseRequest z h p.requester) :=
  .move z _ _ _ (.keep h p asked) (signal_follows _ _ _ fun _ h => by cases h)
    (entriesGone_of_kept (by rw [asked]; rfl))

theorem withdraw_effect {s : State} {z : ZoneId} {h : Master} {p : Pending}
    (asked : s.zones[z].authority = .transfer h p) : Effect s (s.withdraw z h p.requester) :=
  .move z _ _ _ (.keep h p asked) (signal_follows _ _ _ fun _ h => by cases h)
    (entriesGone_of_kept (by rw [asked]; rfl))

theorem timeOutRequest_effect {s : State} {z : ZoneId} {h : Master} {p : Pending}
    (asked : s.zones[z].authority = .transfer h p) : Effect s (s.timeOutRequest z h p.requester) :=
  .move z _ _ _ (.keep h p asked)
    ((signal_follows _ _ _ fun _ h => by cases h).trans (signal_follows _ _ _ fun _ h => by cases h))
    (entriesGone_of_kept (by rw [asked]; rfl))

theorem requestHandover_effect {s : State} {z : ZoneId} {h m : Master} (fit : s.eligible m z = true)
    (held : s.zones[z].authority = .held h) (other : h ≠ m) : Effect s (s.requestHandover z h m) :=
  .move z _ _ _ (.ask h ⟨m, s.timeCount, s.config.zones[z].handoverTimeout⟩ held fit (fun x => other x.symm) rfl)
    (signal_follows _ _ _ fun _ h => by cases h) (entriesGone_of_kept (by rw [held]; rfl))

theorem grant_effect {s : State} {z : ZoneId} {c : Candidate} (settling : s.zones[z].authority = .settling c) :
    Effect s (s.grant z c.master) :=
  .move z _ _ _ (.grant c settling) (signal_follows _ _ _ fun _ h => by cases h)
    fun _ _ _ h => by rw [settling] at h; cases h

theorem clearFault_effect {s : State} {z : ZoneId} (faulted : s.zones[z].authority = .faulted) :
    Effect s (s.clearFault z) :=
  .move z _ _ _ (.clear faulted) (.refl _) fun _ _ _ h => by rw [faulted] at h; cases h

theorem faultFor_follows (z : ZoneId) (s : State) (m : Master) : Follows s (State.faultFor z s m) := by
  unfold State.faultFor
  split
  · exact signal_follows s m _ fun _ h => by cases h
  · exact .refl s

theorem faultHolder_follows (s : State) (z : ZoneId) (o : Option Master) : Follows s (s.faultHolder z o) := by
  cases o with
  | none => exact .refl s
  | some h => exact (dropEntries_follows s _).trans (signal_follows _ _ _ fun _ h => by cases h)

theorem faultRequester_follows (s : State) (z : ZoneId) (o : Option Pending) : Follows s (s.faultRequester z o) := by
  cases o with
  | none => exact .refl s
  | some p => exact signal_follows _ _ _ fun _ h => by cases h

theorem faultZone_follows (s : State) (z : ZoneId) : Follows (s.setAuthority z .faulted (s.fallback z)) (s.faultZone z) :=
  ((faultHolder_follows _ z _).trans (faultRequester_follows _ z _)).trans (.fold (faultFor_follows z) _ _)

theorem faultZone_gone (s : State) (z : ZoneId) : EntriesGone s (s.faultZone z) z .faulted := by
  intro e he hz hh
  refine entriesGone_of_filter (t := s.faultZone z) (a := .faulted) hh ?_ e he hz hh
  have h1 : Follows ((s.setAuthority z .faulted (s.fallback z)).faultHolder z s.zones[z].authority.holder)
      (s.faultZone z) := (faultRequester_follows _ z _).trans (.fold (faultFor_follows z) _ _)
  have h2 := h1.queue
  rw [hh] at h2
  simpa [State.faultHolder] using h2

theorem faultZone_effect {s : State} {z : ZoneId} (expired : s.checkExpired z = true) : Effect s (s.faultZone z) :=
  .move z _ _ _ (.fault expired) (faultZone_follows s z) (faultZone_gone s z)

/-! ### The effects of the requests -/

theorem onZone_effect {s : State} {b : Byte} {k : ZoneId → Answer} (h : ∀ z, zoneOf b = some z → Effect s (k z).state) :
    Effect s (s.onZone b k).state := by
  cases hz : zoneOf b with
  | none => rw [s.onZone_of_none k hz]; exact .idle s
  | some z => rw [s.onZone_of_some k hz]; exact h z hz

theorem configurable_effect {s : State} {k : Unit → Answer} (h : s.device.writeRefusal = none → Effect s (k ()).state) :
    Effect s (s.configurable k).state := by
  unfold State.configurable
  cases hd : s.device.writeRefusal with
  | some st => exact .idle s
  | none => exact h hd

theorem reply_effect {s t : State} {p : List Byte} (h : Effect s t) : Effect s (t.reply p).state := h

theorem eligible_iff {s : State} {m : Master} {z : ZoneId} :
    s.eligible m z = true ↔ s.isAttached m = true ∧ s.sessions[m].strike = false ∧ s.permits z m = true := by
  unfold State.eligible
  cases s.isAttached m <;> cases s.sessions[m].strike <;> cases s.permits z m <;> simp

theorem attachAnswer_effect {s : State} {m : Master} {o : List Byte} (h : s.serves m .attach o) :
    Effect s (attachAnswer m o s).state := by
  have hs := serves_inService h (by decide)
  unfold attachAnswer
  split
  next mode period =>
    split
    next => exact .idle s
    next hn =>
      rw [Bool.or_eq_true, not_or, Bool.not_eq_true, Bool.not_eq_true] at hn
      split
      next => exact .idle s
      next => exact .idle s
      next mo pe _ _ =>
        split
        next => exact .idle s
        next hp => exact reply_effect (.attach m mo pe hn.1 hn.2 (by simpa using hp) hs)
  next => exact .idle s

theorem detachAnswer_effect (s : State) (m : Master) (o : List Byte) : Effect s (detachAnswer m o s).state := by
  unfold detachAnswer
  split
  next => exact .idle s
  next h => exact reply_effect (.detach m fun hd => h hd)

theorem parkAnswer_effect {s : State} {m : Master} {o : List Byte} (h : s.serves m .park o) :
    Effect s (parkAnswer m o s).state := by
  unfold parkAnswer
  cases hp : s.parkRefusal m with
  | some st => exact .idle s
  | none =>
    refine reply_effect (.park m ((serves_park_standing h).resolve_right fun hk => ?_) hp)
    simp only [State.parkRefusal, hk, if_true, reduceCtorEq] at hp

theorem unparkAnswer_effect (s : State) (m : Master) (o : List Byte) : Effect s (unparkAnswer m o s).state := by
  unfold unparkAnswer
  split
  next k hk => exact reply_effect (.unpark m k hk)
  next => exact .idle s

theorem renewAnswer_effect {s : State} {m : Master} {o : List Byte} (h : s.serves m .renew o) :
    Effect s (renewAnswer m o s).state := by
  have ha := serves_attached h rfl
  change Effect s (s.renew m)
  unfold State.renew
  cases ht : s.sessions[m].timer with
  | stopped => exact .idle s
  | running since => exact .renewRunning m since ha ht
  | closed since => exact .revoke m .earlyRenewal ha
  | opened since => exact .renewOpen m since ha ht

theorem superviseAnswer_effect {s : State} {m : Master} {o : List Byte} (h : s.serves m .supervise o) :
    Effect s (superviseAnswer m o s).state := by
  have ha := serves_attached h rfl
  unfold superviseAnswer
  split
  next =>
    split
    next => exact .idle s
    next => exact .idle s
    next mo pe _ _ =>
      split
      next => exact .idle s
      next hp =>
        split
        next =>
          change Effect s (s.protectionFailure m)
          unfold State.protectionFailure
          split
          next => exact .revoke m .reconfigure ha
          next => exact .strike m ha
        next => exact reply_effect (.supervise m mo pe ha (by simpa using hp))
  next => exact .idle s

theorem claimAnswer_effect {s : State} {m : Master} {o : List Byte} (h : s.serves m .claim o) :
    Effect s (claimAnswer m o s).state := by
  have ha := serves_attached h rfl
  unfold claimAnswer
  split
  next =>
    split
    next => exact .idle s
    next =>
      refine onZone_effect fun z _ => ?_
      split
      next => exact .idle s
      next hp =>
        split
        next => exact .idle s
        next hk =>
          split
          next => exact .idle s
          next => exact .idle s
          next => exact .idle s
          next => exact .idle s
          next => split <;> exact .idle s
          next hv => exact reply_effect (claim_effect (eligible_iff.mpr ⟨ha, by simpa using hk, by simpa using hp⟩) hv)
  next => exact .idle s

theorem holder_cases {a : Authority} {m : Master} (h : a.holder = some m) :
    a = .held m ∧ a.request = none ∨ ∃ p, a = .transfer m p ∧ a.request = some p := by
  cases a with
  | held k => obtain rfl : k = m := Option.some.inj h; exact .inl ⟨rfl, rfl⟩
  | transfer k p => obtain rfl : k = m := Option.some.inj h; exact .inr ⟨p, rfl, rfl⟩
  | _ => cases h

theorem releaseAnswer_effect (s : State) (m : Master) (o : List Byte) : Effect s (releaseAnswer m o s).state := by
  unfold releaseAnswer
  split
  next =>
    refine onZone_effect fun z _ => ?_
    split
    next => exact .idle s
    next hh =>
      have hm : s.zones[z].authority.holder = some m := by simpa [State.holds] using hh
      obtain ⟨ha, hr⟩ | ⟨p, ha, hr⟩ := holder_cases hm
      · simp only [hr, State.reply_state]
        exact releaseHeld_effect ha
      · simp only [hr, State.reply_state]
        exact releaseTransfer_effect ha
  next => exact .idle s

theorem setOutputAnswer_effect (s : State) (m : Master) (o : List Byte) : Effect s (setOutputAnswer m o s).state := by
  unfold setOutputAnswer
  split
  next =>
    refine onZone_effect fun z _ => ?_
    split
    next => exact .idle s
    next v _ =>
      split
      next => exact .idle s
      next hh =>
        split
        next => exact .idle s
        next hi => exact reply_effect (.setOutput z m v (by simpa [State.holds] using hh) (by simpa using hi))
  next => exact .idle s

theorem readZoneAnswer_effect (s : State) (m : Master) (o : List Byte) : Effect s (readZoneAnswer m o s).state := by
  unfold readZoneAnswer
  split
  next => exact onZone_effect fun z _ => .idle s
  next => exact .idle s

theorem clearFaultAnswer_effect (s : State) (m : Master) (o : List Byte) : Effect s (clearFaultAnswer m o s).state := by
  unfold clearFaultAnswer
  split
  next =>
    refine onZone_effect fun z _ => ?_
    split
    next => exact .idle s
    next =>
      split
      next hf => exact reply_effect (clearFault_effect hf)
      next => exact .idle s
  next => exact .idle s

theorem requestHandoverAnswer_effect {s : State} {m : Master} {o : List Byte} (h : s.serves m .requestHandover o) :
    Effect s (requestHandoverAnswer m o s).state := by
  have ha := serves_attached h rfl
  unfold requestHandoverAnswer
  split
  next =>
    split
    next => exact .idle s
    next =>
      refine onZone_effect fun z _ => ?_
      split
      next => exact .idle s
      next hp =>
        split
        next => exact .idle s
        next hk =>
          split
          next => exact .idle s
          next => exact .idle s
          next => exact .idle s
          next => exact .idle s
          next => exact .idle s
          next k hz =>
            split
            next => exact .idle s
            next hne =>
              exact reply_effect
                (requestHandover_effect (eligible_iff.mpr ⟨ha, by simpa using hk, by simpa using hp⟩) hz hne)
  next => exact .idle s

/-- YIELD and REFUSE are taken at a zone in TRANSFER alone, from its holder and for its requester (R51). -/
theorem answering_effect {s : State} {m : Master} {o : List Byte} {k : ZoneId → Master → Answer}
    (h : ∀ z p, s.zones[z].authority = .transfer m p → Effect s (k z p.requester).state) :
    Effect s (answering m o s k).state := by
  unfold answering
  split
  next =>
    refine onZone_effect fun z _ => ?_
    split
    next => exact .idle s
    next r _ =>
      split
      next h' p hz =>
        split
        next => exact .idle s
        next hr =>
          split
          next => exact .idle s
          next hm =>
            obtain rfl : h' = m := by simpa using hm
            obtain rfl : p.requester = r := by simpa using hr
            exact h z p hz
      next => exact .idle s
  next => exact .idle s

theorem withdrawAnswer_effect (s : State) (m : Master) (o : List Byte) : Effect s (withdrawAnswer m o s).state := by
  unfold withdrawAnswer
  split
  next =>
    refine onZone_effect fun z _ => ?_
    split
    next h p hz =>
      split
      next hp => subst hp; exact reply_effect (withdraw_effect hz)
      next => exact .idle s
    next => exact .idle s
  next => exact .idle s

theorem postActionAnswer_effect (s : State) (m : Master) (o : List Byte) : Effect s (postActionAnswer m o s).state := by
  unfold postActionAnswer
  split
  next =>
    refine onZone_effect fun z _ => ?_
    split
    next => exact .idle s
    next hh =>
      split
      next => exact .idle s
      next =>
        split
        next => exact .idle s
        next hr => exact reply_effect (.post ⟨m, z, _, _, _⟩ (by simpa using hh) hr)
  next => exact .idle s

theorem postSequenceAnswer_effect (s : State) (m : Master) (o : List Byte) :
    Effect s (postSequenceAnswer m o s).state := by
  unfold postSequenceAnswer
  split
  next =>
    refine onZone_effect fun z _ => ?_
    split
    next => exact .idle s
    next hh =>
      split
      next => exact .idle s
      next =>
        split
        next => exact .idle s
        next hr => exact reply_effect (.post ⟨m, z, _, _, _⟩ (by simpa using hh) hr)
  next => exact .idle s

theorem cancel_effect (s : State) (m : Master) (p : Entry → Bool) : Effect s (s.cancel m p).state := by
  rw [State.cancel_state]
  exact .follow _ (removeEntries_follows s p)

theorem cancelTagAnswer_effect (s : State) (m : Master) (o : List Byte) : Effect s (cancelTagAnswer m o s).state := by
  unfold cancelTagAnswer
  split
  next => exact cancel_effect s m _
  next => exact .idle s

theorem cancelZoneAnswer_effect (s : State) (m : Master) (o : List Byte) : Effect s (cancelZoneAnswer m o s).state := by
  unfold cancelZoneAnswer
  split
  next => exact onZone_effect fun z _ => cancel_effect s m _
  next => exact .idle s

theorem readQueueAnswer_effect (s : State) (m : Master) (o : List Byte) : Effect s (readQueueAnswer m o s).state := by
  unfold readQueueAnswer
  split
  next => split <;> exact .idle s
  next => exact .idle s

/-- A linked step record has a delay (R108, check 6). -/
theorem stepOf_linked {vn link d2 d1 d0 : Byte} {r : Step} (h : stepOf vn link d2 d1 d0 = some r)
    (hl : r.link.isSome = true) : r.delay ≠ 0 := by
  unfold stepOf at h
  split at h
  next v l _ _ =>
    dsimp only at h
    split at h
    next => cases h
    next hn =>
      obtain rfl := Option.some.inj h
      exact fun hd => hn ⟨hl, hd⟩
  next => cases h

theorem stepsOf_linked {b : List Byte} {records : List Step} (h : stepsOf b = some records) :
    ∀ r ∈ records, r.link.isSome = true → r.delay ≠ 0 := by
  fun_induction stepsOf b generalizing records with
  | case1 => cases h; simp
  | case2 vn link d2 d1 d0 rest r rs hrs hr ih =>
    obtain rfl := Option.some.inj h
    intro x hx
    obtain rfl | hx := List.mem_cons.mp hx
    · exact stepOf_linked hr
    · exact ih hrs x hx
  | case3 => cases h
  | case4 => cases h

theorem writeStepsAnswer_effect (s : State) (m : Master) (o : List Byte) : Effect s (writeStepsAnswer m o s).state := by
  unfold writeStepsAnswer
  split
  next =>
    split
    next => exact .idle s
    next =>
      split
      next => exact .idle s
      next records hr =>
        split
        next => exact .idle s
        next => exact reply_effect (.writeSteps m _ records (stepsOf_linked hr))
  next => exact .idle s

theorem readStepsAnswer_effect (s : State) (m : Master) (o : List Byte) : Effect s (readStepsAnswer m o s).state := by
  unfold readStepsAnswer
  split
  next => split <;> exact .idle s
  next => exact .idle s

theorem standing_of_cursor {st : Standing} {c : Serial} (h : st.cursor = some c) : st = .attached c := by
  cases st with
  | attached k => exact congrArg _ (Option.some.inj h)
  | _ => cases h

theorem readCapturesAnswer_effect (s : State) (m : Master) (o : List Byte) :
    Effect s (readCapturesAnswer m o s).state := by
  unfold readCapturesAnswer
  split
  next n =>
    split
    next => exact .idle s
    next =>
      split
      next c hc => exact .readCaptures m c n.toNat (standing_of_cursor hc)
      next => exact .idle s
  next => exact .idle s

theorem acknowledgeAnswer_effect {s : State} {m : Master} {o : List Byte} (h : s.serves m .acknowledge o) :
    Effect s (acknowledgeAnswer m o s).state := by
  unfold acknowledgeAnswer
  split
  next =>
    split
    next => exact .idle s
    next named _ => exact reply_effect (.acknowledge m named (serves_notDetached h rfl))
  next => exact .idle s

theorem setEnablesAnswer_effect {s : State} {m : Master} {o : List Byte} (h : s.serves m .setEnables o) :
    Effect s (setEnablesAnswer m o s).state := by
  unfold setEnablesAnswer
  split
  next mask =>
    split
    next => exact .idle s
    next en _ => exact reply_effect (.setEnables m en mask (serves_notDetached h rfl))
  next => exact .idle s

theorem readConfigAnswer_effect (s : State) (m : Master) (o : List Byte) : Effect s (readConfigAnswer m o s).state := by
  unfold readConfigAnswer
  split
  next => split <;> exact .idle s
  next => exact .idle s

/-- The ten bytes of a zone's configuration spell one in range alone (R177, check 4). -/
theorem zoneConfigOf_inRange {b : List Byte} {c : ZoneConfig} (h : zoneConfigOf b = some c) : c.InRange := by
  unfold zoneConfigOf at h
  split at h
  next =>
    split at h
    next =>
      dsimp only at h
      split at h
      next hr =>
        obtain rfl := Option.some.inj h
        exact hr.2
      next => cases h
    next => cases h
  next => cases h

theorem writeZoneConfigAnswer_effect (s : State) (m : Master) (o : List Byte) :
    Effect s (writeZoneConfigAnswer m o s).state := by
  refine configurable_effect fun _ => ?_
  split
  next =>
    refine onZone_effect fun z _ => ?_
    split
    next hv =>
      split
      next c hc => exact reply_effect (.writeZoneConfig z c hv (zoneConfigOf_inRange hc))
      next => exact .idle s
    next => exact .idle s
  next => exact .idle s

theorem writeInputConfigAnswer_effect {s : State} {m : Master} {o : List Byte} (h : s.serves m .writeInputConfig o) :
    Effect s (writeInputConfigAnswer m o s).state := by
  refine configurable_effect fun _ => ?_
  split
  next =>
    split
    next i c _ _ => exact reply_effect (.writeInputConfig i c (serves_inService h (by decide)))
    next => exact .idle s
  next => exact .idle s

theorem writeMasterPolicyAnswer_effect (s : State) (m : Master) (o : List Byte) :
    Effect s (writeMasterPolicyAnswer m o s).state := by
  refine configurable_effect fun _ => ?_
  split
  next =>
    split
    next => exact .idle s
    next n _ =>
      split
      next => exact .idle s
      next mode _ => exact reply_effect (.writePolicy n mode)
  next => exact .idle s

theorem commitAnswer_effect {s : State} {m : Master} {o : List Byte} (h : s.serves m .commit o) :
    Effect s (commitAnswer m o s).state := by
  refine configurable_effect fun hd => ?_
  split
  next =>
    refine reply_effect (.commit m ?_)
    have hs := serves_inService h (by decide)
    cases hv : s.device with
    | commissioning => rfl
    | starting => rw [hv] at hs; exact absurd trivial hs
    | halted => rw [hv] at hs; exact absurd trivial hs
    | operational => rw [hv] at hd; cases hd
    | storing k image => rw [hv] at hd; cases hd
  next => exact .idle s

/-- Every request that is served makes one effect. -/
theorem answerOf_effect {s : State} {m : Master} {c : Command} {o : List Byte} (h : s.serves m c o) :
    Effect s (answerOf c m o s).state := by
  cases c with
  | attach => exact attachAnswer_effect h
  | detach => exact detachAnswer_effect s m o
  | park => exact parkAnswer_effect h
  | unpark => exact unparkAnswer_effect s m o
  | renew => exact renewAnswer_effect h
  | supervise => exact superviseAnswer_effect h
  | claim => exact claimAnswer_effect h
  | release => exact releaseAnswer_effect s m o
  | setOutput => exact setOutputAnswer_effect s m o
  | readZone => exact readZoneAnswer_effect s m o
  | readZoneChanges => exact .readZoneChanges m
  | clearFault => exact clearFaultAnswer_effect s m o
  | requestHandover => exact requestHandoverAnswer_effect h
  | withdraw => exact withdrawAnswer_effect s m o
  | yield => exact answering_effect fun z p hz => reply_effect (yieldZone_effect hz)
  | refuse => exact answering_effect fun z p hz => reply_effect (refuseRequest_effect hz)
  | postAction => exact postActionAnswer_effect s m o
  | postSequence => exact postSequenceAnswer_effect s m o
  | cancelTag => exact cancelTagAnswer_effect s m o
  | cancelZone => exact cancelZoneAnswer_effect s m o
  | readQueue => exact readQueueAnswer_effect s m o
  | writeSteps => exact writeStepsAnswer_effect s m o
  | readSteps => exact readStepsAnswer_effect s m o
  | readCaptures => exact readCapturesAnswer_effect s m o
  | acknowledge => exact acknowledgeAnswer_effect h
  | setEnables => exact setEnablesAnswer_effect h
  | readConfig => exact readConfigAnswer_effect s m o
  | writeZoneConfig => exact writeZoneConfigAnswer_effect s m o
  | writeInputConfig => exact writeInputConfigAnswer_effect h
  | writeMasterPolicy => exact writeMasterPolicyAnswer_effect s m o
  | commit => exact commitAnswer_effect h
  | nop => exact .idle s
  | status => exact .idle s
  | readTime => exact .idle s
  | readInputs => exact .idle s
  | readFlags => exact .idle s

/-! ### The effects of the part's own events -/

theorem supervisionExpiry_effect (s : State) (m : Master) : Effect s (s.supervisionExpiry m) := by
  unfold State.supervisionExpiry
  split
  next hd =>
    have ha : s.isAttached m = true := (Bool.and_eq_true_iff.mp hd).1
    unfold State.supervisionFailure
    cases ht : s.sessions[m].timer with
    | stopped => exact .idle s
    | closed since => exact .revoke m .expiry ha
    | opened since => exact .revoke m .expiry ha
    | running since =>
      dsimp only
      split
      next => exact .revoke m .secondExpiry ha
      next => exact .expire m since ha ht
  next => exact .idle s

theorem windowOpen_effect (s : State) (m : Master) : Effect s (s.windowOpen m) := by
  unfold State.windowOpen
  split
  next since ht =>
    split
    next => exact .windowOpen m since ht
    next => exact .idle s
  next => exact .idle s

theorem handoverTimeout_effect (s : State) (z : ZoneId) : Effect s (s.handoverTimeout z) := by
  unfold State.handoverTimeout
  split
  next h p hz =>
    split
    next =>
      split
      next => exact preempt_effect hz
      next => exact timeOutRequest_effect hz
    next => exact .idle s
  next => exact .idle s

theorem settleExpiry_effect (s : State) (z : ZoneId) : Effect s (s.settleExpiry z) := by
  unfold State.settleExpiry
  split
  next c hz =>
    split
    next => exact grant_effect hz
    next => exact .idle s
  next => exact .idle s

theorem checkExpiry_effect (s : State) (z : ZoneId) : Effect s (s.checkExpiry z) := by
  unfold State.checkExpiry
  split
  next h => exact faultZone_effect h
  next => exact .idle s

/-- A sample of a live input leaves it in the same live state, but for the filter's progress (R135, R137). -/
theorem sample_establishing {now : TimeCount} {level : Level} {l : InputLive} {p : Option (Level × TimeCount)}
    (h : l.sample now level = .establishing p) : ∃ q, l = .establishing q := by
  unfold InputLive.sample at h
  split at h
  · cases h
  · exact ⟨_, rfl⟩
  · exact ⟨_, rfl⟩
  · split at h <;> cases h
  · split at h <;> cases h

theorem sample_tracking {now : TimeCount} {level r : Level} {l : InputLive} {p : Option TimeCount}
    (h : l.sample now level = .tracking r p) : ∃ q, l = .tracking r q := by
  unfold InputLive.sample at h
  split at h
  · cases h
  · cases h
  · split at h <;> cases h
  · split at h <;> (cases h; exact ⟨_, rfl⟩)
  · split at h <;> (cases h; exact ⟨_, rfl⟩)

theorem firstRecognition_effect (s : State) (i : InputId) : Effect s (s.firstRecognition i) := by
  unfold State.firstRecognition
  split
  next level t hl =>
    split
    next =>
      obtain ⟨q, hq⟩ := sample_establishing hl
      exact .establish i level q hq
    next => exact .idle s
  next => exact .idle s

theorem recognisedChange_effect (s : State) (i : InputId) : Effect s (s.recognisedChange i) := by
  unfold State.recognisedChange
  split
  next r t hl =>
    split
    next =>
      obtain ⟨q, hq⟩ := sample_tracking hl
      exact .change i (Level.other r) r q hq
    next => exact .idle s
  next => exact .idle s

theorem startUp_effect (s : State) : Effect s s.startUp := by
  cases hd : s.device with
  | starting => exact .startUp hd
  | _ =>
    have hk : s.startUp = s := by unfold State.startUp; rw [hd]
    rw [hk]; exact .idle s

theorem transactionBegin_onlyAnswered (s : State) (p : Master) : OnlyAnswered s (s.transactionBegin p) := by
  unfold State.transactionBegin
  split <;> rfl

theorem arrive_onlyAnswered (s : State) (p : Master) : OnlyAnswered s (s.arrive p) := by
  unfold State.arrive
  split <;> rfl

theorem transactionEnd_onlyAnswered (s : State) (p : Master) (received : List Byte) (strayBits : Nat) :
    OnlyAnswered s (s.transactionEnd p received strayBits) := by
  unfold State.transactionEnd
  split
  next =>
    dsimp only
    split
    next => unfold State.arrive; split <;> rfl
    next => rfl
  next => rfl

/-! ### Every command -/

/-- Every request row changes nothing, or makes one effect and answers. -/
theorem exec_row_effect {c : Command} {m : Master} {o : List Byte} {s t : State} (h : exec (c.row m o) s = .next t) :
    ∃ u, Effect s u ∧ OnlyAnswered u t := by
  rw [exec_row] at h
  by_cases hr : s.ready m c o = true
  · cases hg : s.gate m c o with
    | some st =>
      rw [serve_gated _ hr hg] at h
      cases h
      exact ⟨s, .idle s, finish_onlyAnswered c m _⟩
    | none =>
      rw [serve_taken _ ⟨hr, hg⟩] at h
      cases h
      exact ⟨_, answerOf_effect ⟨hr, hg⟩, finish_onlyAnswered c m _⟩
  · rw [serve_idle _ (by simpa using hr)] at h
    cases h
    exact ⟨s, .idle s, .refl s⟩

/-- The commands that restart the part (R175). -/
def Instr.Resets (c : Instr) : Prop :=
  (∃ cfg, c = .powerOn cfg) ∨ (∃ cfg, c = .resetPin cfg) ∨ ∃ cfg, c = .storeWriteEnd true cfg

/-- What a command does: one effect and an answer, a restart, or the advance of the count. -/
inductive Does (c : Instr) (s t : State) : Prop
  | effect (u : State) (made : Effect s u) (answered : OnlyAnswered u t)
  | restart (u : State) (cause : ResetCause) (cfg : Level) (resets : Instr.Resets c) (restarted : t = u.restart cause cfg)
  | advance (advances : c = .timeCountAdvance) (advanced : t = s.closeSampling.takeDue.tick)

theorem Does.of_effect {c : Instr} {s t : State} (h : Effect s t) : Does c s t := .effect t h (.refl t)

theorem exec_does {c : Instr} {s t : State} (h : exec c s = .next t) : Does c s t := by
  have row : ∀ (k : Command) (m : Master) (o : List Byte), exec (k.row m o) s = .next t → Does c s t := by
    intro k m o hk
    obtain ⟨u, he, ha⟩ := exec_row_effect hk
    exact .effect u he ha
  cases c with
  | transactionBegin p => cases h; exact .effect s (.idle s) (transactionBegin_onlyAnswered s p)
  | transactionEnd p r b => cases h; exact .effect s (.idle s) (transactionEnd_onlyAnswered s p r b)
  | nop m o => exact row .nop m o h
  | status m o => exact row .status m o h
  | attach m o => exact row .attach m o h
  | detach m o => exact row .detach m o h
  | park m o => exact row .park m o h
  | unpark m o => exact row .unpark m o h
  | renew m o => exact row .renew m o h
  | supervise m o => exact row .supervise m o h
  | claim m o => exact row .claim m o h
  | release m o => exact row .release m o h
  | setOutput m o => exact row .setOutput m o h
  | readZone m o => exact row .readZone m o h
  | readZoneChanges m o => exact row .readZoneChanges m o h
  | clearFault m o => exact row .clearFault m o h
  | requestHandover m o => exact row .requestHandover m o h
  | withdraw m o => exact row .withdraw m o h
  | yield m o => exact row .yield m o h
  | refuse m o => exact row .refuse m o h
  | readTime m o => exact row .readTime m o h
  | postAction m o => exact row .postAction m o h
  | postSequence m o => exact row .postSequence m o h
  | cancelTag m o => exact row .cancelTag m o h
  | cancelZone m o => exact row .cancelZone m o h
  | readQueue m o => exact row .readQueue m o h
  | writeSteps m o => exact row .writeSteps m o h
  | readSteps m o => exact row .readSteps m o h
  | readInputs m o => exact row .readInputs m o h
  | readCaptures m o => exact row .readCaptures m o h
  | readFlags m o => exact row .readFlags m o h
  | acknowledge m o => exact row .acknowledge m o h
  | setEnables m o => exact row .setEnables m o h
  | readConfig m o => exact row .readConfig m o h
  | writeZoneConfig m o => exact row .writeZoneConfig m o h
  | writeInputConfig m o => exact row .writeInputConfig m o h
  | writeMasterPolicy m o => exact row .writeMasterPolicy m o h
  | commit m o => exact row .commit m o h
  | storeWriteEnd v cfg =>
    cases h
    unfold State.storeWriteEnd
    cases hd : s.device with
    | storing m image =>
      cases v with
      | false => exact .of_effect (.storeFailed m image hd)
      | true => exact .restart _ _ cfg (.inr (.inr ⟨cfg, rfl⟩)) rfl
    | _ => exact .of_effect (.idle s)
  | powerOn cfg => cases h; exact .restart s _ cfg (.inl ⟨cfg, rfl⟩) rfl
  | resetPin cfg => cases h; exact .restart s _ cfg (.inr (.inl ⟨cfg, rfl⟩)) rfl
  | startUpDecision => cases h; exact .of_effect (startUp_effect s)
  | supervisionExpiry m => cases h; exact .of_effect (supervisionExpiry_effect s m)
  | windowOpen m => cases h; exact .of_effect (windowOpen_effect s m)
  | handoverTimeout z => cases h; exact .of_effect (handoverTimeout_effect s z)
  | settleExpiry z => cases h; exact .of_effect (settleExpiry_effect s z)
  | sensedValueChange z v => cases h; exact .of_effect (.sense z v)
  | readbackCheckExpiry z => cases h; exact .of_effect (checkExpiry_effect s z)
  | dueEvent => cases h; exact .of_effect .due
  | firstRecognition i => cases h; exact .of_effect (firstRecognition_effect s i)
  | recognisedChange i => cases h; exact .of_effect (recognisedChange_effect s i)
  | rawLevelChange i l => cases h; exact .of_effect (.sample i l)
  | timeCountAdvance => exact .advance rfl (Host.Outcome.next.inj h).symm

/-! ### Properties that every effect keeps -/

/-- The property is kept by every effect. -/
def KeptByEffects (P : State → Prop) : Prop := ∀ s t, P s → Effect s t → P t

/-- The property does not look at ports, turn and waiting commands. -/
def OffPorts (P : State → Prop) : Prop :=
  ∀ (s : State) (ports : Vector Port 4) (last : Master) (chosen : Option Master) (pending : List Instr), P s →
    P { s with ports := ports, lastServed := last, chosen := chosen, pending := pending }

theorem KeptByEffects.fold {α : Type} {P : State → Prop} (hP : KeptByEffects P) {f : State → α → State}
    (hf : ∀ s a, Effect s (f s a)) (l : List α) {s : State} (h : P s) : P (l.foldl f s) := by
  induction l generalizing s with
  | nil => exact h
  | cons a l ih => exact ih (hP s _ h (hf s a))

/-- The closing sensing is a sensing of the value that the lines have. -/
theorem closingSense_effect (s : State) (z : ZoneId) : Effect s (s.closingSense z) := .sense z s.zones[z].sensed

theorem KeptByEffects.closeSampling {P : State → Prop} (hP : KeptByEffects P) {s : State} (h : P s) :
    P s.closeSampling :=
  hP.fold closingSense_effect allZones (hP.fold (fun s i => .sample i s.inputs[i].raw) allInputs h)

theorem recogniseDue_effect (s : State) (i : InputId) : Effect s (s.recogniseDue i) := by
  unfold State.recogniseDue
  split
  next => exact firstRecognition_effect s i
  next => exact recognisedChange_effect s i

theorem KeptByEffects.recogniseAll {P : State → Prop} (hP : KeptByEffects P) {s : State} (h : P s) :
    P (allInputs.foldl State.recogniseDue s) :=
  hP.fold recogniseDue_effect allInputs h

theorem KeptByEffects.zoneTimersDue {P : State → Prop} (hP : KeptByEffects P) {s : State} (z : ZoneId) (h : P s) :
    P (s.zoneTimersDue z) :=
  hP _ _ (hP _ _ (hP _ _ h (handoverTimeout_effect s z)) (settleExpiry_effect _ z)) (checkExpiry_effect _ z)

theorem KeptByEffects.masterTimerDue {P : State → Prop} (hP : KeptByEffects P) {s : State} (m : Master) (h : P s) :
    P (s.masterTimerDue m) :=
  hP _ _ (hP _ _ h (windowOpen_effect s m)) (supervisionExpiry_effect _ m)

/-- A fold of any operation that keeps a property keeps it. -/
theorem foldl_preserves {α : Type} {P : State → Prop} {f : State → α → State} (hf : ∀ s a, P s → P (f s a)) (l : List α)
    {s : State} (h : P s) : P (l.foldl f s) := by
  induction l generalizing s with
  | nil => exact h
  | cons a l ih => exact ih (hf s a h)

/-- What follows the due event in the closing of a microsecond: the timers of zones and masters. -/
theorem KeptByEffects.timersDue {P : State → Prop} (hP : KeptByEffects P) {s : State} (h : P s) :
    P (allMasters.foldl State.masterTimerDue (allZones.foldl State.zoneTimersDue s)) :=
  foldl_preserves (fun _ m hs => hP.masterTimerDue m hs) allMasters
    (foldl_preserves (fun _ z hs => hP.zoneTimersDue z hs) allZones h)

theorem KeptByEffects.takeDue {P : State → Prop} (hP : KeptByEffects P) {s : State} (h : P s) : P s.takeDue :=
  hP.timersDue (hP _ _ (hP.recogniseAll h) .due)

/-- An invariant: kept by every effect, met after a reset, kept by the tick, and blind to the ports. -/
theorem step_keeps {P : State → Prop} (effects : KeptByEffects P) (off : OffPorts P)
    (restarts : ∀ s cause cfg, P (State.restart s cause cfg))
    (advance : ∀ s, P s → P s.closeSampling.takeDue.tick) {s t : State} (h : P s) (hs : step s = .next t) : P t := by
  unfold step at hs
  split at hs
  next => cases hs; exact h
  next c rest _ =>
    have hrest : P { s with pending := rest } := off s s.ports s.lastServed s.chosen rest h
    cases exec_does hs with
    | effect u made answered =>
      rw [answered]
      exact off u t.ports t.lastServed t.chosen u.pending (effects _ u hrest made)
    | restart u cause cfg _ restarted => rw [restarted]; exact restarts u cause cfg
    | advance _ advanced => rw [advanced]; exact advance _ hrest

/-- Most invariants do not look at the time count. -/
theorem advance_keeps {P : State → Prop} (effects : KeptByEffects P) (tick : ∀ s, P s → P s.tick) (s : State) (h : P s) :
    P s.closeSampling.takeDue.tick :=
  tick _ (effects.takeDue (effects.closeSampling h))

end Sys2Proof.Machine

/-! PROOFS. The law of the action queue (R90, R91, R107): what the effects do to the queue, to the count and to the step
banks. -/

namespace Sys2Proof.Machine

/-! ### Frames of the operations that have no lemma per field -/

theorem Follows.keeps {β : Type} (g : State → β) (hg : ∀ (u : State) q a, g { u with queue := q, attention := a } = g u)
    {u t : State} (h : Follows u t) : g t = g u := by
  rw [h.frame]
  exact hg u _ _

theorem Follows.timeCount {u t : State} (h : Follows u t) : t.timeCount = u.timeCount := by rw [h.frame]
theorem Follows.banks {u t : State} (h : Follows u t) : t.banks = u.banks := by rw [h.frame]
theorem Follows.zones {u t : State} (h : Follows u t) : t.zones = u.zones := by rw [h.frame]
theorem Follows.changeSets {u t : State} (h : Follows u t) : t.changeSets = u.changeSets := by rw [h.frame]
theorem Follows.inputs {u t : State} (h : Follows u t) : t.inputs = u.inputs := by rw [h.frame]
theorem Follows.ring {u t : State} (h : Follows u t) : t.ring = u.ring := by rw [h.frame]
theorem Follows.nextSerial {u t : State} (h : Follows u t) : t.nextSerial = u.nextSerial := by rw [h.frame]
theorem Follows.config {u t : State} (h : Follows u t) : t.config = u.config := by rw [h.frame]
theorem Follows.device {u t : State} (h : Follows u t) : t.device = u.device := by rw [h.frame]

theorem acknowledge_frame (s : State) (m : Master) (named : FlagSet) :
    s.acknowledge m named =
      { s with attention := (s.acknowledge m named).attention, sessions := (s.acknowledge m named).sessions } := by
  unfold State.acknowledge
  dsimp only
  split <;> rfl

theorem readCaptures_frame (s : State) (m : Master) (c : Serial) (n : Nat) :
    (s.readCaptures m c n).state =
      { s with sessions := (s.readCaptures m c n).state.sessions, ring := (s.readCaptures m c n).state.ring } := by
  unfold State.readCaptures
  ext1 <;> simp

theorem detach_frame (s : State) (m : Master) :
    s.detach m =
      { s with zones := (s.detach m).zones, changeSets := (s.detach m).changeSets, sessions := (s.detach m).sessions,
               attention := (s.detach m).attention, queue := (s.detach m).queue, ring := (s.detach m).ring } := by
  unfold State.detach
  dsimp only
  split <;> ext1 <;> simp

theorem park_frame (s : State) (m : Master) :
    s.park m = { s with sessions := (s.park m).sessions, ring := (s.park m).ring } := by
  unfold State.park
  ext1 <;> simp

theorem unpark_frame (s : State) (m : Master) (k : Serial) :
    s.unpark m k = { s with sessions := (s.unpark m k).sessions, attention := (s.unpark m k).attention } := by
  unfold State.unpark
  dsimp only
  split <;> ext1 <;> simp

theorem revoke_frame (s : State) (m : Master) (reason : RevokeReason) :
    s.revoke m reason =
      { s with zones := (s.revoke m reason).zones, changeSets := (s.revoke m reason).changeSets,
               sessions := (s.revoke m reason).sessions, attention := (s.revoke m reason).attention,
               queue := (s.revoke m reason).queue, ring := (s.revoke m reason).ring } := by
  ext1 <;> simp

theorem recogniseChange_frame (s : State) (i : InputId) (level : Level) :
    s.recogniseChange i level =
      { s with inputs := (s.recogniseChange i level).inputs, zones := (s.recogniseChange i level).zones,
               attention := (s.recogniseChange i level).attention, sessions := (s.recogniseChange i level).sessions,
               ring := (s.recogniseChange i level).ring, nextSerial := (s.recogniseChange i level).nextSerial } := by
  unfold State.recogniseChange
  dsimp only
  split <;> ext1 <;> simp

/-- What no change of authority, no establishing and no refreshing touches, no entry into service touches. -/
theorem enterService_keeps {β : Type} (g : State → β) (lights : ∀ s z a v, g (State.setAuthority s z a v) = g s)
    (establishes : ∀ s i, g (State.establish s i) = g s) (refreshes : ∀ s i, g (State.refresh s i) = g s) (s : State) :
    g s.enterService = g s :=
  (foldl_keeps g _ refreshes _ _).trans
    ((foldl_keeps g _ establishes _ _).trans (foldl_keeps g _ (fun s z => lights s z _ _) _ _))

@[simp] theorem State.enterService_timeCount (s : State) : s.enterService.timeCount = s.timeCount :=
  enterService_keeps State.timeCount (by simp) (by simp) (by simp) s
@[simp] theorem State.enterService_queue (s : State) : s.enterService.queue = s.queue :=
  enterService_keeps State.queue (by simp) (by simp) (by simp) s
@[simp] theorem State.enterService_banks (s : State) : s.enterService.banks = s.banks :=
  enterService_keeps State.banks (by simp) (by simp) (by simp) s
@[simp] theorem State.enterService_lastServed (s : State) : s.enterService.lastServed = s.lastServed :=
  enterService_keeps State.lastServed (by simp) (by simp) (by simp) s
@[simp] theorem State.enterService_chosen (s : State) : s.enterService.chosen = s.chosen :=
  enterService_keeps State.chosen (by simp) (by simp) (by simp) s
@[simp] theorem State.enterService_nextSerial (s : State) : s.enterService.nextSerial = s.nextSerial :=
  enterService_keeps State.nextSerial (by simp) (by simp) (by simp) s
@[simp] theorem State.enterService_ring (s : State) : s.enterService.ring = s.ring :=
  enterService_keeps State.ring (by simp) (by simp) (by simp) s
@[simp] theorem State.enterService_ports (s : State) : s.enterService.ports = s.ports :=
  enterService_keeps State.ports (by simp) (by simp) (by simp) s
@[simp] theorem State.enterService_device (s : State) : s.enterService.device = s.device :=
  enterService_keeps State.device (by simp) (by simp) (by simp) s
@[simp] theorem State.enterService_resetCause (s : State) : s.enterService.resetCause = s.resetCause :=
  enterService_keeps State.resetCause (by simp) (by simp) (by simp) s
@[simp] theorem State.enterService_cfg (s : State) : s.enterService.cfg = s.cfg :=
  enterService_keeps State.cfg (by simp) (by simp) (by simp) s
@[simp] theorem State.enterService_startupStore (s : State) : s.enterService.startupStore = s.startupStore :=
  enterService_keeps State.startupStore (by simp) (by simp) (by simp) s
@[simp] theorem State.enterService_presentStore (s : State) : s.enterService.presentStore = s.presentStore :=
  enterService_keeps State.presentStore (by simp) (by simp) (by simp) s
@[simp] theorem State.enterService_store (s : State) : s.enterService.store = s.store :=
  enterService_keeps State.store (by simp) (by simp) (by simp) s
@[simp] theorem State.enterService_config (s : State) : s.enterService.config = s.config :=
  enterService_keeps State.config (by simp) (by simp) (by simp) s
@[simp] theorem State.enterService_source (s : State) : s.enterService.source = s.source :=
  enterService_keeps State.source (by simp) (by simp) (by simp) s
@[simp] theorem State.enterService_pending (s : State) : s.enterService.pending = s.pending :=
  enterService_keeps State.pending (by simp) (by simp) (by simp) s

/-- The start-up decision in STARTING: HALTED on its record alone, else with zones and inputs in service (R174). -/
theorem startUp_of_starting {s : State} (h : s.device = .starting) :
    s.startUp =
      if (s.withDecision s.store.read).device = .halted then s.withDecision s.store.read
      else (s.withDecision s.store.read).enterService := by
  unfold State.startUp
  rw [h]
  dsimp only
  split
  next hd => rw [if_pos hd]
  next hd => rw [if_neg fun x => hd x]

theorem startUp_of_ne {s : State} (h : s.device ≠ .starting) : s.startUp = s := by
  unfold State.startUp
  split
  · contradiction
  · rfl

/-- What the start-up decision can change. -/
theorem startUp_frame (s : State) :
    s.startUp =
      { s with device := s.startUp.device, config := s.startUp.config, source := s.startUp.source,
               startupStore := s.startUp.startupStore, presentStore := s.startUp.presentStore,
               zones := s.startUp.zones, inputs := s.startUp.inputs, sessions := s.startUp.sessions,
               attention := s.startUp.attention, changeSets := s.startUp.changeSets } := by
  by_cases h : s.device = .starting
  · rw [startUp_of_starting h]
    split
    · rfl
    · ext1 <;> simp [State.withDecision]
  · rw [startUp_of_ne h]

/-! ### The count and the banks -/

/-- Only resets and the advance touch the time count (R86). -/
theorem Effect.timeCount {s t : State} (h : Effect s t) : t.timeCount = s.timeCount := by
  cases h with
  | follow _ f => exact f.timeCount
  | move _ _ _ _ _ f _ => rw [f.timeCount, State.setAuthority_timeCount]
  | acknowledge m named _ => rw [acknowledge_frame]
  | readCaptures m c n _ => rw [readCaptures_frame]
  | detach m _ => rw [detach_frame]
  | park m _ _ => rw [park_frame]
  | unpark m k _ => rw [unpark_frame]
  | revoke m r _ => rw [revoke_frame]
  | change i l _ _ _ => rw [recogniseChange_frame]
  | startUp _ => rw [startUp_frame]
  | _ =>
    simp [State.setEnables, State.attach, State.supervise, State.sensedChange, State.writeSteps, State.writeZoneConfig,
      State.writeInputConfig, State.withStrictness, State.withZoneConfig, State.withInputConfig, State.commit]

/-- Only WRITE STEPS touches the step banks (R109). -/
theorem Effect.banks {s t : State} (h : Effect s t) :
    t.banks = s.banks ∨
      ∃ m first records, (∀ r ∈ records, r.link.isSome = true → r.delay ≠ 0) ∧ t = s.writeSteps m first records := by
  cases h with
  | writeSteps m first records linked => exact .inr ⟨m, first, records, linked, rfl⟩
  | follow _ f => exact .inl f.banks
  | move _ _ _ _ _ f _ => exact .inl (by rw [f.banks, State.setAuthority_banks])
  | acknowledge m named _ => exact .inl (by rw [acknowledge_frame])
  | readCaptures m c n _ => exact .inl (by rw [readCaptures_frame])
  | detach m _ => exact .inl (by rw [detach_frame])
  | park m _ _ => exact .inl (by rw [park_frame])
  | unpark m k _ => exact .inl (by rw [unpark_frame])
  | revoke m r _ => exact .inl (by rw [revoke_frame])
  | change i l _ _ _ => exact .inl (by rw [recogniseChange_frame])
  | startUp _ => exact .inl (by rw [startUp_frame])
  | _ =>
    left
    simp [State.setEnables, State.attach, State.supervise, State.sensedChange, State.writeZoneConfig,
      State.writeInputConfig, State.withStrictness, State.withZoneConfig, State.withInputConfig, State.commit]

/-! ### The queue -/

theorem detach_queue (s : State) (m : Master) :
    (s.detach m).queue = if s.isAttached m then s.queue.filter (fun e => decide (e.poster ≠ m)) else s.queue := by
  unfold State.detach
  dsimp only
  split
  · simp only [State.withSession_queue, State.withChangeSet_queue, State.withAttention_queue, endSession_queue]
  · rfl

theorem revoke_queue (s : State) (m : Master) (reason : RevokeReason) :
    (s.revoke m reason).queue = s.queue.filter (fun e => decide (e.poster ≠ m)) := by
  unfold State.revoke
  simp only [endSession_queue, State.signal_queue, State.withSession_queue]

/-- What an effect other than the due event does to the queue: entries leave it, or one that a post has checked enters
it. -/
theorem Effect.queue {s t : State} (h : Effect s t) :
    t.queue.Sublist s.queue ∨
      (∃ e, s.holds e.poster e.zone = true ∧ s.postRefusal e.poster e.due = none ∧ t = s.post e) ∨ t = s.dueEvent := by
  have same : t.queue = s.queue → t.queue.Sublist s.queue := fun h => by rw [h]
  cases h with
  | due => exact .inr (.inr rfl)
  | post e holds free => exact .inr (.inl ⟨e, holds, free, rfl⟩)
  | follow _ f => exact .inl f.queue
  | move z a v _ _ f _ => exact .inl (by simpa using f.queue)
  | acknowledge m named _ => exact .inl (same (by rw [acknowledge_frame]))
  | readCaptures m c n _ => exact .inl (same (by rw [readCaptures_frame]))
  | detach m _ => exact .inl (by rw [detach_queue]; split; exact List.filter_sublist; exact .refl _)
  | park m _ _ => exact .inl (same (by rw [park_frame]))
  | unpark m k _ => exact .inl (same (by rw [unpark_frame]))
  | revoke m r _ => exact .inl (by rw [revoke_queue]; exact List.filter_sublist)
  | change i l _ _ _ => exact .inl (same (by rw [recogniseChange_frame]))
  | startUp _ => exact .inl (same (by rw [startUp_frame]))
  | _ =>
    refine .inl (same ?_)
    simp [State.setEnables, State.attach, State.supervise, State.sensedChange, State.writeSteps, State.writeZoneConfig,
      State.writeInputConfig, State.withStrictness, State.withZoneConfig, State.withInputConfig, State.commit]

theorem insertEntry_perm (e : Entry) (q : List Entry) : (insertEntry e q).Perm (e :: q) := by
  induction q with
  | nil => exact .refl _
  | cons h t ih =>
    unfold insertEntry
    split
    · exact (ih.cons h).trans (.swap e h t)
    · exact .refl _

theorem insertEntry_sorted (e : Entry) {q : List Entry} (h : q.Pairwise fun a b => a.due ≤ b.due) :
    (insertEntry e q).Pairwise fun a b => a.due ≤ b.due := by
  induction q with
  | nil => exact List.pairwise_singleton _ _
  | cons x t ih =>
    obtain ⟨hx, ht⟩ := List.pairwise_cons.mp h
    unfold insertEntry
    split
    next hle =>
      refine List.pairwise_cons.mpr ⟨fun y hy => ?_, ih ht⟩
      obtain rfl | hy := List.mem_cons.mp ((insertEntry_perm e t).subset hy)
      · exact hle
      · exact hx y hy
    next hlt =>
      have hex : e.due ≤ x.due := BitVec.le_of_lt (BitVec.not_le.mp hlt)
      refine List.pairwise_cons.mpr ⟨fun y hy => ?_, h⟩
      obtain rfl | hy := List.mem_cons.mp hy
      · exact hex
      · exact BitVec.le_trans hex (hx y hy)

/-! ### The due event's entries -/

/-- The queue after one entry has been taken: with the entry it goes on as, if it goes on (R116, R117). -/
theorem takeEntry_queue (s : State) (e : Entry) :
    (s.takeEntry e).queue =
      match s.requeued e with
      | some x => insertEntry x s.queue
      | none => s.queue := by
  unfold State.takeEntry State.requeued
  by_cases hi : s.zones[e.zone].inhibit = 0
  · rw [if_neg (by simpa using hi)]
    cases e.kind with
    | single v n => simp
    | sequence k =>
      dsimp only
      unfold State.goOn
      cases s.banks[e.poster][k].link with
      | none => simp
      | some next =>
        dsimp only
        by_cases hd : 2 ^ 48 ≤ e.due.toNat + s.banks[e.poster][k].delay.toNat
        · rw [if_pos hd, if_neg (by omega)]; simp
        · rw [if_neg hd, if_pos ⟨hi, by omega⟩]
          simp [State.post]
  · rw [if_pos hi]
    cases e.kind with
    | single v n => simp
    | sequence k =>
      dsimp only
      cases s.banks[e.poster][k].link with
      | none => simp
      | some next => dsimp only; rw [if_neg fun x => hi x.1]; simp

/-- What an entry goes on as depends on the inhibit of its zone and the banks alone. -/
theorem requeued_congr {s t : State} {e : Entry} (hb : t.banks = s.banks)
    (hi : t.zones[e.zone].inhibit = s.zones[e.zone].inhibit) : t.requeued e = s.requeued e := by
  unfold State.requeued
  rw [hb, hi]

theorem requeued_poster {s : State} {e x : Entry} (h : s.requeued e = some x) : x.poster = e.poster ∧ x.zone = e.zone := by
  unfold State.requeued at h
  split at h
  · cases h
  · dsimp only at h
    split at h
    · cases h
    · split at h
      · cases h; exact ⟨rfl, rfl⟩
      · cases h

/-- A linked step has a delay, so that the entry goes on later than it was due (R107, R116). -/
theorem requeued_later {s : State} {e x : Entry} (hb : BanksLinked s) (h : s.requeued e = some x) : e.due < x.due := by
  unfold State.requeued at h
  split at h
  · cases h
  next k _ =>
    dsimp only at h
    split at h
    · cases h
    next l hl =>
      split at h
      next hc =>
        cases h
        have hd := hb e.poster k (by rw [hl]; rfl)
        have hn : s.banks[e.poster][k].delay.toNat ≠ 0 := fun x => hd (BitVec.eq_of_toNat_eq x)
        have hlt : s.banks[e.poster][k].delay.toNat < 2 ^ 24 := BitVec.isLt _
        rw [BitVec.lt_def]
        simp only [BitVec.toNat_add, BitVec.toNat_setWidth]
        omega
      · cases h

theorem setCommanded_inhibit (s : State) (y z : ZoneId) (v : Value) :
    (s.setCommanded y v).zones[z].inhibit = s.zones[z].inhibit := by
  unfold State.setCommanded
  rw [State.putZone_zones]
  split
  next h => subst h; rw [Zone.drive_inhibit]
  next => rfl

/-- The zones after one entry has been taken (R97, R98, R114). -/
theorem takeEntry_zones (s : State) (e : Entry) :
    (s.takeEntry e).zones =
      if s.zones[e.zone].inhibit ≠ 0 then s.zones else (s.setCommanded e.zone (s.dueValue e)).zones := by
  unfold State.takeEntry State.dueValue
  split
  · simp
  · cases e.kind with
    | single v n => simp
    | sequence k => simp

theorem takeEntry_inhibit (s : State) (e : Entry) (z : ZoneId) :
    (s.takeEntry e).zones[z].inhibit = s.zones[z].inhibit := by
  rw [takeEntry_zones]
  split
  · rfl
  · exact setCommanded_inhibit _ _ _ _

/-- The queue after several entries have been taken, one after another. -/
theorem takeEntries_queue (s : State) (l : List Entry) :
    ∀ t : State, t.banks = s.banks → (∀ z : ZoneId, t.zones[z].inhibit = s.zones[z].inhibit) →
      (l.foldl State.takeEntry t).queue = (l.filterMap s.requeued).foldl (fun q e => insertEntry e q) t.queue := by
  induction l with
  | nil => intro t _ _; rfl
  | cons e l ih =>
    intro t hb hi
    rw [List.foldl_cons, ih (t.takeEntry e) (by simp [hb]) (fun z => by rw [takeEntry_inhibit, hi]),
      takeEntry_queue, requeued_congr hb (hi e.zone), List.filterMap_cons]
    cases s.requeued e <;> rfl

theorem takeDueEntries_queue (s : State) :
    s.takeDueEntries.queue =
      ((s.queue.filter s.isDue).filterMap s.requeued).foldl (fun q e => insertEntry e q)
        (s.queue.filter fun e => !s.isDue e) :=
  takeEntries_queue s _ _ rfl fun _ => rfl

/-- The entries queued again, with those that were not due. -/
theorem takeDueEntries_perm (s : State) :
    s.takeDueEntries.queue.Perm
      ((s.queue.filter s.isDue).filterMap s.requeued ++ s.queue.filter fun e => !s.isDue e) := by
  rw [takeDueEntries_queue]
  generalize (s.queue.filter s.isDue).filterMap s.requeued = l
  generalize (s.queue.filter fun e => !s.isDue e) = q
  induction l generalizing q with
  | nil => exact .refl _
  | cons x l ih =>
    refine (ih (insertEntry x q)).trans ?_
    exact ((insertEntry_perm x q).append_left l).trans List.perm_middle

theorem foldInsert_sorted (l : List Entry) {q : List Entry} (h : q.Pairwise fun a b => a.due ≤ b.due) :
    (l.foldl (fun q e => insertEntry e q) q).Pairwise fun a b => a.due ≤ b.due := by
  induction l generalizing q with
  | nil => exact h
  | cons x l ih => exact ih (insertEntry_sorted x h)

/-- Each entry goes on as at most one of the same poster, so that a count over posters only falls. -/
theorem countP_takeDueEntries_le (s : State) (p : Entry → Bool) (hp : ∀ e x, s.requeued e = some x → p x = p e) :
    s.takeDueEntries.queue.countP p ≤ s.queue.countP p := by
  rw [(takeDueEntries_perm s).countP_eq, List.countP_append]
  have hl : ∀ l : List Entry, (l.filterMap s.requeued).countP p ≤ l.countP p := by
    intro l
    induction l with
    | nil => exact Nat.le_refl _
    | cons e l ih =>
      rw [List.filterMap_cons, List.countP_cons]
      cases h : s.requeued e with
      | none => dsimp only; omega
      | some x => dsimp only; rw [List.countP_cons, hp e x h]; omega
  have hsum : s.queue.countP p = (s.queue.filter s.isDue).countP p + (s.queue.filter fun e => !s.isDue e).countP p := by
    rw [List.countP_eq_countP_filter_add s.queue p s.isDue]
  have := hl (s.queue.filter s.isDue)
  omega

theorem dueEvent_queue_sublist (s : State) : s.dueEvent.queue.Sublist s.takeDueEntries.queue := by
  have step : ∀ (t : State) (z : ZoneId), (State.faultOvertaken s t z).queue.Sublist t.queue := by
    intro t z
    unfold State.faultOvertaken
    split
    · simpa using (faultZone_follows t z).queue
    · exact .refl _
  have fold : ∀ (l : List ZoneId) (t : State), (l.foldl (State.faultOvertaken s) t).queue.Sublist t.queue := by
    intro l
    induction l with
    | nil => intro t; exact .refl _
    | cons z l ih => intro t; exact (ih _).trans (step t z)
  exact fold _ _

theorem dueEvent_frame (s : State) :
    s.dueEvent =
      { s with zones := s.dueEvent.zones, changeSets := s.dueEvent.changeSets, sessions := s.dueEvent.sessions,
               attention := s.dueEvent.attention, queue := s.dueEvent.queue } := by
  ext1 <;> simp

/-- Once the due event has been taken, every entry is due later (R96, R116). -/
theorem dueEvent_ahead {s : State} (h : LawOfQueue s) : ∀ e ∈ s.dueEvent.queue, s.timeCount < e.due := by
  obtain ⟨-, hahead, -, -, hlinked⟩ := h
  intro e he
  have hmem := (takeDueEntries_perm s).subset ((dueEvent_queue_sublist s).subset he)
  obtain hmem | hmem := List.mem_append.mp hmem
  · obtain ⟨x, hx, hr⟩ := List.mem_filterMap.mp hmem
    have hd : x.due = s.timeCount := of_decide_eq_true (List.mem_filter.mp hx).2
    rw [← hd]
    exact requeued_later hlinked hr
  · obtain ⟨hq, hn⟩ := List.mem_filter.mp hmem
    have hne : e.due ≠ s.timeCount := by simpa [State.isDue] using hn
    exact BitVec.lt_of_le_ne (hahead e hq) fun h => hne h.symm

/-! ### Every effect keeps the law -/

/-- A queue that has only lost entries keeps the law. -/
theorem LawOfQueue.of_sublist {s t : State} (h : LawOfQueue s) (hq : t.queue.Sublist s.queue)
    (ht : t.timeCount = s.timeCount) (hb : BanksLinked t) : LawOfQueue t := by
  obtain ⟨hsorted, hahead, hlen, hcount, -⟩ := h
  refine ⟨hsorted.sublist hq, fun e he => ?_, hq.length_le.trans hlen, fun m => hq.countP_le.trans (hcount m), hb⟩
  rw [ht]
  exact hahead e (hq.subset he)

theorem postRefusal_none {s : State} {m : Master} {due : TimeCount} (h : s.postRefusal m due = none) :
    s.timeCount < due ∧ s.queue.length < queueCapacity ∧ s.entryCount m < queueQuota := by
  unfold State.postRefusal at h
  split at h
  · cases h
  · split at h
    · cases h
    · split at h
      · cases h
      next h1 h2 h3 => exact ⟨BitVec.not_le.mp h1, by omega, by omega⟩

theorem post_entryCount (s : State) (e : Entry) (m : Master) :
    (s.post e).entryCount m = s.entryCount m + if e.poster = m then 1 else 0 := by
  unfold State.entryCount State.post
  rw [State.withQueue_queue, (insertEntry_perm e s.queue).countP_eq, List.countP_cons]
  simp only [decide_eq_true_eq]

theorem post_length (s : State) (e : Entry) : (s.post e).queue.length = s.queue.length + 1 :=
  (insertEntry_perm e s.queue).length_eq

theorem LawOfQueue.post {s : State} (h : LawOfQueue s) {e : Entry} (free : s.postRefusal e.poster e.due = none) :
    LawOfQueue (s.post e) := by
  obtain ⟨hsorted, hahead, hlen, hcount, hb⟩ := h
  obtain ⟨hdue, hroom, hquota⟩ := postRefusal_none free
  refine ⟨insertEntry_sorted e hsorted, fun x hx => ?_, ?_, fun m => ?_, hb⟩
  · obtain rfl | hx := List.mem_cons.mp ((insertEntry_perm e s.queue).subset hx)
    · exact BitVec.le_of_lt hdue
    · exact hahead x hx
  · rw [post_length]; omega
  · rw [post_entryCount]
    split
    next hm => subst hm; omega
    next => exact hcount m

theorem LawOfQueue.takeDueEntries {s : State} (h : LawOfQueue s) : LawOfQueue s.dueEvent := by
  have hlater := dueEvent_ahead h
  obtain ⟨hsorted, hahead, hlen, hcount, hb⟩ := h
  have hsub := dueEvent_queue_sublist s
  refine ⟨?_, fun e he => ?_, ?_, fun m => ?_, ?_⟩
  · rw [takeDueEntries_queue] at hsub
    exact (foldInsert_sorted _ (hsorted.sublist List.filter_sublist)).sublist hsub
  · rw [State.dueEvent_timeCount]
    exact BitVec.le_of_lt (hlater e he)
  · have := countP_takeDueEntries_le s (fun _ => true) (fun _ _ _ => rfl)
    simp only [List.countP_true] at this
    exact hsub.length_le.trans (this.trans hlen)
  · refine (hsub.countP_le.trans (countP_takeDueEntries_le s _ fun e x hx => ?_)).trans (hcount m)
    rw [(requeued_poster hx).1]
  · intro m k
    rw [State.dueEvent_banks]
    exact hb m k

/-- Records that WRITE STEPS has checked leave every linked step with a delay (R107, R108). -/
theorem writeBank_linked (records : List Step) (hr : ∀ r ∈ records, r.link.isSome = true → r.delay ≠ 0) :
    ∀ (b : Vector Step 16) (first : Nat), (∀ k : StepIndex, b[k].link.isSome → b[k].delay ≠ 0) →
      ∀ k : StepIndex, (writeBank b first records)[k].link.isSome → (writeBank b first records)[k].delay ≠ 0 := by
  induction records with
  | nil => intro b first hb; exact hb
  | cons r rest ih =>
    intro b first hb
    refine ih (fun x hx => hr x (List.mem_cons_of_mem r hx)) _ _ fun k => ?_
    split
    next hlt =>
      have := at_set b ⟨first, hlt⟩ k r
      simp only at this
      rw [this]
      split
      · exact hr r List.mem_cons_self
      · exact hb k
    next => exact hb k

theorem BanksLinked.writeSteps {s : State} (h : BanksLinked s) (m : Master) (first : Nat) {records : List Step}
    (hr : ∀ r ∈ records, r.link.isSome = true → r.delay ≠ 0) : BanksLinked (s.writeSteps m first records) := by
  intro n k
  simp only [State.writeSteps, State.withBank_banks, at_set]
  split
  · exact writeBank_linked records hr _ _ (h m) k
  · exact h n k

theorem lawOfQueue_kept : KeptByEffects LawOfQueue := by
  intro s t h made
  have hb : BanksLinked t := by
    obtain heq | ⟨m, first, records, linked, rfl⟩ := made.banks
    · intro m k; rw [heq]; exact h.2.2.2.2 m k
    · exact h.2.2.2.2.writeSteps m first linked
  obtain hq | ⟨e, -, free, rfl⟩ | rfl := made.queue
  · exact h.of_sublist hq made.timeCount hb
  · exact h.post free
  · exact h.takeDueEntries

/-! ### The tick -/

/-- The law with every entry due later than the present count value: what the due event leaves. -/
def QueueAhead (s : State) : Prop := LawOfQueue s ∧ ∀ e ∈ s.queue, s.timeCount < e.due

theorem queueAhead_kept : KeptByEffects QueueAhead := by
  intro s t h made
  refine ⟨lawOfQueue_kept s t h.1 made, ?_⟩
  rw [made.timeCount]
  obtain hq | ⟨e, -, free, rfl⟩ | rfl := made.queue
  · exact fun e he => h.2 e (hq.subset he)
  · intro x hx
    obtain rfl | hx := List.mem_cons.mp ((insertEntry_perm e s.queue).subset hx)
    · exact (postRefusal_none free).1
    · exact h.2 x hx
  · exact dueEvent_ahead h.1

theorem queueAhead_takeDue {s : State} (h : LawOfQueue s) : QueueAhead s.takeDue :=
  queueAhead_kept.timersDue
    ⟨(lawOfQueue_kept.recogniseAll h).takeDueEntries, by
      rw [State.dueEvent_timeCount]; exact dueEvent_ahead (lawOfQueue_kept.recogniseAll h)⟩

/-- With every entry due later, the count may go on; at its wrap the queue is empty. -/
theorem QueueAhead.tick {s : State} (h : QueueAhead s) : LawOfQueue s.tick := by
  obtain ⟨⟨hsorted, -, hlen, hcount, hb⟩, hahead⟩ := h
  refine ⟨hsorted, fun e he => ?_, hlen, hcount, hb⟩
  have := hahead e he
  change s.timeCount + 1 ≤ e.due
  bv_omega

theorem lawOfQueue_restart (s : State) (cause : ResetCause) (cfg : Level) : LawOfQueue (s.restart cause cfg) := by
  have hq : (s.restart cause cfg).queue = [] := rfl
  have hb : (s.restart cause cfg).banks = .replicate 4 (.replicate 16 .afterReset) := rfl
  refine ⟨by rw [hq]; exact .nil, by rw [hq]; simp, by rw [hq]; simp, fun m => by unfold State.entryCount; rw [hq]; simp,
    fun m k => ?_⟩
  rw [hb]
  simp [Step.afterReset]

/-- Settles O8: the queue only loses entries but at a post, which R93 has checked, and at the due event, whose entries
go on later than they were due; the advance takes every entry still due before the count goes on. -/
theorem everyStepKeepsTheLawOfTheQueue : Obligations.EveryStepKeepsTheLawOfTheQueue := by
  intro s t h hs
  exact step_keeps lawOfQueue_kept (fun _ _ _ _ _ h => h) lawOfQueue_restart
    (fun s h => (queueAhead_takeDue (lawOfQueue_kept.closeSampling h)).tick) h hs

end Sys2Proof.Machine

/-! PROOFS. The law of the capture ring (R141): what freeing, appending and moving a cursor keep. -/

namespace Sys2Proof.Machine

/-! ### Serials -/

theorem serialsTo_suffix {next : Serial} {l t : List CaptureRecord} (h : serialsTo next (l ++ t)) : serialsTo next t := by
  induction l with
  | nil => exact h
  | cons r l ih => exact ih h.2

theorem serialsTo_mem {next : Serial} {l : List CaptureRecord} (h : serialsTo next l) {r : CaptureRecord} (hr : r ∈ l) :
    ∃ k, k < l.length ∧ r.serial = next - BitVec.ofNat 32 (k + 1) := by
  obtain ⟨a, b, rfl⟩ := List.append_of_mem hr
  exact ⟨b.length, by simp only [List.length_append, List.length_cons]; omega, (serialsTo_suffix h).1⟩

theorem serialsTo_append {next : Serial} {l : List CaptureRecord} (h : serialsTo next l) {r : CaptureRecord}
    (hr : r.serial = next) : serialsTo (next + 1) (l ++ [r]) := by
  induction l with
  | nil => exact ⟨by simp [hr], trivial⟩
  | cons x l ih =>
    refine ⟨?_, ih h.2⟩
    change x.serial = next + 1 - BitVec.ofNat 32 ((l ++ [r]).length + 1)
    rw [h.1, List.length_append, List.length_singleton]
    bv_omega

/-! ### The shape of the ring -/

/-- The law of the ring but for the need of its oldest record: what holds before the ring is freed. -/
def RingShape (s : State) : Prop :=
  s.ring.length ≤ ringCapacity ∧ serialsTo s.nextSerial s.ring ∧
    ∀ (m : Master) (c : Serial), s.sessions[m].standing = .attached c → (s.nextSerial - c).toNat ≤ s.ring.length

theorem LawOfRing.shape {s : State} (h : LawOfRing s) : RingShape s := ⟨h.1, h.2.1, h.2.2.1⟩

theorem LawOfRing.congr {s t : State} (h : LawOfRing s) (hr : t.ring = s.ring) (hn : t.nextSerial = s.nextSerial)
    (hs : ∀ m : Master, t.sessions[m].standing = s.sessions[m].standing) : LawOfRing t := by
  simpa only [LawOfRing, hr, hn, hs] using h

theorem RingShape.congr {s t : State} (h : RingShape s) (hr : t.ring = s.ring) (hn : t.nextSerial = s.nextSerial)
    (hs : ∀ m : Master, t.sessions[m].standing = s.sessions[m].standing) : RingShape t := by
  simpa only [RingShape, hr, hn, hs] using h

/-- An ATTACHED master whose cursor stands `d` records before the next serial needs the last `d` records, and no
other. -/
theorem needs_iff {s : State} {next oldest serial : Serial} {length k : Nat} (hlen : length ≤ 64) (hk : k < length)
    (ho : oldest = next - BitVec.ofNat 32 length) (hx : serial = next - BitVec.ofNat 32 (k + 1))
    (hc : ∀ (m : Master) (c : Serial), s.sessions[m].standing = .attached c → (next - c).toNat ≤ length) :
    s.needs oldest serial = true ↔
      ∃ (m : Master) (c : Serial), s.sessions[m].standing = .attached c ∧ k < (next - c).toNat := by
  have one : ∀ m : Master, s.cursorNeeds oldest serial m = true ↔
      ∃ c, s.sessions[m].standing = .attached c ∧ k < (next - c).toNat := by
    intro m
    unfold State.cursorNeeds
    cases hst : s.sessions[m].standing with
    | attached c =>
      have hd := hc m c hst
      simp only [Standing.cursor, Standing.attached.injEq, exists_eq_left']
      rw [decide_eq_true_eq, serialDistance, serialDistance]
      subst ho hx
      bv_omega
    | _ => simp [Standing.cursor]
  unfold State.needs
  rw [List.any_eq_true]
  exact ⟨fun ⟨m, _, hm⟩ => ⟨m, (one m).mp hm⟩, fun ⟨m, hm⟩ => ⟨m, mem_allMasters m, (one m).mpr hm⟩⟩

/-- Freeing leaves every cursor in the ring, and the oldest record left at the cursor of some ATTACHED master (R141). -/
theorem freed_law {s : State} {next oldest : Serial} {length : Nat} (hlen : length ≤ 64)
    (ho : oldest = next - BitVec.ofNat 32 length) (l : List CaptureRecord) (hl : serialsTo next l)
    (hle : l.length ≤ length)
    (hc : ∀ (m : Master) (c : Serial), s.sessions[m].standing = .attached c → (next - c).toNat ≤ l.length) :
    let left := l.dropWhile fun x => !s.needs oldest x.serial
    serialsTo next left ∧ left.length ≤ length ∧
      (∀ (m : Master) (c : Serial), s.sessions[m].standing = .attached c → (next - c).toNat ≤ left.length) ∧
      ∀ r ∈ left.head?, ∃ m : Master, s.sessions[m].standing = .attached r.serial := by
  induction l with
  | nil => exact ⟨hl, hle, hc, by simp⟩
  | cons x t ih =>
    have hneeds := needs_iff (s := s) hlen (k := t.length) (serial := x.serial) hle ho hl.1
      fun m c h => (hc m c h).trans hle
    rw [List.length_cons] at hc hle
    by_cases hx : s.needs oldest x.serial = true
    · rw [List.dropWhile_cons_of_neg (by simp [hx])]
      refine ⟨hl, hle, hc, fun r hr => ?_⟩
      obtain rfl : x = r := by simpa using hr
      obtain ⟨m, c, hm, hd⟩ := hneeds.mp hx
      have hle' := hc m c hm
      have hxc : x.serial = c := by
        rw [hl.1]
        bv_omega
      exact ⟨m, by rw [hm, hxc]⟩
    · rw [List.dropWhile_cons_of_pos (by simp [hx])]
      refine ih hl.2 (by omega) fun m c hm => ?_
      by_contra hn
      exact hx (hneeds.mpr ⟨m, c, hm, by omega⟩)

theorem RingShape.freeRing {s : State} (h : RingShape s) : LawOfRing s.freeRing := by
  obtain ⟨hlen, hser, hcur⟩ := h
  unfold LawOfRing
  rw [State.freeRing_sessions, State.freeRing_nextSerial]
  unfold State.freeRing
  cases hr : s.ring with
  | nil => dsimp only; exact ⟨hlen, hser, hcur, by rw [hr]; simp⟩
  | cons r rest =>
    rw [hr] at hlen hser hcur
    obtain ⟨h1, h2, h3, h4⟩ := freed_law (s := s) hlen hser.1 (r :: rest) hser (Nat.le_refl _) hcur
    exact ⟨h2.trans hlen, h1, h3, h4⟩

/-! ### The cursors -/

/-- A master that stops being ATTACHED, or whose cursor moves within the ring, leaves the shape. -/
theorem RingShape.withSession {s : State} (h : RingShape s) (m : Master) (r : Session)
    (hr : ∀ c, r.standing = .attached c → (s.nextSerial - c).toNat ≤ s.ring.length) : RingShape (s.withSession m r) := by
  refine ⟨h.1, h.2.1, fun n c hn => ?_⟩
  rw [State.withSession_sessions, at_set] at hn
  split at hn
  · exact hr c hn
  · exact h.2.2 n c hn

/-- A master that comes to be ATTACHED has its cursor at the next serial (R36, R40). -/
theorem LawOfRing.withSession {s : State} (h : LawOfRing s) {m : Master} (hm : s.isAttached m = false) (r : Session)
    (hr : ∀ c, r.standing = .attached c → c = s.nextSerial) : LawOfRing (s.withSession m r) := by
  obtain ⟨h1, h2, h3⟩ := h.shape.withSession m r fun c hc => by rw [hr c hc]; simp
  refine ⟨h1, h2, h3, fun x hx => ?_⟩
  obtain ⟨n, hn⟩ := h.2.2.2 x hx
  refine ⟨n, ?_⟩
  rw [State.withSession_sessions, at_set, if_neg]
  · exact hn
  · rintro rfl
    simp [State.isAttached, hn, Standing.isAttached, -Fin.getElem_fin] at hm

theorem RingShape.endSession {s : State} (h : RingShape s) (m : Master) : LawOfRing (s.endSession m) := by
  have hc := (fold_context (State.endSessionAt m) (fun s z => endSessionAt_context m s z) allZones s).trans
    (dropEntries_context _ fun e => decide (e.poster = m))
  refine RingShape.freeRing (h.congr ?_ ?_ fun n => (hc.2.2 n).1)
  · rw [State.dropEntries_ring]; exact foldl_keeps State.ring _ (fun s z => by simp) _ _
  · rw [State.dropEntries_nextSerial]; exact foldl_keeps State.nextSerial _ (fun s z => by simp) _ _

theorem RingShape.readCaptures {s : State} (h : RingShape s) {m : Master} {c : Serial} (n : Nat)
    (hm : s.sessions[m].standing = .attached c) : LawOfRing (s.readCaptures m c n).state := by
  refine RingShape.freeRing (h.withSession m _ fun x hx => ?_)
  obtain rfl : cursorPast c ((s.unread c).take n) = x := by simpa using hx
  unfold cursorPast
  split
  next r hr =>
    have hmem : r ∈ s.ring := by
      have := List.mem_of_mem_take (List.mem_of_getLast? hr)
      unfold State.unread at this
      split at this
      · cases this
      next hring => rw [hring]; exact (List.dropWhile_suffix _).subset this
    obtain ⟨k, hk, hs⟩ := serialsTo_mem h.2.1 hmem
    have hcap : s.ring.length ≤ 64 := h.1
    rw [hs]
    bv_omega
  next => exact h.2.2 m c hm

/-! ### The append -/

theorem standing_of_isAttached {st : Standing} (h : st.isAttached = true) : ∃ c, st = .attached c := by
  cases st with
  | attached c => exact ⟨c, rfl⟩
  | _ => cases h

theorem sessionAfterAppend_standing (s : State) (n : Master) :
    (s.sessionAfterAppend n).standing =
      match s.ring with
      | [] => s.sessions[n].standing
      | oldest :: _ =>
        if s.overrun n then .attached (oldest.serial + 1) else s.sessions[n].standing := by
  unfold State.sessionAfterAppend
  cases s.ring with
  | nil => rfl
  | cons r rest => dsimp only; split <;> rfl

/-- An append keeps the law: cursors at a removed record move to the next, which is then the oldest (R143). -/
theorem LawOfRing.appendCapture {s : State} (h : LawOfRing s) (i : InputId) (level : Level)
    (hex : allMasters.any s.isAttached = true) : LawOfRing (s.appendCapture i level) := by
  obtain ⟨hlen, hser, hcur, hhead⟩ := h
  rw [ringCapacity] at hlen
  obtain ⟨hnext, hring, hmasters⟩ := appendCapture_spec s i level
  have hst : ∀ n : Master, (s.appendCapture i level).sessions[n].standing = (s.sessionAfterAppend n).standing := fun n => by
    rw [(hmasters n).1]
  unfold LawOfRing ringCapacity
  rw [hnext, hring]
  simp only [hst, sessionAfterAppend_standing]
  cases hr : s.ring with
  | nil =>
    rw [hr] at hcur
    refine ⟨by simp, ⟨by simp, trivial⟩, fun m c hm => ?_, fun r hr => ?_⟩
    · have := hcur m c hm
      simp only [List.length_nil] at this
      have hc : c = s.nextSerial := by bv_omega
      rw [hc]
      change (s.nextSerial + 1 - s.nextSerial).toNat ≤ 1
      bv_omega
    · obtain ⟨m, -, hm⟩ := List.any_eq_true.mp hex
      obtain ⟨c, hc⟩ := standing_of_isAttached hm
      have := hcur m c hc
      simp only [List.length_nil] at this
      obtain rfl : (⟨s.nextSerial, i, level, s.timeCount⟩ : CaptureRecord) = r := by simpa using hr
      have heq : c = s.nextSerial := by bv_omega
      exact ⟨m, by rw [hc, heq]⟩
  | cons x rest =>
    have hover : ∀ n, s.overrun n = decide (64 ≤ (x :: rest).length ∧ s.sessions[n].standing = .attached x.serial) := by
      intro n; unfold State.overrun; rw [hr]
    rw [hr] at hlen hser hcur hhead
    have hx := hser.1
    dsimp only
    simp only [hover]
    by_cases hfull : (x :: rest).length < 64
    · rw [if_pos hfull]
      have hno : ¬ 64 ≤ (x :: rest).length := by omega
      simp only [hno, false_and, decide_false, Bool.false_eq_true, if_false]
      refine ⟨by rw [List.length_append]; exact hfull, serialsTo_append hser rfl, fun m c hm => ?_, hhead⟩
      have := hcur m c hm
      simp only [List.length_append, List.length_cons, List.length_nil] at *
      bv_omega
    · rw [if_neg hfull]
      have hyes : 64 ≤ (x :: rest).length := by omega
      have hrest : rest.length = 63 := by rw [List.length_cons] at hlen hyes; omega
      simp only [hyes, true_and, decide_eq_true_eq, List.drop_succ_cons, List.drop_zero]
      refine ⟨by simp [hrest], serialsTo_append hser.2 rfl, fun m c hm => ?_, fun r hhr => ?_⟩
      · rw [List.length_append, hrest]
        split at hm
        next =>
          obtain rfl : x.serial + 1 = c := Standing.attached.inj hm
          rw [hx, hrest, List.length_singleton]
          bv_omega
        next hne =>
          have := hcur m c hm
          have hc : c ≠ x.serial := fun e => hne (by rw [hm, e])
          rw [List.length_cons, hrest] at this
          rw [hx, hrest] at hc
          rw [List.length_singleton]
          bv_omega
      · obtain ⟨m, hm⟩ := hhead x rfl
        refine ⟨m, ?_⟩
        rw [if_pos hm]
        cases rest with
        | nil => simp at hrest
        | cons y rest' =>
          obtain rfl : y = r := by simpa using hhr
          have hy := hser.2.1
          simp only [List.length_cons] at hy hx hrest
          rw [hx, hy]
          congr 1
          bv_omega

/-! ### Every effect keeps the law -/

/-- The ring, the next serial and the masters' standings are as they were. -/
def RingKept (s t : State) : Prop :=
  t.ring = s.ring ∧ t.nextSerial = s.nextSerial ∧ ∀ m : Master, t.sessions[m].standing = s.sessions[m].standing

theorem RingKept.of_sessions {s t : State} (hr : t.ring = s.ring) (hn : t.nextSerial = s.nextSerial)
    (hs : t.sessions = s.sessions) : RingKept s t :=
  ⟨hr, hn, fun m => by rw [hs]⟩

theorem RingKept.trans {s t u : State} (h : RingKept s t) (k : RingKept t u) : RingKept s u :=
  ⟨k.1.trans h.1, k.2.1.trans h.2.1, fun m => (k.2.2 m).trans (h.2.2 m)⟩

theorem setAuthority_ringKept (s : State) (z : ZoneId) (a : Authority) (v : Value) :
    RingKept s (s.setAuthority z a v) :=
  ⟨State.setAuthority_ring .., State.setAuthority_nextSerial .., State.setAuthority_standing s z a v⟩

theorem Follows.ringKept {s t : State} (h : Follows s t) : RingKept s t :=
  .of_sessions h.ring h.nextSerial h.sessions

theorem withSession_ringKept (s : State) (m : Master) (r : Session) (h : r.standing = s.sessions[m].standing) :
    RingKept s (s.withSession m r) := by
  refine ⟨rfl, rfl, fun n => ?_⟩
  rw [State.withSession_sessions, at_set]
  split
  next hm => subst hm; exact h
  next => rfl

theorem recordStrike_ringKept (s : State) (m : Master) : RingKept s (s.recordStrike m) := by
  refine ⟨State.recordStrike_ring .., State.recordStrike_nextSerial .., fun n => ?_⟩
  rw [recordStrike_sessions, at_set]
  split
  next hm => subst hm; rfl
  next => rfl

theorem RingKept.fold {α : Type} {f : State → α → State} (hf : ∀ s a, RingKept s (f s a)) (l : List α) (s : State) :
    RingKept s (l.foldl f s) := by
  induction l generalizing s with
  | nil => exact ⟨rfl, rfl, fun _ => rfl⟩
  | cons a l ih => exact (hf s a).trans (ih _)

theorem faultZone_ringKept (s : State) (z : ZoneId) : RingKept s (s.faultZone z) :=
  (setAuthority_ringKept s z _ _).trans (faultZone_follows s z).ringKept

theorem dueEvent_ringKept (s : State) : RingKept s s.dueEvent := by
  refine RingKept.trans (t := s.takeDueEntries) (.of_sessions (by simp) (by simp) (by simp)) (.fold (fun t z => ?_) _ _)
  unfold State.faultOvertaken
  split
  · exact faultZone_ringKept t z
  · exact ⟨rfl, rfl, fun _ => rfl⟩

theorem startUp_ringKept (s : State) : RingKept s s.startUp := by
  refine ⟨by rw [startUp_frame], by rw [startUp_frame], fun m => ?_⟩
  by_cases h : s.device = .starting
  · rw [startUp_of_starting h]
    split
    · rfl
    · have hs : RingKept (s.withDecision s.store.read) (s.withDecision s.store.read).enterService :=
        ((RingKept.fold (fun s z => setAuthority_ringKept s z _ _) allZones _).trans
          (.of_sessions (foldl_keeps State.ring _ (fun _ _ => by simp) allInputs _)
            (foldl_keeps State.nextSerial _ (fun _ _ => by simp) allInputs _)
            (foldl_keeps State.sessions _ (fun _ _ => by simp) allInputs _))).trans
          (.of_sessions (foldl_keeps State.ring _ (fun _ _ => by simp) allInputs _)
            (foldl_keeps State.nextSerial _ (fun _ _ => by simp) allInputs _)
            (foldl_keeps State.sessions _ (fun _ _ => by simp) allInputs _))
      exact hs.2.2 m
  · rw [startUp_of_ne h]

theorem acknowledge_ringKept (s : State) (m : Master) (named : FlagSet) : RingKept s (s.acknowledge m named) := by
  unfold State.acknowledge
  dsimp only
  split
  · exact withSession_ringKept (s.withAttention m _) m _ rfl
  · exact .of_sessions rfl rfl rfl

theorem withTimer_ringKept (s : State) (m : Master) (u : SupervisionTimer) : RingKept s (s.withTimer m u) :=
  withSession_ringKept s m _ rfl

theorem LawOfRing.detach {s : State} (h : LawOfRing s) (m : Master) : LawOfRing (s.detach m) := by
  unfold State.detach
  dsimp only
  split
  next =>
    have he : LawOfRing ((s.withSession m { s.sessions[m] with standing := .detached }).endSession m) :=
      (h.shape.withSession m _ fun c hc => by cases hc).endSession m
    refine he.congr ?_ ?_ fun n => ?_
    · simp only [State.withSession_ring, State.withChangeSet_ring, State.withAttention_ring]
    · simp only [State.withSession_nextSerial, State.withChangeSet_nextSerial, State.withAttention_nextSerial]
    simp only [State.withSession_sessions, State.withChangeSet_sessions, State.withAttention_sessions, at_set]
    split
    next hm =>
      subst hm
      rw [((endSession_context m _).2.2 m).1, State.withSession_sessions, at_set_self]
      rfl
    next => rfl
  next hm =>
    refine (h.withSession (by simpa using hm) .afterReset fun c hc => by cases hc).congr rfl rfl fun n => ?_
    simp only [State.withSession_sessions, State.withChangeSet_sessions, State.withAttention_sessions, at_set]
    split <;> rfl

theorem LawOfRing.unpark {s : State} (h : LawOfRing s) {m : Master} {k : Serial}
    (hm : s.sessions[m].standing = .parked k) : LawOfRing (s.unpark m k) := by
  have ha : s.isAttached m = false := by unfold State.isAttached; rw [hm]; rfl
  have hl : LawOfRing (s.withSession m { s.sessions[m] with
      standing := .attached s.nextSerial, timer := idleTimer s.sessions[m].mode s.timeCount }) :=
    h.withSession ha _ fun c hc => (Standing.attached.inj hc).symm
  unfold State.unpark
  dsimp only
  split
  · exact hl
  · exact hl.congr (State.signal_ring ..) (State.signal_nextSerial ..) fun n => by rw [State.signal_sessions]

theorem LawOfRing.recogniseChange {s : State} (h : LawOfRing s) (i : InputId) (level : Level) :
    LawOfRing (s.recogniseChange i level) := by
  unfold State.recogniseChange
  dsimp only
  have hr : LawOfRing (s.recognise i level) := h
  refine LawOfRing.congr ?_ (State.refresh_ring ..) (State.refresh_nextSerial ..) fun n => by rw [State.refresh_sessions]
  split
  next hc => exact hr.appendCapture i level (Bool.and_eq_true_iff.mp hc).2
  next => exact hr

theorem lawOfRing_kept : KeptByEffects LawOfRing := by
  intro s t h made
  have kept : RingKept s t → LawOfRing t := fun k => h.congr k.1 k.2.1 k.2.2
  cases made with
  | follow _ f => exact kept f.ringKept
  | move z a v _ _ f _ => exact kept ((setAuthority_ringKept s z a v).trans f.ringKept)
  | acknowledge m named _ => exact kept (acknowledge_ringKept s m named)
  | readCaptures m c n here => exact h.shape.readCaptures n here
  | attach m mode period away _ _ _ => exact h.withSession away _ fun c hc => (Standing.attached.inj hc).symm
  | detach m _ => exact h.detach m
  | park m _ _ => exact RingShape.freeRing (h.shape.withSession m _ fun c hc => by cases hc)
  | unpark m k parked => exact h.unpark parked
  | revoke m reason _ =>
    exact ((h.shape.withSession m _ fun c hc => by cases hc).congr (State.signal_ring ..) (State.signal_nextSerial ..)
      fun n => by rw [State.signal_sessions]).endSession m
  | strike m _ => exact kept (recordStrike_ringKept s m)
  | expire m _ _ _ => exact kept ((recordStrike_ringKept s m).trans (withTimer_ringKept _ m _))
  | renewOpen m _ _ _ => exact kept (withSession_ringKept s m _ rfl)
  | renewRunning m _ _ _ => exact kept (withSession_ringKept s m _ rfl)
  | windowOpen m _ _ => exact kept (withSession_ringKept s m _ rfl)
  | supervise m _ _ _ _ => exact kept (withSession_ringKept s m _ rfl)
  | due => exact kept (dueEvent_ringKept s)
  | change i level _ _ _ => exact h.recogniseChange i level
  | startUp _ => exact kept (startUp_ringKept s)
  | _ =>
    refine kept (.of_sessions ?_ ?_ ?_) <;>
    simp [State.setEnables, State.sensedChange, State.writeSteps, State.writeZoneConfig, State.writeInputConfig,
      State.withStrictness, State.withZoneConfig, State.withInputConfig, State.commit]

/-- Settles O9: effects keep the ring and the standings but where a cursor moves or a session ends, where the ring is
freed; where a master comes to be ATTACHED, with its cursor past the ring; and at an append. -/
theorem everyStepKeepsTheLawOfTheRing : Obligations.EveryStepKeepsTheLawOfTheRing := by
  intro s t h hs
  exact step_keeps lawOfRing_kept (fun _ _ _ _ _ h => h)
    (fun _ _ _ => ⟨Nat.zero_le _, trivial, fun m c hm => by simp [State.restart, State.reset, Session.afterReset] at hm,
      by simp [State.restart, State.reset]⟩)
    (advance_keeps lawOfRing_kept fun _ h => h) h hs

end Sys2Proof.Machine

/-! PROOFS. The law of driving (R120, R121, R123): the output stage keeps it wherever it drives a zone record. -/

namespace Sys2Proof.Machine

/-! ### One zone record -/

/-- The law of driving leaves a zone undriven in DARK and FAULTED, and in no other state (R120). -/
theorem drivenBy_none (a : Authority) (c f : Value) (i : InputSet) :
    drivenBy a c f i = none ↔ a = .dark ∨ a = .faulted := by
  cases a <;> simp only [drivenBy, Authority.kind, reduceCtorEq, or_self, or_true, true_or, iff_false] <;>
    split <;> simp

theorem freshMonitor_fits {r : Zone} {c : Byte} {now : TimeCount} {v : Value} (hd : r.driven = some v) :
    Monitor.Fits r c (freshMonitor c now v r.sensed) := by
  unfold freshMonitor
  split
  next hc => exact ⟨by simp [hd], hc⟩
  next hc =>
    split
    next => exact ⟨by simp [hd], hc⟩
    next hs => exact ⟨hc, v, hd, hs, rfl⟩

/-- The lines of an undriven zone do not matter to its monitor. -/
theorem Monitor.Fits.of_undriven {r r' : Zone} {c : Byte} {m : Monitor} (h : Monitor.Fits r c m) (hn : r.driven = none)
    (ha : r'.authority = r.authority) : Monitor.Fits r' c m := by
  cases m with
  | idle => exact ha.trans h
  | fault g => exact ha.trans h
  | off => rw [Monitor.Fits, hn] at h; simp at h
  | matching => rw [Monitor.Fits, hn] at h; simp at h
  | checking t l => obtain ⟨_, v, hv, _⟩ := h; rw [hn] at hv; cases hv

/-- The state of a driven zone does not matter to its monitor. -/
theorem Monitor.Fits.of_driven {r r' : Zone} {c : Byte} {m : Monitor} (h : Monitor.Fits r c m)
    (lit : r.authority ≠ .dark) (sound : r.authority ≠ .faulted) (hd : r'.driven = r.driven)
    (hs : r'.sensed = r.sensed) : Monitor.Fits r' c m := by
  cases m with
  | idle => exact absurd h lit
  | fault g => exact absurd h sound
  | off => exact ⟨by rw [hd]; exact h.1, h.2⟩
  | matching => exact ⟨by rw [hd]; exact h.1, h.2⟩
  | checking t l =>
    obtain ⟨hc, v, hv, hne, hl⟩ := h
    exact ⟨hc, v, hd.trans hv, by rw [hs]; exact hne, by rw [hs]; exact hl⟩

theorem driveChanged_fits {r r' : Zone} {c : Byte} {now : TimeCount} {v : Value} (fits : Monitor.Fits r c r.monitor)
    (lit : r.authority ≠ .dark) (sound : r.authority ≠ .faulted) (hd : r'.driven = some v) (hs : r'.sensed = r.sensed) :
    Monitor.Fits r' c (r.monitor.driveChanged now v r.sensed) := by
  cases hm : r.monitor with
  | idle => rw [hm] at fits; exact absurd fits lit
  | off => rw [hm] at fits; exact ⟨by simp [hd], fits.2⟩
  | matching => rw [hm] at fits; exact ⟨by simp [hd], fits.2⟩
  | fault f => rw [hm] at fits; exact absurd fits sound
  | checking t l =>
    rw [hm] at fits
    dsimp only [Monitor.driveChanged]
    split
    next => exact ⟨by simp [hd], fits.1⟩
    next hne => exact ⟨fits.1, v, hd, by rw [hs]; exact hne, by rw [hs]⟩

/-- A record that keeps lines, sensed value and monitor of one that met the law meets it once it is driven, if its state
stays, or does not become DARK, and becomes FAULTED only where the lines drove. -/
theorem drive_fits {r r' : Zone} {f f₀ : Value} {c : Byte} {now : TimeCount}
    (law : r.driven = drivenBy r.authority r.commanded f₀ r.inhibit) (fits : Monitor.Fits r c r.monitor)
    (hd : r'.driven = r.driven) (hs : r'.sensed = r.sensed) (hm : r'.monitor = r.monitor)
    (towards : r'.authority = r.authority ∨ r'.authority ≠ .dark ∧ (r'.authority = .faulted → r.driven ≠ none)) :
    Monitor.Fits (r'.drive f c now) c (r'.drive f c now).monitor := by
  have undriven : r.driven = none ↔ r.authority = .dark ∨ r.authority = .faulted := by rw [law]; exact drivenBy_none ..
  have undriven' := drivenBy_none r'.authority r'.commanded f r'.inhibit
  unfold Zone.drive
  rw [hd]
  cases hu : r.driven with
  | none =>
    cases hv : drivenBy r'.authority r'.commanded f r'.inhibit with
    | some v => exact freshMonitor_fits rfl
    | none =>
      have same : r'.authority = r.authority := towards.resolve_right fun ⟨lit, out⟩ =>
        (undriven'.mp hv).elim lit fun hf => out hf hu
      dsimp only
      rw [hm]
      exact fits.of_undriven hu same
  | some u =>
    have lit : r.authority ≠ .dark := fun x => by simp [undriven.mpr (.inl x)] at hu
    have sound : r.authority ≠ .faulted := fun x => by simp [undriven.mpr (.inr x)] at hu
    cases hv : drivenBy r'.authority r'.commanded f r'.inhibit with
    | none =>
      refine (undriven'.mp hv).resolve_left fun hk => ?_
      exact towards.elim (fun x => lit (x.symm.trans hk)) fun x => x.1 hk
    | some v =>
      dsimp only
      split
      next =>
        rw [hm]
        exact fits.of_driven lit sound hd hs
      next =>
        rw [hm, hs]
        exact driveChanged_fits fits lit sound rfl rfl

theorem compare_fits {r r' : Zone} {c : Byte} {now : TimeCount} {v : Value} {m : Monitor} (fits : Monitor.Fits r c m)
    (hc : c ≠ 0) (ha : r'.authority = r.authority) (hd : r'.driven = some v) :
    Monitor.Fits r' c (m.compare now v r'.sensed) := by
  have on : ∀ t : TimeCount, Monitor.Fits r' c (if r'.sensed = v then .matching else .checking t (r'.sensed ^^^ v)) := by
    intro t
    split
    next => exact ⟨by simp [hd], hc⟩
    next hne => exact ⟨hc, v, hd, hne, rfl⟩
  cases m with
  | idle => exact ha.trans fits
  | fault g => exact ha.trans fits
  | off => exact absurd fits.2 hc
  | matching => exact on now
  | checking t l => exact on t

/-- A sensing keeps the monitor in R123's table (R124). -/
theorem sense_fits {r r' : Zone} {c : Byte} {now : TimeCount} (fits : Monitor.Fits r c r.monitor)
    (ha : r'.authority = r.authority) (hd : r'.driven = r.driven) (hm : r'.monitor = r.monitor) :
    Monitor.Fits (r'.sense c now) c (r'.sense c now).monitor := by
  unfold Zone.sense
  cases hu : r'.driven with
  | none =>
    dsimp only
    rw [hm]
    exact fits.of_undriven (hd.symm.trans hu) ha
  | some v =>
    dsimp only
    split
    next hc =>
      rw [hm]
      cases hmo : r.monitor with
      | idle => rw [hmo] at fits; exact ha.trans fits
      | fault g => rw [hmo] at fits; exact ha.trans fits
      | off => rw [hmo] at fits; exact ⟨by rw [hu]; rfl, hc⟩
      | matching => rw [hmo] at fits; exact absurd hc fits.2
      | checking t l => rw [hmo] at fits; exact absurd hc fits.1
    next hc =>
      rw [hm]
      exact compare_fits (r' := { r' with driven := some v, monitor := r.monitor.compare now v r'.sensed }) fits hc ha rfl

@[simp] theorem Zone.sense_authority (c : Byte) (now : TimeCount) (r : Zone) :
    (r.sense c now).authority = r.authority := by unfold Zone.sense; split <;> [split; skip] <;> rfl

@[simp] theorem Zone.sense_commanded (c : Byte) (now : TimeCount) (r : Zone) :
    (r.sense c now).commanded = r.commanded := by unfold Zone.sense; split <;> [split; skip] <;> rfl

@[simp] theorem Zone.sense_inhibit (c : Byte) (now : TimeCount) (r : Zone) :
    (r.sense c now).inhibit = r.inhibit := by unfold Zone.sense; split <;> [split; skip] <;> rfl

@[simp] theorem Zone.sense_driven (c : Byte) (now : TimeCount) (r : Zone) :
    (r.sense c now).driven = r.driven := by unfold Zone.sense; split <;> [split; skip] <;> rfl

@[simp] theorem Zone.sense_epoch (c : Byte) (now : TimeCount) (r : Zone) :
    (r.sense c now).epoch = r.epoch := by unfold Zone.sense; split <;> [split; skip] <;> rfl

/-! ### One zone of the state -/

theorem ZoneDrives.congr {s t : State} {z : ZoneId} (h : ZoneDrives s z) (hz : t.zones[z] = s.zones[z])
    (hc : t.config.zones[z] = s.config.zones[z]) : ZoneDrives t z := by
  simpa only [ZoneDrives, State.fallback, hz, hc] using h

theorem ZoneDrives.driven_none {s : State} {z : ZoneId} (h : ZoneDrives s z) :
    s.zones[z].driven = none ↔ s.zones[z].authority = .dark ∨ s.zones[z].authority = .faulted := by
  rw [h.1]
  exact drivenBy_none ..

/-- Every zone meets the law after one of them has been driven. -/
theorem drives_of_drive {s t : State} {z : ZoneId} {r : Zone} (h : ∀ y, ZoneDrives s y)
    (hz : ∀ y, t.zones[y] =
      if z = y then r.drive (s.fallback z) s.config.zones[z].checkTime s.timeCount else s.zones[y])
    (hc : t.config = s.config) (hd : r.driven = s.zones[z].driven) (hs : r.sensed = s.zones[z].sensed)
    (hm : r.monitor = s.zones[z].monitor)
    (towards : r.authority = s.zones[z].authority ∨
      r.authority ≠ .dark ∧ (r.authority = .faulted → s.zones[z].driven ≠ none)) : ∀ y, ZoneDrives t y := by
  intro y
  by_cases hy : z = y
  · subst hy
    unfold ZoneDrives
    rw [hz z, if_pos rfl]
    unfold State.fallback
    rw [hc]
    exact ⟨by simp [-Fin.getElem_fin], drive_fits (h z).1 (h z).2 hd hs hm towards⟩
  · exact (h y).congr (by rw [hz y, if_neg hy]) (by rw [hc])

theorem drives_setAuthority {s : State} (h : ∀ y, ZoneDrives s y) (z : ZoneId) (a : Authority) (v : Value)
    (towards : a = s.zones[z].authority ∨ a ≠ .dark ∧ (a = .faulted → s.zones[z].driven ≠ none)) :
    ∀ y, ZoneDrives (s.setAuthority z a v) y :=
  drives_of_drive h (fun y => State.setAuthority_zones s z y a v) (by simp) rfl rfl rfl towards

theorem drives_setCommanded {s : State} (h : ∀ y, ZoneDrives s y) (z : ZoneId) (v : Value) :
    ∀ y, ZoneDrives (s.setCommanded z v) y :=
  drives_of_drive h (fun y => State.putZone_zones s z y _) (by simp) rfl rfl rfl (.inl rfl)

theorem drives_setInhibit {s : State} (h : ∀ y, ZoneDrives s y) (z : ZoneId) (new : InputSet) :
    ∀ y, ZoneDrives (s.setInhibit z new) y :=
  drives_of_drive h (fun y => State.setInhibit_zones s z y new) (by simp) rfl rfl rfl (.inl rfl)

theorem drives_refresh {s : State} (h : ∀ y, ZoneDrives s y) (i : InputId) : ∀ y, ZoneDrives (s.refresh i) y :=
  foldl_preserves (P := fun s => ∀ y, ZoneDrives s y) (fun _ z hs => drives_setInhibit hs z _) allZones h

theorem setAuthority_authority (s : State) (z y : ZoneId) (a : Authority) (v : Value) :
    (s.setAuthority z a v).zones[y].authority = if z = y then a else s.zones[y].authority := by
  rw [State.setAuthority_zones]
  split
  · simp [Zone.reassign]
  · rfl

@[simp] theorem setCommanded_authority (s : State) (z y : ZoneId) (v : Value) :
    (s.setCommanded z v).zones[y].authority = s.zones[y].authority := by
  unfold State.setCommanded
  rw [State.putZone_zones]
  split
  next h => subst h; simp
  next => rfl

@[simp] theorem refresh_authority (s : State) (i : InputId) (z : ZoneId) :
    (s.refresh i).zones[z].authority = s.zones[z].authority := ((refresh_spec s i).1 z).2.1

/-! ### The law of driving -/

theorem LawOfDriving.congr {s t : State} (h : LawOfDriving s) (hz : t.zones = s.zones) (hc : t.config = s.config)
    (hd : t.device.outOfService ↔ s.device.outOfService) : LawOfDriving t :=
  fun z => ⟨(h z).1.congr (by rw [hz]) (by rw [hc]), by rw [hz, hd]; exact (h z).2⟩

theorem LawOfDriving.kept {s t : State} (h : LawOfDriving s) (hz : t.zones = s.zones) (hc : t.config = s.config)
    (hd : t.device = s.device) : LawOfDriving t := h.congr hz hc (by rw [hd])

theorem LawOfDriving.lit {s : State} (h : LawOfDriving s) (service : ¬ s.device.outOfService) (z : ZoneId) :
    s.zones[z].authority ≠ .dark := fun x => service ((h z).2.mp x)

theorem LawOfDriving.service {s : State} (h : LawOfDriving s) {z : ZoneId} (lit : s.zones[z].authority ≠ .dark) :
    ¬ s.device.outOfService := fun x => lit ((h z).2.mpr x)

/-- A change of authority keeps the law, from a state other than DARK to another, to FAULTED from a driven one. -/
theorem LawOfDriving.setAuthority {s : State} (h : LawOfDriving s) (z : ZoneId) (a : Authority) (v : Value)
    (was : s.zones[z].authority ≠ .dark) (lit : a ≠ .dark) (out : a = .faulted → s.zones[z].driven ≠ none) :
    LawOfDriving (s.setAuthority z a v) := by
  refine fun y => ⟨drives_setAuthority (fun y => (h y).1) z a v (.inr ⟨lit, out⟩) y, ?_⟩
  rw [setAuthority_authority, State.setAuthority_device, ← (h y).2]
  split
  next hy => subst hy; simp [-Fin.getElem_fin, was, lit]
  next => rfl

theorem LawOfDriving.follows {s t : State} (h : LawOfDriving s) (f : Follows s t) : LawOfDriving t :=
  h.kept f.zones f.config f.device

theorem settledBy_driven (c : Option Candidate) : settledBy c ≠ .dark ∧ settledBy c ≠ .faulted := by
  cases c <;> simp [settledBy]

theorem LawOfDriving.loseEligibilityAt {s : State} (h : LawOfDriving s) (m : Master) (z : ZoneId) :
    LawOfDriving (State.loseEligibilityAt m s z) := by
  unfold State.loseEligibilityAt
  split
  next k r hk =>
    split
    next =>
      refine (h.setAuthority z (.held k) s.zones[z].commanded (by rw [hk]; simp) (by simp) (by simp)).follows ?_
      exact (signal_follows _ _ _ fun _ h => by cases h).trans (signal_follows _ _ _ fun _ h => by cases h)
    next => exact h
  next c hc =>
    split
    next =>
      exact h.setAuthority z _ _ (by rw [hc]; simp) (settledBy_driven _).1 fun x => absurd x (settledBy_driven _).2
    next => exact h
  next => exact h

theorem wakeIfParked_follows (s : State) (m : Master) : Follows s (s.wakeIfParked m) := by
  unfold State.wakeIfParked
  split
  · exact signal_follows _ _ _ fun _ h => by cases h
  · exact .refl s

/-- A loss is a change to SETTLING or VACANT at the fallback value, and reports. -/
theorem lose_follows (s : State) (z : ZoneId) (m : Master) (r : Option Pending) :
    ∃ c, Follows (s.setAuthority z (settledBy c) (s.fallback z)) (s.lose z m r) := by
  have tail : ∀ u : State, Follows u
      (s.config.zones[z].succession.foldl State.wakeIfParked ((u.dropEntries (Entry.isOf m z)).signal m (.lost z .revoked))) :=
    fun u => ((dropEntries_follows u _).trans (signal_follows _ _ _ fun _ h => by cases h)).trans
      (.fold wakeIfParked_follows _ _)
  cases r with
  | none => exact ⟨_, tail _⟩
  | some p => exact ⟨_, (signal_follows _ _ _ fun _ h => by cases h).trans (tail _)⟩

theorem LawOfDriving.lose {s : State} (h : LawOfDriving s) (z : ZoneId) (m : Master) (r : Option Pending)
    (was : s.zones[z].authority ≠ .dark) : LawOfDriving (s.lose z m r) := by
  obtain ⟨c, f⟩ := lose_follows s z m r
  exact (h.setAuthority z _ _ was (settledBy_driven c).1 fun x => absurd x (settledBy_driven c).2).follows f

theorem LawOfDriving.endSessionAt {s : State} (h : LawOfDriving s) (m : Master) (z : ZoneId) :
    LawOfDriving (State.endSessionAt m s z) := by
  unfold State.endSessionAt
  split
  next k hk =>
    split
    next => exact h.lose z m none (by rw [hk]; simp)
    next => exact h
  next k r hk =>
    split
    next => exact h.lose z m (some r) (by rw [hk]; simp)
    next => exact h.loseEligibilityAt m z
  next => exact h.loseEligibilityAt m z
  next => exact h

theorem LawOfDriving.endSession {s : State} (h : LawOfDriving s) (m : Master) : LawOfDriving (s.endSession m) :=
  ((foldl_preserves (fun _ z hs => hs.endSessionAt m z) allZones h).follows (dropEntries_follows _ _)).kept
    (State.freeRing_zones _) (State.freeRing_config _) (State.freeRing_device _)

theorem LawOfDriving.recordStrike {s : State} (h : LawOfDriving s) (m : Master) : LawOfDriving (s.recordStrike m) :=
  foldl_preserves (fun _ z hs => hs.loseEligibilityAt m z) allZones
    (h.kept (t := (s.withStrike m).signal m .supervisionWarning) (State.signal_zones ..) (State.signal_config ..)
      (State.signal_device ..))

theorem LawOfDriving.setCommanded {s : State} (h : LawOfDriving s) (z : ZoneId) (v : Value) :
    LawOfDriving (s.setCommanded z v) :=
  fun y => ⟨drives_setCommanded (fun y => (h y).1) z v y, by
    rw [setCommanded_authority, State.setCommanded_device]; exact (h y).2⟩

theorem LawOfDriving.refresh {s : State} (h : LawOfDriving s) (i : InputId) : LawOfDriving (s.refresh i) :=
  fun y => ⟨drives_refresh (fun y => (h y).1) i y, by rw [refresh_authority, State.refresh_device]; exact (h y).2⟩

theorem LawOfDriving.takeEntry {s : State} (h : LawOfDriving s) (e : Entry) : LawOfDriving (s.takeEntry e) := by
  have hz := takeEntry_zones s e
  split at hz
  · exact h.kept hz (State.takeEntry_config ..) (State.takeEntry_device ..)
  · exact (h.setCommanded e.zone (s.dueValue e)).kept hz (by simp) (by simp)

/-- In service a fault keeps the law: a zone that is not FAULTED is driven. -/
theorem LawOfDriving.faultZone {s : State} (h : LawOfDriving s) (service : ¬ s.device.outOfService) (z : ZoneId) :
    LawOfDriving (s.faultZone z) := by
  have lit := h.lit service
  refine LawOfDriving.follows (fun y => ⟨drives_setAuthority (fun y => (h y).1) z .faulted (s.fallback z) ?_ y, ?_⟩)
    (faultZone_follows s z)
  · by_cases hf : s.zones[z].authority = .faulted
    · exact .inl hf.symm
    · refine .inr ⟨by simp, fun _ hn => ?_⟩
      exact ((h z).1.driven_none.mp hn).elim (lit z) hf
  · rw [setAuthority_authority, State.setAuthority_device, ← (h y).2]
    split
    next hy => subst hy; simp [-Fin.getElem_fin, lit]
    next => rfl

theorem checkExpired_driven {s : State} (h : LawOfDriving s) {z : ZoneId} (hx : s.checkExpired z = true) :
    s.zones[z].driven ≠ none := by
  have fits := (h z).1.2
  unfold State.checkExpired at hx
  split at hx
  next t l hm =>
    rw [hm] at fits
    obtain ⟨_, v, hv, _⟩ := fits
    simp [-Fin.getElem_fin, hv]
  next => cases hx

theorem checkExpired_service {s : State} (h : LawOfDriving s) {z : ZoneId} (hx : s.checkExpired z = true) :
    ¬ s.device.outOfService :=
  h.service fun hd => checkExpired_driven h hx ((h z).1.driven_none.mpr (.inl hd))

theorem LawOfDriving.dueEvent {s : State} (h : LawOfDriving s) : LawOfDriving s.dueEvent := by
  have taken : LawOfDriving s.takeDueEntries :=
    foldl_preserves (fun _ e hs => hs.takeEntry e) _ (h.kept rfl rfl rfl)
  refine (foldl_preserves (P := fun u => LawOfDriving u ∧ u.device = s.device) (fun u z ⟨hu, hd⟩ => ?_) allZones
    ⟨taken, by simp⟩).1
  unfold State.faultOvertaken
  split
  next hx =>
    rw [Bool.and_eq_true] at hx
    exact ⟨hu.faultZone (by rw [hd]; exact checkExpired_service h hx.1) z, by simp [hd]⟩
  next => exact ⟨hu, hd⟩

/-! ### Entry into service -/

theorem lightZone_context (s : State) (z : ZoneId) : SameContext s (s.lightZone z) := setAuthority_context ..

theorem lightZone_other (s : State) (z y : ZoneId) (h : z ≠ y) : (s.lightZone z).zones[y] = s.zones[y] :=
  State.setAuthority_zones_ne s h _ _

theorem lightZone_alike (s t : State) (z : ZoneId) (h : SameContext s t) (hz : s.zones[z] = t.zones[z]) :
    (s.lightZone z).zones[z] = (t.lightZone z).zones[z] := by
  unfold State.lightZone
  rw [State.setAuthority_zones_self, State.setAuthority_zones_self, hz, h.fallback, h.1, h.2.1]

/-- Each zone is lit by its own record and configuration. -/
theorem lightZones_zone (s : State) (z : ZoneId) :
    (allZones.foldl State.lightZone s).zones[z] =
      (s.zones[z].reassign .vacant (s.fallback z)).drive (s.fallback z) s.config.zones[z].checkTime s.timeCount :=
  (fold_zones _ lightZone_other lightZone_context lightZone_alike s z).trans (State.setAuthority_zones_self ..)

theorem establishAll_zones (s : State) : (allInputs.foldl State.establish s).zones = s.zones :=
  foldl_keeps State.zones _ (fun _ _ => by simp) _ _

/-- All of `enterService` after the zones are lit and the inputs established is the setting of memberships. -/
theorem enterService_preserves {P : State → Prop} {s : State}
    (h : P (allInputs.foldl State.establish (allZones.foldl State.lightZone s)))
    (refreshes : ∀ u i, P u → P (State.refresh u i)) : P s.enterService :=
  foldl_preserves refreshes allInputs h

theorem enterService_authority (s : State) (z : ZoneId) : s.enterService.zones[z].authority = .vacant := by
  refine enterService_preserves (P := fun u => u.zones[z].authority = .vacant) ?_ fun u i hu => ?_
  · rw [establishAll_zones, lightZones_zone]
    simp [Zone.reassign]
  · rw [refresh_authority]; exact hu

theorem drives_enterService {s : State} (h : ∀ y, ZoneDrives s y) : ∀ y, ZoneDrives s.enterService y := by
  refine enterService_preserves (P := fun u => ∀ y, ZoneDrives u y) (fun y => ?_) fun u i hu => drives_refresh hu i
  refine ZoneDrives.congr (s := allZones.foldl State.lightZone s) ?_ (by rw [establishAll_zones]) ?_
  · exact foldl_preserves (P := fun u => ∀ y, ZoneDrives u y)
      (fun u z hu => drives_setAuthority hu z _ _ (.inr ⟨by simp, by simp⟩)) allZones h y
  · rw [foldl_keeps State.config _ (fun _ _ => by simp) allInputs _]

/-- A DARK zone meets the law under any configuration. -/
theorem ZoneDrives.of_dark {s t : State} {z : ZoneId} (h : ZoneDrives s z) (dark : s.zones[z].authority = .dark)
    (hz : t.zones[z] = s.zones[z]) : ZoneDrives t z := by
  obtain ⟨hd, hf⟩ := h
  have hn : s.zones[z].driven = none := by rw [hd, dark]; rfl
  unfold ZoneDrives
  rw [hz]
  refine ⟨by rw [hn, dark]; rfl, ?_⟩
  cases hm : s.zones[z].monitor with
  | idle => exact dark
  | fault g => rw [hm] at hf; exact hf
  | off => rw [hm, Monitor.Fits, hn] at hf; simp at hf
  | matching => rw [hm, Monitor.Fits, hn] at hf; simp at hf
  | checking t l => rw [hm] at hf; obtain ⟨_, v, hv, _⟩ := hf; rw [hn] at hv; cases hv

theorem decided_service (s : State) (hd : (s.withDecision s.store.read).device ≠ .halted) :
    ¬ (s.withDecision s.store.read).device.outOfService := by
  unfold State.withDecision StoreRead.device at *
  dsimp only at *
  repeat' split at hd
  all_goals simp_all [DeviceState.outOfService]

theorem LawOfDriving.startUp {s : State} (h : LawOfDriving s) : LawOfDriving s.startUp := by
  by_cases hs : s.device = .starting
  · have dark : ∀ z : ZoneId, s.zones[z].authority = .dark := fun z => (h z).2.mpr (by rw [hs]; trivial)
    have decided : ∀ z, ZoneDrives (s.withDecision s.store.read) z := fun z => (h z).1.of_dark (dark z) rfl
    rw [startUp_of_starting hs]
    split
    next hd => exact fun z => ⟨decided z, iff_of_true (dark z) (by rw [hd]; trivial)⟩
    next hd =>
      refine fun z => ⟨drives_enterService decided z, iff_of_false ?_ ?_⟩
      · rw [enterService_authority]; simp
      · rw [State.enterService_device]; exact decided_service s hd
  · rw [startUp_of_ne hs]; exact h

/-! ### The configuration of a zone -/

theorem retimed_fits {r : Zone} {old new : Byte} {now : TimeCount} {v : Value} (hd : r.driven = some v)
    (fits : Monitor.Fits r old r.monitor) :
    Monitor.Fits (r.retimed old new now) new (r.retimed old new now).monitor := by
  unfold Zone.retimed
  rw [hd]
  dsimp only
  split
  next h => subst h; exact fits
  next => exact freshMonitor_fits rfl

theorem retimed_eq (old new : Byte) (now : TimeCount) (r : Zone) :
    r.retimed old new now = { r with monitor := (r.retimed old new now).monitor } := by
  unfold Zone.retimed
  split
  · split <;> rfl
  · rfl

theorem writeZoneConfig_zones (s : State) (z y : ZoneId) (c : ZoneConfig) :
    (s.writeZoneConfig z c).zones[y] =
      if z = y then
        Zone.drive c.fallback c.checkTime s.timeCount
          { s.zones[z].retimed s.config.zones[z].checkTime c.checkTime s.timeCount with commanded := c.fallback }
      else s.zones[y] := by
  unfold State.writeZoneConfig
  rw [State.putZone_zones]
  have hc : (s.withZoneConfig z c).config.zones[z] = c := at_set_self ..
  unfold State.fallback
  rw [hc]
  rfl

theorem writeZoneConfig_config (s : State) (z : ZoneId) (c : ZoneConfig) :
    (s.writeZoneConfig z c).config = { s.config with zones := s.config.zones.set z c } := by
  unfold State.writeZoneConfig
  rw [State.putZone_config]
  rfl

theorem LawOfDriving.writeZoneConfig {s : State} (h : LawOfDriving s) {z : ZoneId} (c : ZoneConfig)
    (vacant : s.zones[z].authority = .vacant) : LawOfDriving (s.writeZoneConfig z c) := by
  have hdev : (s.writeZoneConfig z c).device = s.device := State.putZone_device ..
  intro y
  rw [hdev, ← (h y).2]
  unfold ZoneDrives State.fallback
  rw [writeZoneConfig_config, writeZoneConfig_zones]
  dsimp only
  rw [at_set]
  by_cases hy : z = y
  · subst hy
    obtain ⟨law, fits⟩ := (h z).1
    have hd : s.zones[z].driven = some (s.fallback z) := by rw [law, vacant]; rfl
    have hr := retimed_fits (new := c.checkTime) (now := s.timeCount) hd fits
    rw [if_pos rfl, if_pos rfl]
    rw [retimed_eq] at hr ⊢
    refine ⟨⟨by rw [Zone.drive_driven, Zone.drive_authority, Zone.drive_commanded, Zone.drive_inhibit], ?_⟩, by simp⟩
    exact drive_fits (r := { s.zones[z] with
      monitor := (s.zones[z].retimed s.config.zones[z].checkTime c.checkTime s.timeCount).monitor }) law hr rfl rfl rfl
      (.inl rfl)
  · rw [if_neg hy, if_neg hy]
    exact ⟨(h y).1, Iff.rfl⟩

/-! ### Every effect keeps the law -/

theorem change_lit {s : State} {z : ZoneId} {a : Authority} {v : Value} (h : LawOfDriving s) (c : Change s z a v) :
    s.zones[z].authority ≠ .dark ∧ a ≠ .dark ∧ (a = .faulted → s.zones[z].driven ≠ none) := by
  cases c with
  | fault hx =>
    exact ⟨h.lit (checkExpired_service h hx) z, by simp, fun _ => checkExpired_driven h hx⟩
  | claim m fit free => simp [-Fin.getElem_fin, free]
  | release m held => simp [-Fin.getElem_fin, held]
  | handOver k p asked => simp [-Fin.getElem_fin, asked]
  | keep k p asked => simp [-Fin.getElem_fin, asked]
  | ask k p held => simp [-Fin.getElem_fin, held]
  | grant c settling => simp [-Fin.getElem_fin, settling]
  | clear faulted => simp [-Fin.getElem_fin, faulted]

theorem LawOfDriving.detach {s : State} (h : LawOfDriving s) (m : Master) : LawOfDriving (s.detach m) := by
  have hs : LawOfDriving (s.withSession m { s.sessions[m] with standing := .detached }) := h.kept rfl rfl rfl
  unfold State.detach
  dsimp only
  split
  · exact (hs.endSession m).kept (by simp) (by simp) (by simp)
  · exact hs.kept (by simp) (by simp) (by simp)

theorem LawOfDriving.revoke {s : State} (h : LawOfDriving s) (m : Master) (reason : RevokeReason) :
    LawOfDriving (s.revoke m reason) :=
  LawOfDriving.endSession (h.kept (by rw [State.signal_zones]; rfl) (by rw [State.signal_config]; rfl)
    (by rw [State.signal_device]; rfl)) m

theorem LawOfDriving.sensedChange {s : State} (h : LawOfDriving s) (z : ZoneId) (v : Value) :
    LawOfDriving (s.sensedChange z v) := by
  intro y
  unfold ZoneDrives State.sensedChange State.fallback
  rw [State.withZone_zones, State.withZone_device, State.withZone_config, at_set]
  split
  next hy =>
    subst hy
    obtain ⟨law, fits⟩ := (h z).1
    exact ⟨⟨by simpa [-Fin.getElem_fin, State.fallback] using law, sense_fits fits rfl rfl rfl⟩, by
      rw [Zone.sense_authority]; exact (h z).2⟩
  next => exact h y

theorem LawOfDriving.recogniseChange {s : State} (h : LawOfDriving s) (i : InputId) (level : Level) :
    LawOfDriving (s.recogniseChange i level) := by
  unfold State.recogniseChange
  dsimp only
  refine LawOfDriving.refresh ?_ i
  split
  · exact h.kept (by simp) (by simp) (by simp)
  · exact h.kept (by simp) (by simp) (by simp)

theorem lawOfDriving_kept : KeptByEffects LawOfDriving := by
  intro s t h made
  cases made with
  | follow _ f => exact h.follows f
  | move z a v _ c f _ =>
    obtain ⟨was, lit, out⟩ := change_lit h c
    exact (h.setAuthority z a v was lit out).follows f
  | detach m _ => exact h.detach m
  | revoke m reason _ => exact h.revoke m reason
  | strike m _ => exact h.recordStrike m
  | expire m _ _ _ => exact (h.recordStrike m).kept (by simp) (by simp) (by simp)
  | setOutput z m v _ _ => exact h.setCommanded z v
  | sense z v => exact h.sensedChange z v
  | due => exact h.dueEvent
  | establish i level _ _ => exact LawOfDriving.refresh (h.kept (by simp) (by simp) (by simp)) i
  | change i level _ _ _ => exact h.recogniseChange i level
  | writeZoneConfig z c vacant _ => exact h.writeZoneConfig c vacant
  | writeInputConfig i c _ =>
    have hw : LawOfDriving (s.withInputConfig i c) := h
    exact LawOfDriving.refresh (hw.kept (by simp) (by simp) (by simp)) i
  | writePolicy m mode => exact h
  | commit m device => exact h.congr rfl rfl (by rw [device]; rfl)
  | storeFailed m image device => exact h.congr (by simp) (by simp) (by simp [device, DeviceState.outOfService])
  | startUp _ => exact h.startUp
  | acknowledge m named _ => exact h.kept (by rw [acknowledge_frame]) (by rw [acknowledge_frame]) (by rw [acknowledge_frame])
  | readCaptures m c n _ => exact h.kept (by rw [readCaptures_frame]) (by rw [readCaptures_frame]) (by rw [readCaptures_frame])
  | park m _ _ => exact h.kept (by rw [park_frame]) (by rw [park_frame]) (by rw [park_frame])
  | unpark m k _ => exact h.kept (by rw [unpark_frame]) (by rw [unpark_frame]) (by rw [unpark_frame])
  | _ => exact h

theorem lawOfDriving_restart (s : State) (cause : ResetCause) (cfg : Level) : LawOfDriving (s.restart cause cfg) := by
  intro z
  have hz : (s.restart cause cfg).zones[z] = .afterReset s.zones[z].sensed := by simp [State.restart]
  unfold ZoneDrives
  rw [hz]
  exact ⟨⟨rfl, rfl⟩, iff_of_true rfl trivial⟩

/-- Settles O6: wherever a command changes a zone's state, value or inhibit set it drives the zone by its record, so the
law holds after it; the guards of the changes keep DARK out of service and let only driven zones fault. -/
theorem everyStepKeepsTheLawOfDriving : Obligations.EveryStepKeepsTheLawOfDriving := by
  intro s t h hs
  exact step_keeps lawOfDriving_kept (fun _ _ _ _ _ h => h) lawOfDriving_restart
    (advance_keeps lawOfDriving_kept fun _ h => h) h hs

end Sys2Proof.Machine

/-! PROOFS. The law of the holder (R1, R5, R91): whom a zone may name, and what keeps a master fit to be named. -/

namespace Sys2Proof.Machine

/-! ### What a zone may name -/

/-- The masters that this authority names have the standing that the zone needs (R1, R5). -/
def StandsIn (s : State) (z : ZoneId) (a : Authority) : Prop :=
  match a with
  | .held h => s.isAttached h = true ∧ s.permits z h = true
  | .transfer h p =>
    s.isAttached h = true ∧ s.permits z h = true ∧ s.eligible p.requester z = true ∧ p.requester ≠ h
  | .settling c => s.eligible c.master z = true
  | _ => True

theorem zoneStanding_iff {s : State} {z : ZoneId} : ZoneStanding s z ↔ StandsIn s z s.zones[z].authority := Iff.rfl

/-- What a master was fit for at the zone it is still fit for. -/
def KeepsStanding (s t : State) (n : Master) (z : ZoneId) : Prop :=
  (s.isAttached n = true → t.isAttached n = true) ∧
    (s.sessions[n].strike = false → t.sessions[n].strike = false) ∧ (s.permits z n = true → t.permits z n = true)

theorem KeepsStanding.eligible {s t : State} {n : Master} {z : ZoneId} (h : KeepsStanding s t n z)
    (fit : s.eligible n z = true) : t.eligible n z = true := by
  obtain ⟨ha, hk, hp⟩ := eligible_iff.mp fit
  exact eligible_iff.mpr ⟨h.1 ha, h.2.1 hk, h.2.2 hp⟩

theorem KeepsStanding.of_session {s t : State} {n : Master} {z : ZoneId} (hs : t.sessions[n] = s.sessions[n])
    (hc : t.config = s.config) : KeepsStanding s t n z := by
  unfold KeepsStanding State.isAttached State.permits
  rw [hs, hc]
  exact ⟨id, id, id⟩

theorem KeepsStanding.of_context {s t : State} (h : SameContext s t) (n : Master) (z : ZoneId) :
    KeepsStanding s t n z := by
  unfold KeepsStanding State.permits
  rw [h.isAttached, (h.2.2 n).2, h.1]
  exact ⟨id, id, id⟩

/-- An authority that names only masters that keep their standing goes on standing. -/
theorem StandsIn.carry {s t : State} {z : ZoneId} {a : Authority} (h : StandsIn s z a)
    (keeps : ∀ n, a.holder = some n ∨ a.request.map (·.requester) = some n ∨ a.candidate.map (·.master) = some n →
      KeepsStanding s t n z) : StandsIn t z a := by
  cases a with
  | held k =>
    have hk := keeps k (.inl rfl)
    exact ⟨hk.1 h.1, hk.2.2 h.2⟩
  | transfer k p =>
    obtain ⟨ha, hp, fit, ne⟩ := h
    have hk := keeps k (.inl rfl)
    exact ⟨hk.1 ha, hk.2.2 hp, (keeps p.requester (.inr (.inl rfl))).eligible fit, ne⟩
  | settling c => exact (keeps c.master (.inr (.inr rfl))).eligible h
  | dark => trivial
  | vacant => trivial
  | faulted => trivial

theorem playsAt_of_named {s : State} {n : Master} {z : ZoneId}
    (h : s.zones[z].authority.holder = some n ∨ s.zones[z].authority.request.map (·.requester) = some n ∨
      s.zones[z].authority.candidate.map (·.master) = some n) : s.playsAt n z = true := by
  unfold State.playsAt State.holds State.requests State.isCandidate
  cases ha : s.zones[z].authority with
  | held k => simpa [ha, Authority.holder, Authority.request, Authority.candidate, -Fin.getElem_fin] using h
  | transfer k p => simpa [ha, Authority.holder, Authority.request, Authority.candidate, -Fin.getElem_fin] using h
  | settling c => simpa [ha, Authority.holder, Authority.request, Authority.candidate, -Fin.getElem_fin] using h
  | dark => simp [ha, Authority.holder, Authority.request, Authority.candidate, -Fin.getElem_fin] at h
  | vacant => simp [ha, Authority.holder, Authority.request, Authority.candidate, -Fin.getElem_fin] at h
  | faulted => simp [ha, Authority.holder, Authority.request, Authority.candidate, -Fin.getElem_fin] at h

theorem choose_eligible {s : State} {z : ZoneId} {k : Nat} {c : Candidate} (h : s.choose z k = some c) :
    s.eligible c.master z = true := by
  have walked : ∀ (l : List Master) (k : Nat) (m : Master) (p : Nat), s.walk z l k = some (m, p) →
      s.eligible m z = true := by
    intro l
    induction l with
    | nil => intro k m p hw; cases hw
    | cons a l ih =>
      intro k m p hw
      unfold State.walk at hw
      split at hw
      next hfit => cases hw; exact hfit
      next => exact ih _ _ _ hw
  unfold State.choose at h
  split at h
  next m p hw => cases h; exact walked _ _ _ _ hw
  next => cases h

theorem settledBy_stands {s t : State} {z : ZoneId} {k : Nat}
    (he : ∀ n, s.eligible n z = true → t.eligible n z = true) : StandsIn t z (settledBy (s.choose z k)) := by
  cases hc : s.choose z k with
  | none => trivial
  | some c => exact he c.master (choose_eligible hc)

/-- A session end leaves only masters other than its own named (R68, R78, R79). -/
theorem ended_stands {r s t : State} {m : Master} {z : ZoneId} (h : ZoneStanding r z)
    (hz : s.zones[z].authority = r.zones[z].authority) (away : s.isAttached m = false)
    (before : ∀ n, n ≠ m → KeepsStanding r s n z) (others : ∀ n, n ≠ m → KeepsStanding s t n z) :
    StandsIn t z (s.endedAuthority m z) := by
  have he : ∀ n, s.eligible n z = true → t.eligible n z = true := fun n fit =>
    (others n fun x => by subst x; rw [(eligible_iff.mp fit).1] at away; cases away).eligible fit
  rw [zoneStanding_iff, ← hz] at h
  unfold State.endedAuthority
  cases ha : s.zones[z].authority with
  | held k =>
    rw [ha] at h
    dsimp only
    split
    next => exact settledBy_stands he
    next hk => exact ⟨(others k hk).1 ((before k hk).1 h.1), (others k hk).2.2 ((before k hk).2.2 h.2)⟩
  | transfer k p =>
    rw [ha] at h
    obtain ⟨hatt, hper, fit, ne⟩ := h
    dsimp only
    split
    next hk =>
      subst hk
      exact he _ ((before _ ne).eligible fit)
    next hk =>
      have hk' : t.isAttached k = true ∧ t.permits z k = true :=
        ⟨(others k hk).1 ((before k hk).1 hatt), (others k hk).2.2 ((before k hk).2.2 hper)⟩
      split
      next => exact hk'
      next hp => exact ⟨hk'.1, hk'.2, he _ ((before _ hp).eligible fit), ne⟩
  | settling c =>
    rw [ha] at h
    dsimp only
    split
    next => exact settledBy_stands he
    next hc => exact he _ ((before _ hc).eligible h)
  | dark => trivial
  | vacant => trivial
  | faulted => trivial

/-- A strike leaves its master named as a holder only (R12, R60, R78, R79). -/
theorem struck_stands {r s t : State} {m : Master} {z : ZoneId} (h : ZoneStanding r z)
    (hz : s.zones[z].authority = r.zones[z].authority) (here : ∀ n, r.isAttached n = true → t.isAttached n = true)
    (permits : ∀ n, r.permits z n = true → t.permits z n = true) (others : ∀ n, n ≠ m → KeepsStanding r t n z)
    (he : ∀ n, s.eligible n z = true → t.eligible n z = true) : StandsIn t z (s.struckAuthority m z) := by
  rw [zoneStanding_iff, ← hz] at h
  unfold State.struckAuthority
  cases ha : s.zones[z].authority with
  | held k => rw [ha] at h; exact ⟨here k h.1, permits k h.2⟩
  | transfer k p =>
    rw [ha] at h
    obtain ⟨hatt, hper, fit, ne⟩ := h
    dsimp only
    split
    next => exact ⟨here k hatt, permits k hper⟩
    next hp => exact ⟨here k hatt, permits k hper, (others _ hp).eligible fit, ne⟩
  | settling c =>
    rw [ha] at h
    dsimp only
    split
    next => exact settledBy_stands he
    next hc => exact (others _ hc).eligible h
  | dark => trivial
  | vacant => trivial
  | faulted => trivial

/-! ### The law -/

/-- The law carries over where the states stay, the masters named keep their standing, and entries are of holders. -/
theorem LawOfHolder.carry {s t : State} (h : LawOfHolder s)
    (hz : ∀ z : ZoneId, t.zones[z].authority = s.zones[z].authority)
    (keeps : ∀ n z, s.playsAt n z = true → KeepsStanding s t n z)
    (hq : ∀ e ∈ t.queue, s.holds e.poster e.zone = true) : LawOfHolder t := by
  refine ⟨fun z => ?_, fun e he => ?_⟩
  · rw [zoneStanding_iff, hz z]
    exact StandsIn.carry (h.1 z) fun n hn => keeps n z (playsAt_of_named hn)
  · have := hq e he
    unfold State.holds at this ⊢
    rwa [hz]

/-- Where zones, configuration and queue stay, the law asks only about the sessions of the masters named. -/
theorem LawOfHolder.of_sessions {s t : State} (h : LawOfHolder s) (hz : t.zones = s.zones) (hc : t.config = s.config)
    (hq : t.queue = s.queue)
    (hs : ∀ n z, s.playsAt n z = true → (s.isAttached n = true → t.isAttached n = true) ∧
      (s.sessions[n].strike = false → t.sessions[n].strike = false)) : LawOfHolder t :=
  h.carry (fun z => by rw [hz]) (fun n z hn => ⟨(hs n z hn).1, (hs n z hn).2, by unfold State.permits; rw [hc]; exact id⟩)
    fun e he => h.2 e (hq ▸ he)

theorem LawOfHolder.withSession {s : State} (h : LawOfHolder s) (m : Master) (r : Session)
    (hr : (∃ z, s.playsAt m z = true) →
      (s.isAttached m = true → r.standing.isAttached = true) ∧ (s.sessions[m].strike = false → r.strike = false)) :
    LawOfHolder (s.withSession m r) := by
  refine h.of_sessions rfl rfl rfl fun n z hn => ?_
  unfold State.isAttached
  rw [State.withSession_sessions, at_set]
  split
  next hm => subst hm; exact hr ⟨z, hn⟩
  next => exact ⟨id, id⟩

theorem LawOfHolder.withTimer {s : State} (h : LawOfHolder s) (m : Master) (u : SupervisionTimer) :
    LawOfHolder (s.withTimer m u) := h.withSession m _ fun _ => ⟨id, id⟩

theorem LawOfHolder.follows {s t : State} (h : LawOfHolder s) (f : Follows s t) : LawOfHolder t :=
  h.carry (fun z => by rw [f.zones]) (fun n z _ => .of_session (by rw [f.sessions]) f.config)
    fun e he => h.2 e (f.queue.subset he)

/-- A change of authority to one that stands, with the entries of a former holder gone, keeps the law. -/
theorem LawOfHolder.move {s t : State} (h : LawOfHolder s) {z : ZoneId} {a : Authority} {v : Value}
    (f : Follows (s.setAuthority z a v) t) (gone : EntriesGone s t z a) (stands : StandsIn s z a) : LawOfHolder t := by
  have ctx : SameContext s t :=
    (setAuthority_context s z a v).trans (.of_sessions f.config f.timeCount f.sessions)
  refine ⟨fun y => ?_, fun e he => ?_⟩
  · rw [zoneStanding_iff, f.zones, setAuthority_authority]
    split
    next hy => subst hy; exact stands.carry fun n _ => .of_context ctx n z
    next => exact (zoneStanding_iff.mp (h.1 y)).carry fun n _ => .of_context ctx n y
  · have hs := h.2 e ((State.setAuthority_queue s z a v) ▸ f.queue.subset he)
    unfold State.holds at hs ⊢
    rw [decide_eq_true_eq] at hs ⊢
    rw [f.zones, setAuthority_authority]
    split
    next hy => subst hy; exact gone e he rfl hs
    next => exact hs

theorem change_stands {s : State} (h : LawOfHolder s) {z : ZoneId} {a : Authority} {v : Value} (c : Change s z a v) :
    StandsIn s z a := by
  have hz := zoneStanding_iff.mp (h.1 z)
  cases c with
  | claim m fit free =>
    obtain ⟨ha, _, hp⟩ := eligible_iff.mp fit
    exact ⟨ha, hp⟩
  | release m held => trivial
  | handOver k p asked =>
    rw [asked] at hz
    obtain ⟨_, _, fit, _⟩ := hz
    obtain ⟨ha, _, hp⟩ := eligible_iff.mp fit
    exact ⟨ha, hp⟩
  | keep k p asked =>
    rw [asked] at hz
    exact ⟨hz.1, hz.2.1⟩
  | ask k p held fit other _ =>
    rw [held] at hz
    exact ⟨hz.1, hz.2, fit, other⟩
  | grant c settling =>
    rw [settling] at hz
    obtain ⟨ha, _, hp⟩ := eligible_iff.mp hz
    exact ⟨ha, hp⟩
  | clear faulted => trivial
  | fault expired => trivial

theorem LawOfHolder.faultZone {s : State} (h : LawOfHolder s) (z : ZoneId) : LawOfHolder (s.faultZone z) :=
  h.move (faultZone_follows s z) (faultZone_gone s z) trivial

@[simp] theorem takeEntry_authority (s : State) (e : Entry) (z : ZoneId) :
    (s.takeEntry e).zones[z].authority = s.zones[z].authority := by
  rw [takeEntry_zones]
  split
  · rfl
  · rw [setCommanded_authority]

theorem takeDueEntries_authority (s : State) (z : ZoneId) :
    s.takeDueEntries.zones[z].authority = s.zones[z].authority :=
  foldl_keeps (fun u : State => u.zones[z].authority) _ (fun _ _ => takeEntry_authority _ _ z) _ _

/-- Entries are queued again for the same poster and zone (R116). -/
theorem takeDueEntries_posters {s : State} {e : Entry} (he : e ∈ s.takeDueEntries.queue) :
    ∃ x ∈ s.queue, x.poster = e.poster ∧ x.zone = e.zone := by
  rcases List.mem_append.mp ((takeDueEntries_perm s).mem_iff.mp he) with hr | hk
  · obtain ⟨x, hx, hxe⟩ := List.mem_filterMap.mp hr
    obtain ⟨hp, hz⟩ := requeued_poster hxe
    exact ⟨x, (List.mem_filter.mp hx).1, hp.symm, hz.symm⟩
  · exact ⟨e, (List.mem_filter.mp hk).1, rfl, rfl⟩

theorem LawOfHolder.takeDueEntries {s : State} (h : LawOfHolder s) : LawOfHolder s.takeDueEntries :=
  h.carry (takeDueEntries_authority s) (fun n z _ => .of_session (by rw [State.takeDueEntries_sessions]) (by simp))
    fun e he => by
      obtain ⟨x, hx, hp, hz⟩ := takeDueEntries_posters he
      rw [← hp, ← hz]
      exact h.2 x hx

theorem LawOfHolder.dueEvent {s : State} (h : LawOfHolder s) : LawOfHolder s.dueEvent := by
  refine foldl_preserves (fun u z hu => ?_) allZones h.takeDueEntries
  unfold State.faultOvertaken
  split
  · exact hu.faultZone z
  · exact hu

theorem LawOfHolder.refresh {s : State} (h : LawOfHolder s) (i : InputId) : LawOfHolder (s.refresh i) :=
  h.carry (refresh_authority s i) (fun n z _ => .of_session (by rw [State.refresh_sessions]) (by simp))
    fun e he => h.2 e (by rwa [State.refresh_queue] at he)

theorem sessionAfterAppend_keeps (s : State) (n : Master) :
    (s.sessions[n].standing.isAttached = true → (s.sessionAfterAppend n).standing.isAttached = true) ∧
      (s.sessionAfterAppend n).strike = s.sessions[n].strike := by
  unfold State.sessionAfterAppend
  split
  · exact ⟨id, rfl⟩
  · split
    · exact ⟨fun _ => rfl, rfl⟩
    · exact ⟨id, rfl⟩

theorem LawOfHolder.recogniseChange {s : State} (h : LawOfHolder s) (i : InputId) (level : Level) :
    LawOfHolder (s.recogniseChange i level) := by
  have hr : LawOfHolder (s.recognise i level) := h
  unfold State.recogniseChange
  dsimp only
  refine LawOfHolder.refresh ?_ i
  split
  · refine hr.of_sessions (by simp) (by simp) (by simp) fun n z _ => ?_
    obtain ⟨_, _, hm⟩ := appendCapture_spec (s.recognise i level) i level
    unfold State.isAttached
    rw [(hm n).1]
    have hk := sessionAfterAppend_keeps (s.recognise i level) n
    exact ⟨hk.1, fun hf => hk.2.trans hf⟩
  · exact hr

/-! ### Session ends and strikes -/

theorem LawOfHolder.ended {r s t : State} {m : Master} (h : LawOfHolder r) (away : s.isAttached m = false)
    (hz : s.zones = r.zones) (hq : s.queue = r.queue) (before : ∀ n z, n ≠ m → KeepsStanding r s n z)
    (others : ∀ n z, n ≠ m → KeepsStanding s t n z)
    (hzt : ∀ z : ZoneId, t.zones[z].authority = s.endedAuthority m z)
    (hqt : t.queue = s.queue.filter fun e => decide (e.poster ≠ m)) : LawOfHolder t := by
  refine ⟨fun z => ?_, fun e he => ?_⟩
  · rw [zoneStanding_iff, hzt z]
    exact ended_stands (h.1 z) (by rw [hz]) away (fun n hn => before n z hn) fun n hn => others n z hn
  · rw [hqt, List.mem_filter, hq, decide_eq_true_eq] at he
    have hs := h.2 e he.1
    unfold State.holds at hs ⊢
    rw [decide_eq_true_eq] at hs ⊢
    rw [hzt, State.endedAuthority, hz]
    cases ha : r.zones[e.zone].authority with
    | held k =>
      rw [ha] at hs
      obtain rfl : k = e.poster := Option.some.inj hs
      simp [he.2, Authority.holder]
    | transfer k p =>
      rw [ha] at hs
      obtain rfl : k = e.poster := Option.some.inj hs
      simp only [he.2, if_false]
      split <;> rfl
    | _ => rw [ha] at hs; cases hs

theorem LawOfHolder.endSession {s : State} (h : LawOfHolder s) (m : Master) (r : Session)
    (away : r.standing.isAttached = false) : LawOfHolder ((s.withSession m r).endSession m) := by
  have ctx := endSession_context m (s.withSession m r)
  refine h.ended (s := s.withSession m r) (m := m) ?_ rfl rfl (fun n z hn => .of_session ?_ rfl)
    (fun n z _ => .of_context ctx n z) (fun z => (endSession_fields m _ z).1) (endSession_queue m _)
  · unfold State.isAttached
    rw [State.withSession_sessions, at_set_self]
    exact away
  · rw [State.withSession_sessions, at_set_ne _ hn.symm]

/-- A master without standing is named by no zone, so its session record does not matter. -/
theorem LawOfHolder.withSession_away {s : State} (h : LawOfHolder s) {m : Master} (away : s.isAttached m = false)
    (r : Session) : LawOfHolder (s.withSession m r) := by
  refine h.withSession m r fun ⟨z, hz⟩ => ?_
  have hst := zoneStanding_iff.mp (h.1 z)
  unfold State.playsAt State.holds State.requests State.isCandidate at hz
  cases ha : s.zones[z].authority with
  | held k =>
    rw [ha] at hz hst
    obtain rfl : k = m := by simpa [Authority.holder] using hz
    rw [hst.1] at away
    cases away
  | transfer k p =>
    rw [ha] at hz hst
    obtain ⟨hk, _, fit, _⟩ := hst
    have : k = m ∨ p.requester = m := by simpa [Authority.holder] using hz
    rcases this with rfl | rfl
    · rw [hk] at away; cases away
    · rw [(eligible_iff.mp fit).1] at away; cases away
  | settling c =>
    rw [ha] at hz hst
    obtain rfl : c.master = m := by simpa [Authority.holder] using hz
    rw [(eligible_iff.mp hst).1] at away
    cases away
  | dark => rw [ha] at hz; simp [Authority.holder] at hz
  | vacant => rw [ha] at hz; simp [Authority.holder] at hz
  | faulted => rw [ha] at hz; simp [Authority.holder] at hz

theorem LawOfHolder.not_attached {s : State} (h : LawOfHolder s) {m : Master} (hm : s.isAttached m = false) (z : ZoneId) :
    s.holds m z = false := by
  have hst := zoneStanding_iff.mp (h.1 z)
  by_contra hh
  rw [Bool.not_eq_false, State.holds, decide_eq_true_eq] at hh
  cases ha : s.zones[z].authority with
  | held k =>
    rw [ha] at hh hst
    obtain rfl : k = m := Option.some.inj hh
    rw [hst.1] at hm; cases hm
  | transfer k p =>
    rw [ha] at hh hst
    obtain rfl : k = m := Option.some.inj hh
    rw [hst.1] at hm; cases hm
  | _ => rw [ha] at hh; cases hh

theorem LawOfHolder.detach {s : State} (h : LawOfHolder s) (m : Master) : LawOfHolder (s.detach m) := by
  have finish : ∀ u : State, LawOfHolder u → u.isAttached m = false →
      LawOfHolder (((u.withAttention m .afterReset).withChangeSet m 0).withSession m .afterReset) := fun u hu ha =>
    LawOfHolder.withSession_away (s := (u.withAttention m .afterReset).withChangeSet m 0) hu ha _
  have away : (s.withSession m { s.sessions[m] with standing := .detached }).isAttached m = false := by
    unfold State.isAttached
    rw [State.withSession_sessions, at_set_self]
    rfl
  unfold State.detach
  dsimp only
  split
  next => exact finish _ (h.endSession m _ rfl) (((endSession_context m _).isAttached m).trans away)
  next hm => exact finish _ (h.withSession_away (by simpa using hm) _) away

theorem LawOfHolder.revoke {s : State} (h : LawOfHolder s) (m : Master) (reason : RevokeReason) :
    LawOfHolder (s.revoke m reason) := by
  have away : ((s.withRevoked m reason).signal m (.revoked reason)).isAttached m = false := by
    unfold State.isAttached State.withRevoked
    rw [State.signal_sessions, State.withSession_sessions, at_set_self]
    rfl
  refine h.ended away (by rw [State.signal_zones]; rfl) (by rw [State.signal_queue]; rfl)
    (fun n z hn => .of_session ?_ (by rw [State.signal_config]; rfl))
    (fun n z _ => .of_context (endSession_context m _) n z) (fun z => (endSession_fields m _ z).1) (endSession_queue m _)
  unfold State.withRevoked
  rw [State.signal_sessions, State.withSession_sessions, at_set_ne _ hn.symm]

theorem recordStrike_authority (s : State) (m : Master) (z : ZoneId) :
    (s.recordStrike m).zones[z].authority = (s.withStrike m).struckAuthority m z := by
  have ctx := signal_context (s.withStrike m) m .supervisionWarning
  rw [← ctx.struckAuthority m z (by rw [State.signal_zones])]
  exact (strikeFold_zone m _ z).1

theorem recordStrike_config (s : State) (m : Master) : (s.recordStrike m).config = s.config := State.recordStrike_config s m

theorem LawOfHolder.recordStrike {s : State} (h : LawOfHolder s) (m : Master) : LawOfHolder (s.recordStrike m) := by
  have hs := recordStrike_sessions m s
  have hc := State.recordStrike_config s m
  have hat : ∀ n, (s.recordStrike m).isAttached n = s.isAttached n := fun n => by
    unfold State.isAttached
    rw [hs, at_set]
    split
    next hm => subst hm; rfl
    next => rfl
  refine ⟨fun z => ?_, fun e he => ?_⟩
  · rw [zoneStanding_iff, recordStrike_authority]
    refine struck_stands (h.1 z) rfl (fun n hn => by rw [hat]; exact hn) (fun n => by unfold State.permits; rw [hc]; exact id)
      (fun n hn => .of_session (by rw [hs, at_set_ne _ hn.symm]) hc) fun n hn => ?_
    unfold State.eligible State.isAttached State.permits at hn ⊢
    rwa [hs, hc]
  · rw [State.recordStrike_queue] at he
    have hh := h.2 e he
    unfold State.holds at hh ⊢
    rw [recordStrike_authority, struckAuthority_holder]
    exact hh

/-! ### Parking, start-up and the configuration -/

theorem parkRefusal_none {s : State} {m : Master} (h : s.parkRefusal m = none) :
    s.sessions[m].standing.isParked = false ∧ s.heldCount m = 0 ∧ s.entryCount m = 0 ∧
      allZones.any (s.requests m) = false ∧ allZones.any (s.isCandidate m) = false ∧
      s.attention[m].flags &&& s.attention[m].enables = 0 := by
  unfold State.parkRefusal at h
  repeat' split at h
  all_goals simp_all [-Fin.getElem_fin]

theorem heldCount_zero_iff {s : State} {m : Master} : s.heldCount m = 0 ↔ ∀ z, s.holds m z = false := by
  unfold State.heldCount
  rw [List.countP_eq_zero]
  exact ⟨fun h z => by simpa using h z (mem_allZones z), fun h z _ => by simp [h z]⟩

theorem anyZone_false {p : ZoneId → Bool} (h : allZones.any p = false) (z : ZoneId) : p z = false := by
  rw [List.any_eq_false] at h
  simpa using h z (mem_allZones z)

theorem playsAt_of_park {s : State} {m : Master} (h : s.parkRefusal m = none) (z : ZoneId) : s.playsAt m z = false := by
  obtain ⟨_, hh, _, hr, hc, _⟩ := parkRefusal_none h
  unfold State.playsAt
  rw [heldCount_zero_iff.mp hh z, anyZone_false hr z, anyZone_false hc z]
  rfl

/-- A DARK zone names nobody and holds for nobody: in STARTING nothing is named. -/
theorem LawOfHolder.startUp {s : State} (hd : LawOfDriving s) (h : LawOfHolder s) : LawOfHolder s.startUp := by
  by_cases hs : s.device = .starting
  · have dark : ∀ z : ZoneId, s.zones[z].authority = .dark := fun z => (hd z).2.mpr (by rw [hs]; trivial)
    have idle : s.queue = [] := List.eq_nil_iff_forall_not_mem.mpr fun e he => by
      have := h.2 e he
      simp [State.holds, dark, Authority.holder, -Fin.getElem_fin] at this
    rw [startUp_of_starting hs]
    split
    next =>
      refine ⟨fun z => ?_, fun e he => by simp [State.withDecision, idle] at he⟩
      rw [zoneStanding_iff]
      change StandsIn _ z s.zones[z].authority
      rw [dark z]
      trivial
    next =>
      refine ⟨fun z => ?_, fun e he => by simp [State.withDecision, idle] at he⟩
      rw [zoneStanding_iff, enterService_authority]
      trivial
  · rw [startUp_of_ne hs]; exact h

theorem LawOfHolder.writeZoneConfig {s : State} (h : LawOfHolder s) {z : ZoneId} (c : ZoneConfig)
    (vacant : s.zones[z].authority = .vacant) : LawOfHolder (s.writeZoneConfig z c) := by
  have hq : (s.writeZoneConfig z c).queue = s.queue := State.putZone_queue ..
  have hs : (s.writeZoneConfig z c).sessions = s.sessions := State.putZone_sessions ..
  refine h.carry (fun y => ?_) (fun n y hn => ?_) fun e he => h.2 e (by rwa [hq] at he)
  · rw [writeZoneConfig_zones]
    split
    next hy => subst hy; rw [retimed_eq]; simp
    next => rfl
  · have hy : z ≠ y := by
      rintro rfl
      simp [State.playsAt, State.holds, State.requests, State.isCandidate, vacant, Authority.holder, -Fin.getElem_fin] at hn
    unfold KeepsStanding State.isAttached State.permits
    rw [hs, writeZoneConfig_config]
    dsimp only
    rw [at_set_ne _ hy]
    exact ⟨id, id, id⟩

/-! ### Every effect keeps the law -/

theorem LawOfHolder.acknowledge {s : State} (h : LawOfHolder s) (m : Master) (named : FlagSet) :
    LawOfHolder (s.acknowledge m named) := by
  unfold State.acknowledge
  dsimp only
  split
  · exact LawOfHolder.withSession (s := s.withAttention m _) h m _ fun _ => ⟨id, fun _ => rfl⟩
  · exact h

theorem lawOfHolder_effect {s t : State} (hd : LawOfDriving s) (h : LawOfHolder s) (made : Effect s t) : LawOfHolder t := by
  cases made with
  | follow _ f => exact h.follows f
  | move z a v _ c f gone => exact h.move f gone (change_stands h c)
  | acknowledge m named _ => exact h.acknowledge m named
  | readCaptures m c n here =>
    have hw : LawOfHolder (s.withSession m { s.sessions[m] with
        standing := .attached (cursorPast c ((s.unread c).take n)) }) := h.withSession m _ fun _ => ⟨fun _ => rfl, id⟩
    exact hw.of_sessions (State.freeRing_zones _) (State.freeRing_config _) (State.freeRing_queue _) fun n z _ => by
      unfold State.isAttached
      rw [State.readCaptures, State.reply_state, State.freeRing_sessions]
      exact ⟨id, id⟩
  | attach m mode period away _ _ _ => exact h.withSession_away away _
  | detach m _ => exact h.detach m
  | park m _ free =>
    have hw : LawOfHolder (s.withSession m { s.sessions[m] with standing := .parked s.nextSerial, timer := .stopped }) :=
      h.withSession m _ fun ⟨z, hz⟩ => by rw [playsAt_of_park free z] at hz; cases hz
    exact hw.of_sessions (State.freeRing_zones _) (State.freeRing_config _) (State.freeRing_queue _) fun n z _ => by
      unfold State.isAttached
      rw [State.park, State.freeRing_sessions]
      exact ⟨id, id⟩
  | unpark m k parked =>
    have ha : s.isAttached m = false := by unfold State.isAttached; rw [parked]; rfl
    unfold State.unpark
    dsimp only
    split
    · exact h.withSession_away ha _
    · exact (h.withSession_away ha _).follows (signal_follows _ _ _ fun _ h => by cases h)
  | revoke m reason _ => exact h.revoke m reason
  | strike m _ => exact h.recordStrike m
  | expire m _ _ _ => exact (h.recordStrike m).withTimer m _
  | renewOpen m _ _ _ => exact h.withTimer m _
  | renewRunning m _ _ _ => exact h.withTimer m _
  | windowOpen m _ _ => exact h.withTimer m _
  | supervise m _ _ _ _ => exact h.withSession m _ fun _ => ⟨id, id⟩
  | setOutput z m v _ _ =>
    exact h.carry (fun y => setCommanded_authority s z y v) (fun n y _ => .of_session (by simp) (by simp))
      fun e he => h.2 e (by rwa [State.setCommanded_queue] at he)
  | sense z v =>
    refine h.carry (fun y => ?_) (fun n y _ => .of_session rfl rfl) h.2
    unfold State.sensedChange
    rw [State.withZone_zones, at_set]
    split
    next hy => subst hy; exact Zone.sense_authority ..
    next => rfl
  | due => exact h.dueEvent
  | post e holds _ =>
    refine h.carry (fun z => rfl) (fun n z _ => .of_session rfl rfl) fun x hx => ?_
    rcases List.mem_cons.mp ((insertEntry_perm e s.queue).mem_iff.mp hx) with rfl | hx
    · exact holds
    · exact h.2 x hx
  | establish i level _ _ => exact LawOfHolder.refresh (s := s.recognise i level) h i
  | change i level _ _ _ => exact h.recogniseChange i level
  | writeZoneConfig z c vacant _ => exact h.writeZoneConfig c vacant
  | writeInputConfig i c _ => exact LawOfHolder.refresh (s := (s.withInputConfig i c).establish i) h i
  | startUp _ => exact h.startUp hd
  | storeFailed m image device =>
    exact LawOfHolder.follows (s := s.withDevice .commissioning) h (signal_follows _ _ _ fun _ h => by cases h)
  | _ => exact h

theorem lawOfHolder_kept : KeptByEffects fun s => LawOfDriving s ∧ LawOfHolder s :=
  fun s t h made => ⟨lawOfDriving_kept s t h.1 made, lawOfHolder_effect h.1 h.2 made⟩

theorem lawOfHolder_restart (s : State) (cause : ResetCause) (cfg : Level) : LawOfHolder (s.restart cause cfg) := by
  refine ⟨fun z => ?_, fun e he => by simp [State.restart, State.reset] at he⟩
  have hz : (s.restart cause cfg).zones[z] = .afterReset s.zones[z].sensed := by simp [State.restart]
  rw [zoneStanding_iff, hz]
  trivial

/-- Settles O7: a change of authority names only masters that its guards or the zone before it made fit, and takes the
entries of a holder it ends; a master that loses its standing is dropped from every zone with it. The law of driving
goes along, since it keeps the zones DARK, and so without entries, until the start-up decision. -/
theorem everyStepKeepsTheLawOfTheHolder : Obligations.EveryStepKeepsTheLawOfTheHolder := by
  intro s t hd h hs
  exact (step_keeps lawOfHolder_kept (fun _ _ _ _ _ h => h)
    (fun s cause cfg => ⟨lawOfDriving_restart s cause cfg, lawOfHolder_restart s cause cfg⟩)
    (advance_keeps lawOfHolder_kept fun _ h => h) ⟨hd, h⟩ hs).2

end Sys2Proof.Machine

/-! PROOFS. The law of inhibits (R148, R6): memberships follow the inputs, and no zone without a commanding master
carries anything but its fallback value. -/

namespace Sys2Proof.Machine

/-! ### What carries the law -/

theorem LawOfInhibit.carry {s t : State} (h : LawOfInhibit s)
    (hd : t.device.outOfService → s.device.outOfService)
    (hl : ∀ i : InputId, s.inputs[i].live = .disabled → t.inputs[i].live = .disabled)
    (hi : ∀ i z, t.inhibits i z = s.inhibits i z)
    (hz : ∀ z : ZoneId, t.zones[z].inhibit = s.zones[z].inhibit)
    (hc : ∀ z : ZoneId, t.zones[z].authority ≠ .dark → t.zones[z].authority.holder = none ∨ s.zones[z].inhibit ≠ 0 →
      t.zones[z].commanded = t.fallback z) : LawOfInhibit t := by
  obtain ⟨hlive, hbits, _⟩ := h
  exact ⟨fun x i => hl i (hlive (hd x) i), fun z i => by rw [hz, hi]; exact hbits z i, fun z => by rw [hz]; exact hc z⟩

theorem inhibits_congr {s t : State} (hi : t.inputs = s.inputs) (hc : t.config.inputs = s.config.inputs) (i : InputId)
    (z : ZoneId) : t.inhibits i z = s.inhibits i z := by
  unfold State.inhibits State.forcing
  rw [hi, hc]

/-- Where inputs, configuration and device stay, the law asks only about the records of the zones. -/
theorem LawOfInhibit.of_zones {s t : State} (h : LawOfInhibit s) (hi : t.inputs = s.inputs) (hc : t.config = s.config)
    (hd : t.device = s.device) (hz : ∀ z : ZoneId, t.zones[z].inhibit = s.zones[z].inhibit)
    (hv : ∀ z : ZoneId, t.zones[z].authority ≠ .dark → t.zones[z].authority.holder = none ∨ s.zones[z].inhibit ≠ 0 →
      t.zones[z].commanded = s.fallback z) : LawOfInhibit t :=
  h.carry (by rw [hd]; exact id) (fun i => by rw [hi]; exact id) (inhibits_congr hi (by rw [hc])) hz
    fun z => by unfold State.fallback; rw [hc]; exact hv z

theorem LawOfInhibit.kept {s t : State} (h : LawOfInhibit s) (hz : t.zones = s.zones) (hi : t.inputs = s.inputs)
    (hc : t.config = s.config) (hd : t.device = s.device) : LawOfInhibit t :=
  h.of_zones hi hc hd (fun z => by rw [hz]) fun z => by rw [hz]; exact h.2.2 z

theorem LawOfInhibit.follows {s t : State} (h : LawOfInhibit s) (f : Follows s t) : LawOfInhibit t :=
  h.kept f.zones f.inputs f.config f.device

/-! ### Changes of authority -/

@[simp] theorem setAuthority_inhibit (s : State) (z y : ZoneId) (a : Authority) (v : Value) :
    (s.setAuthority z a v).zones[y].inhibit = s.zones[y].inhibit := by
  rw [State.setAuthority_zones]
  split
  next h => subst h; simp [Zone.reassign]
  next => rfl

theorem setAuthority_commanded (s : State) (z y : ZoneId) (a : Authority) (v : Value) :
    (s.setAuthority z a v).zones[y].commanded = if z = y then v else s.zones[y].commanded := by
  rw [State.setAuthority_zones]
  split
  · simp [Zone.reassign]
  · rfl

/-- A change of authority keeps the law where it commands the fallback value for no holder and under an inhibit. -/
theorem LawOfInhibit.move {s t : State} (h : LawOfInhibit s) {z : ZoneId} {a : Authority} {v : Value}
    (f : Follows (s.setAuthority z a v) t) (hv : a.holder = none ∨ s.zones[z].inhibit ≠ 0 → v = s.fallback z) :
    LawOfInhibit t := by
  refine LawOfInhibit.follows (h.of_zones (State.setAuthority_inputs ..) (State.setAuthority_config ..)
    (State.setAuthority_device ..) (fun y => setAuthority_inhibit s z y a v) fun y => ?_) f
  rw [setAuthority_authority, setAuthority_commanded]
  split
  next hy => subst hy; exact fun _ => hv
  next => exact h.2.2 y

theorem change_fallback {s : State} (h : LawOfInhibit s) {z : ZoneId} {a : Authority} {v : Value} (c : Change s z a v)
    (ha : a.holder = none ∨ s.zones[z].inhibit ≠ 0) : v = s.fallback z := by
  have old : ∀ k, a.holder = some k → s.zones[z].authority ≠ .dark → s.zones[z].commanded = s.fallback z :=
    fun k hk lit => h.2.2 z lit (.inr (ha.resolve_left fun hn => by rw [hn] at hk; cases hk))
  cases c with
  | handOver k p asked => exact old p.requester rfl (by rw [asked]; simp)
  | keep k p asked => exact old k rfl (by rw [asked]; simp)
  | ask k p held _ _ _ => exact old k rfl (by rw [held]; simp)
  | _ => rfl

theorem LawOfInhibit.faultZone {s : State} (h : LawOfInhibit s) (z : ZoneId) : LawOfInhibit (s.faultZone z) :=
  h.move (faultZone_follows s z) fun _ => rfl

/-! ### Due entries -/

theorem setCommanded_commanded (s : State) (z y : ZoneId) (v : Value) :
    (s.setCommanded z v).zones[y].commanded = if z = y then v else s.zones[y].commanded := by
  unfold State.setCommanded
  rw [State.putZone_zones]
  split
  · rw [Zone.drive_commanded]
  · rfl

/-- A zone that is held and not inhibited may carry any value. -/
theorem LawOfInhibit.setCommanded {s : State} (h : LawOfInhibit s) {z : ZoneId} {m : Master}
    (holds : s.zones[z].authority.holder = some m) (clear : s.zones[z].inhibit = 0) (v : Value) :
    LawOfInhibit (s.setCommanded z v) := by
  refine h.of_zones (by simp) (by simp) (by simp) (fun y => setCommanded_inhibit s z y v) fun y => ?_
  rw [setCommanded_authority, setCommanded_commanded]
  split
  next hy =>
    subst hy
    rw [holds, clear]
    exact fun _ x => by simp at x
  next => exact h.2.2 y

theorem LawOfInhibit.takeEntry {s : State} (h : LawOfInhibit s) {e : Entry} (holds : s.holds e.poster e.zone = true) :
    LawOfInhibit (s.takeEntry e) := by
  have hz := takeEntry_zones s e
  rw [State.holds, decide_eq_true_eq] at holds
  split at hz
  next => exact h.kept hz (by simp) (by simp) (by simp)
  next hi => exact (h.setCommanded holds (by simpa using hi) (s.dueValue e)).kept hz (by simp) (by simp) (by simp)

theorem LawOfInhibit.takeEntries (l : List Entry) {s : State} (h : LawOfInhibit s)
    (holds : ∀ e ∈ l, s.holds e.poster e.zone = true) : LawOfInhibit (l.foldl State.takeEntry s) := by
  induction l generalizing s with
  | nil => exact h
  | cons e l ih =>
    refine ih (h.takeEntry (holds e (by simp))) fun x hx => ?_
    unfold State.holds
    rw [takeEntry_authority]
    exact holds x (by simp [hx])

theorem LawOfInhibit.dueEvent {s : State} (h : LawOfInhibit s) (hh : LawOfHolder s) : LawOfInhibit s.dueEvent := by
  refine foldl_preserves (fun u z hu => ?_) allZones
    (LawOfInhibit.takeEntries (s.queue.filter s.isDue) (s := s.removeEntries s.isDue) h fun e he =>
      hh.2 e (List.mem_filter.mp he).1)
  unfold State.faultOvertaken
  split
  · exact hu.faultZone z
  · exact hu

/-! ### Session ends and strikes -/

theorem endedAuthority_holder {s : State} {m : Master} {z : ZoneId} (hm : s.holds m z = false) :
    (s.endedAuthority m z).holder = s.zones[z].authority.holder := by
  unfold State.holds at hm
  unfold State.endedAuthority
  cases ha : s.zones[z].authority with
  | held k =>
    have hk : k ≠ m := by simpa [ha, Authority.holder, -Fin.getElem_fin] using hm
    simp only [hk, if_false]
  | transfer k p =>
    have hk : k ≠ m := by simpa [ha, Authority.holder, -Fin.getElem_fin] using hm
    simp only [hk, if_false]
    split <;> rfl
  | settling c =>
    dsimp only
    split
    · rw [settledBy_holder]; rfl
    · rfl
  | _ => rfl

theorem endedAuthority_dark {s : State} {m : Master} {z : ZoneId} (h : s.endedAuthority m z ≠ .dark) :
    s.zones[z].authority ≠ .dark := by
  intro hd
  rw [State.endedAuthority, hd] at h
  exact h rfl

theorem LawOfInhibit.endSession {s : State} (h : LawOfInhibit s) (m : Master) : LawOfInhibit (s.endSession m) := by
  refine h.of_zones (State.endSession_inputs ..) (State.endSession_config ..) (State.endSession_device ..)
    (fun z => ?_) fun z => ?_
  · obtain ⟨_, _, _, hi, _⟩ := endSession_fields m s z
    exact hi
  · obtain ⟨ha, _, hc, _, _⟩ := endSession_fields m s z
    rw [ha, hc]
    intro hd hn
    unfold State.endedCommanded
    split
    next => rfl
    next hm =>
      rw [not_or, Bool.not_eq_true] at hm
      rw [endedAuthority_holder hm.1] at hn
      exact h.2.2 z (endedAuthority_dark hd) hn

theorem struckAuthority_dark {s : State} {m : Master} {z : ZoneId} (h : s.struckAuthority m z ≠ .dark) :
    s.zones[z].authority ≠ .dark := by
  intro hd
  rw [State.struckAuthority, hd] at h
  exact h rfl

theorem LawOfInhibit.recordStrike {s : State} (h : LawOfInhibit s) {m : Master}
    (here : s.sessions[m].standing ≠ .detached) : LawOfInhibit (s.recordStrike m) := by
  have zone := (recordStrike_spec m s here).1
  refine h.of_zones (State.recordStrike_inputs ..) (State.recordStrike_config ..) (State.recordStrike_device ..)
    (fun z => ?_) fun z => ?_
  · obtain ⟨_, _, _, hi, _⟩ := zone z
    exact hi
  · obtain ⟨ha, _, hc, _, _⟩ := zone z
    rw [ha, hc, struckAuthority_holder]
    intro hd hn
    split
    next => rfl
    next => exact h.2.2 z (struckAuthority_dark (s := s.withStrike m) hd) hn

theorem attached_ne_detached {s : State} {m : Master} (h : s.isAttached m = true) : s.sessions[m].standing ≠ .detached := by
  unfold State.isAttached at h
  intro hd
  rw [hd] at h
  cases h

/-! ### Inputs -/

theorem sample_forces (now : TimeCount) (level f : Level) (l : InputLive) :
    (l.sample now level).forces f = l.forces f := by
  unfold InputLive.sample
  split
  · rfl
  · rfl
  · split <;> rfl
  · split <;> rfl
  · split <;> rfl

theorem LawOfInhibit.sampleInput {s : State} (h : LawOfInhibit s) (i : InputId) (level : Level) :
    LawOfInhibit (s.sampleInput i level) := by
  have hin : ∀ j : InputId, (s.sampleInput i level).inputs[j] =
      if i = j then ⟨level, s.inputs[i].live.sample s.timeCount level⟩ else s.inputs[j] := fun j => at_set ..
  refine h.carry id (fun j hj => ?_) (fun j z => ?_) (fun z => rfl) h.2.2
  · rw [hin]
    split
    next hi => subst hi; dsimp only; rw [hj]; rfl
    next => exact hj
  · unfold State.inhibits State.forcing
    rw [hin]
    split
    next hi => subst hi; dsimp only; rw [sample_forces]; rfl
    next => rfl

@[simp] theorem refresh_inhibits (s : State) (i j : InputId) (z : ZoneId) : (s.refresh i).inhibits j z = s.inhibits j z :=
  inhibits_congr (State.refresh_inputs ..) (by rw [State.refresh_config]) j z

@[simp] theorem refresh_fallback (s : State) (i : InputId) (z : ZoneId) : (s.refresh i).fallback z = s.fallback z := by
  unfold State.fallback
  rw [State.refresh_config]

theorem refresh_bit (s : State) (i j : InputId) (z : ZoneId) :
    (s.refresh i).zones[z].inhibit.getLsbD j.val =
      if j = i then s.inhibits i z else s.zones[z].inhibit.getLsbD j.val := by
  rw [((refresh_spec s i).1 z).1 j, refresh_inhibits]

theorem refresh_commanded (s : State) (i : InputId) (z : ZoneId) :
    (s.refresh i).zones[z].commanded =
      if s.zones[z].inhibit = 0 ∧ (s.refresh i).zones[z].inhibit ≠ 0 then s.fallback z else s.zones[z].commanded := by
  obtain ⟨_, _, _, hc, _⟩ := (refresh_spec s i).1 z
  exact hc

/-- The setting of one input's memberships, after a change of that input alone, restores the law. -/
theorem LawOfInhibit.refresh {s u : State} (h : LawOfInhibit s) (i : InputId) (hz : u.zones = s.zones)
    (hf : ∀ z, u.fallback z = s.fallback z) (others : ∀ j z, j ≠ i → u.inhibits j z = s.inhibits j z)
    (service : ¬ u.device.outOfService) : LawOfInhibit (u.refresh i) := by
  have out : ¬ (u.refresh i).device.outOfService := by rw [State.refresh_device]; exact service
  refine ⟨out.elim, fun z j => ?_, fun z lit hn => ?_⟩
  · rw [refresh_bit, refresh_inhibits]
    split
    next hj => rw [hj]
    next hj => rw [hz, others j z hj]; exact h.2.1 z j
  · rw [refresh_authority, hz] at lit hn
    rw [refresh_commanded, refresh_fallback, hz, hf]
    split
    next => rfl
    next hc =>
      refine h.2.2 z lit (hn.imp_right fun hi hs => hc ⟨hs, hi⟩)

theorem withInput_inhibits (s : State) (i j : InputId) (r : Input) (z : ZoneId) (h : j ≠ i) :
    (s.withInput i r).inhibits j z = s.inhibits j z := by
  unfold State.inhibits State.forcing
  rw [State.withInput_inputs, at_set_ne _ h.symm]
  rfl

theorem LawOfInhibit.service {s : State} (h : LawOfInhibit s) {i : InputId} (live : s.inputs[i].live ≠ .disabled) :
    ¬ s.device.outOfService := fun x => live (h.1 x i)

theorem LawOfInhibit.recogniseChange {s : State} (h : LawOfInhibit s) {i : InputId} (level : Level)
    (live : s.inputs[i].live ≠ .disabled) : LawOfInhibit (s.recogniseChange i level) := by
  have hs := h.service live
  unfold State.recogniseChange
  dsimp only
  split
  · refine h.refresh i (by simp) (fun z => ?_) (fun j z hj => ?_) (by simpa using hs)
    · unfold State.fallback; simp
    · rw [inhibits_congr (s := s.recognise i level) (by simp) (by simp)]
      exact withInput_inhibits s i j _ z hj
  · exact h.refresh i rfl (fun z => rfl) (fun j z hj => withInput_inhibits s i j _ z hj) hs

theorem LawOfInhibit.writeInputConfig {s : State} (h : LawOfInhibit s) (i : InputId) (c : InputConfig)
    (service : ¬ s.device.outOfService) : LawOfInhibit (s.writeInputConfig i c) := by
  refine h.refresh (u := (s.withInputConfig i c).establish i) i rfl (fun z => rfl) (fun j z hj => ?_) service
  refine (withInput_inhibits _ i j _ z hj).trans ?_
  have hc : (s.withInputConfig i c).config.inputs[j] = s.config.inputs[j] := at_set_ne _ hj.symm c
  unfold State.inhibits State.forcing
  rw [hc]
  rfl

/-! ### Start-up -/

theorem refreshAll_inhibits (l : List InputId) (s : State) (j : InputId) (z : ZoneId) :
    (l.foldl State.refresh s).inhibits j z = s.inhibits j z :=
  foldl_keeps (fun u : State => u.inhibits j z) _ (fun u i => refresh_inhibits u i j z) l s

theorem refreshAll_bit (l : List InputId) (s : State) (j : InputId) (z : ZoneId) :
    (l.foldl State.refresh s).zones[z].inhibit.getLsbD j.val =
      if j ∈ l then s.inhibits j z else s.zones[z].inhibit.getLsbD j.val := by
  induction l generalizing s with
  | nil => simp
  | cons i l ih =>
    rw [List.foldl_cons, ih, refresh_bit, refresh_inhibits]
    by_cases hj : j ∈ l
    · simp [hj]
    · by_cases hi : j = i
      · subst hi; simp
      · simp [hj, hi]

theorem enterService_bit (s : State) (j : InputId) (z : ZoneId) :
    s.enterService.zones[z].inhibit.getLsbD j.val = s.enterService.inhibits j z := by
  unfold State.enterService
  rw [refreshAll_bit, refreshAll_inhibits, if_pos (mem_allInputs j)]

@[simp] theorem State.enterService_fallback (s : State) (z : ZoneId) : s.enterService.fallback z = s.fallback z := by
  unfold State.fallback
  rw [State.enterService_config]

theorem enterService_commanded (s : State) (z : ZoneId) : s.enterService.zones[z].commanded = s.fallback z := by
  refine (enterService_preserves (P := fun u => u.zones[z].commanded = s.fallback z ∧ u.fallback z = s.fallback z)
    ⟨?_, ?_⟩ fun u i hu => ?_).1
  · rw [establishAll_zones, lightZones_zone]
    simp [Zone.reassign]
  · unfold State.fallback
    rw [foldl_keeps State.config _ (fun _ _ => by simp) allInputs _,
      foldl_keeps State.config State.lightZone (fun _ _ => by simp [State.lightZone]) allZones _]
  · rw [refresh_commanded, refresh_fallback]
    split
    · exact ⟨hu.2, hu.2⟩
    · exact hu

theorem LawOfInhibit.startUp {s : State} (hd : LawOfDriving s) (h : LawOfInhibit s) : LawOfInhibit s.startUp := by
  by_cases hs : s.device = .starting
  · have out : s.device.outOfService := by rw [hs]; trivial
    rw [startUp_of_starting hs]
    split
    next =>
      refine ⟨fun _ i => h.1 out i, fun z i => ?_, fun z lit => absurd ((hd z).2.mpr out) lit⟩
      refine (h.2.1 z i).trans ?_
      unfold State.inhibits State.forcing
      have hi : (s.withDecision s.store.read).inputs[i].live = .disabled := h.1 out i
      rw [h.1 out i, hi]
      rfl
    next hdev =>
      have service : ¬ (s.withDecision s.store.read).enterService.device.outOfService := by
        rw [State.enterService_device]; exact decided_service s hdev
      refine ⟨service.elim, fun z i => enterService_bit _ i z, fun z _ _ => ?_⟩
      rw [enterService_commanded, State.enterService_fallback]
  · rw [startUp_of_ne hs]; exact h

/-! ### Every effect keeps the law -/

theorem LawOfInhibit.writeZoneConfig {s : State} (h : LawOfInhibit s) (z : ZoneId) (c : ZoneConfig) :
    LawOfInhibit (s.writeZoneConfig z c) := by
  have hi : (s.writeZoneConfig z c).inputs = s.inputs := State.putZone_inputs ..
  have hd : (s.writeZoneConfig z c).device = s.device := State.putZone_device ..
  refine h.carry (by rw [hd]; exact id) (fun i => by rw [hi]; exact id)
    (inhibits_congr hi (by rw [writeZoneConfig_config])) (fun y => ?_) fun y => ?_
  · rw [writeZoneConfig_zones]
    split
    next hy => subst hy; rw [retimed_eq]; simp
    next => rfl
  · unfold State.fallback
    rw [writeZoneConfig_zones, writeZoneConfig_config]
    dsimp only
    rw [at_set]
    split
    next => intro _ _; rw [Zone.drive_commanded]
    next => exact h.2.2 y

theorem LawOfInhibit.detach {s : State} (h : LawOfInhibit s) (m : Master) : LawOfInhibit (s.detach m) := by
  have hs : LawOfInhibit (s.withSession m { s.sessions[m] with standing := .detached }) := h
  unfold State.detach
  dsimp only
  split
  · exact (hs.endSession m).kept (by simp) (by simp) (by simp) (by simp)
  · exact h

theorem lawOfInhibit_effect {s t : State} (hd : LawOfDriving s) (hh : LawOfHolder s) (h : LawOfInhibit s)
    (made : Effect s t) : LawOfInhibit t := by
  cases made with
  | follow _ f => exact h.follows f
  | move z a v _ c f _ => exact h.move f (change_fallback h c)
  | detach m _ => exact h.detach m
  | revoke m reason _ =>
    exact LawOfInhibit.endSession (h.kept (by rw [State.signal_zones]; rfl) (by rw [State.signal_inputs]; rfl)
      (by rw [State.signal_config]; rfl) (by rw [State.signal_device]; rfl)) m
  | strike m here => exact h.recordStrike (attached_ne_detached here)
  | expire m _ here _ => exact (h.recordStrike (attached_ne_detached here)).kept (by simp) (by simp) (by simp) (by simp)
  | setOutput z m v holds clear => exact h.setCommanded holds clear v
  | sense z v =>
    have hz : ∀ y : ZoneId, (s.sensedChange z v).zones[y].inhibit = s.zones[y].inhibit ∧
        (s.sensedChange z v).zones[y].authority = s.zones[y].authority ∧
        (s.sensedChange z v).zones[y].commanded = s.zones[y].commanded := fun y => by
      unfold State.sensedChange
      rw [State.withZone_zones, at_set]
      split
      next hy => subst hy; simp
      next => exact ⟨rfl, rfl, rfl⟩
    exact h.of_zones rfl rfl rfl (fun y => (hz y).1) fun y => by rw [(hz y).2.1, (hz y).2.2]; exact h.2.2 y
  | due => exact h.dueEvent hh
  | sample i level => exact h.sampleInput i level
  | establish i level _ live =>
    exact h.refresh i rfl (fun z => rfl) (fun j z hj => withInput_inhibits s i j _ z hj) (h.service (by rw [live]; simp))
  | change i level _ _ live => exact h.recogniseChange level (by rw [live]; simp)
  | writeZoneConfig z c _ _ => exact h.writeZoneConfig z c
  | writeInputConfig i c service => exact h.writeInputConfig i c service
  | commit m device => exact h.carry (fun x => x.elim) (fun _ => id) (fun _ _ => rfl) (fun _ => rfl) h.2.2
  | storeFailed m image device =>
    exact LawOfInhibit.follows (s := s.withDevice .commissioning)
      (h.carry (fun x => x.elim) (fun _ => id) (fun _ _ => rfl) (fun _ => rfl) h.2.2)
      (signal_follows _ _ _ fun _ h => by cases h)
  | startUp _ => exact h.startUp hd
  | acknowledge m named _ =>
    exact h.kept (by rw [acknowledge_frame]) (by rw [acknowledge_frame]) (by rw [acknowledge_frame]) (by rw [acknowledge_frame])
  | readCaptures m c n _ =>
    exact h.kept (by rw [readCaptures_frame]) (by rw [readCaptures_frame]) (by rw [readCaptures_frame])
      (by rw [readCaptures_frame])
  | park m _ _ => exact h.kept (by rw [park_frame]) (by rw [park_frame]) (by rw [park_frame]) (by rw [park_frame])
  | unpark m k _ =>
    exact h.kept (by rw [unpark_frame]) (by rw [unpark_frame]) (by rw [unpark_frame]) (by rw [unpark_frame])
  | _ => exact h

theorem lawOfInhibit_kept : KeptByEffects fun s => (LawOfDriving s ∧ LawOfHolder s) ∧ LawOfInhibit s :=
  fun s t h made => ⟨lawOfHolder_kept s t h.1 made, lawOfInhibit_effect h.1.1 h.1.2 h.2 made⟩

theorem lawOfInhibit_restart (s : State) (cause : ResetCause) (cfg : Level) : LawOfInhibit (s.restart cause cfg) := by
  have hz : ∀ z : ZoneId, (s.restart cause cfg).zones[z] = .afterReset s.zones[z].sensed := fun z => by simp [State.restart]
  have hi : ∀ i : InputId, (s.restart cause cfg).inputs[i] = .afterReset s.inputs[i].raw := fun i => by simp [State.restart]
  refine ⟨fun _ i => by rw [hi]; rfl, fun z i => ?_, fun z lit => absurd (by rw [hz]; rfl) lit⟩
  unfold State.inhibits State.forcing
  rw [hz, hi]
  simp [Zone.afterReset, Input.afterReset, InputLive.forces]

/-- Settles O11: memberships are set again wherever an input or its configuration changes, a zone loses its holder only
to its fallback value, and an entry is taken only where its poster, the holder, may command. The laws of driving and of
the holder go along: they give the DARK zones of the start-up decision, and the holder of every entry's zone. -/
theorem everyStepKeepsTheLawOfInhibits : Obligations.EveryStepKeepsTheLawOfInhibits := by
  intro s t hd hh h hs
  exact (step_keeps lawOfInhibit_kept (fun _ _ _ _ _ h => h)
    (fun s cause cfg => ⟨⟨lawOfDriving_restart s cause cfg, lawOfHolder_restart s cause cfg⟩, lawOfInhibit_restart s cause cfg⟩)
    (advance_keeps lawOfInhibit_kept fun _ h => h) ⟨⟨hd, hh⟩, h⟩ hs).2

end Sys2Proof.Machine

/-! PROOFS. The due event (R96 to R99, R114 to R119) and entry into FAULTED (R127, R128): what the entries taken tell and
set, and what the faults they overtook do after them. -/

namespace Sys2Proof.Machine

/-! ### What one entry tells -/

/-- What reaches nobody's change set, told to one master. -/
def toldTo (m : Master) (events : List Signal) (n : Master) : List Signal := if n = m then events else []

theorem signal_toldTo (s : State) (m : Master) (e : Signal) :
    Tells s (s.signal m e) (fun _ => false) (toldTo m [e]) := signal_tells s m e

theorem tells_nothing {s t : State} (hc : t.changeSets = s.changeSets) (ha : t.attention = s.attention)
    (hs : t.sessions = s.sessions) (m : Master) : Tells s t (fun _ => false) (toldTo m []) :=
  (Tells.of_eq hc ha fun n => by rw [hs]).congr (fun _ => rfl) fun n => by simp [toldTo]

theorem Tells.toldTo_trans {s t u : State} {m : Master} {e₁ e₂ : List Signal}
    (h : Tells s t (fun _ => false) (toldTo m e₁)) (k : Tells t u (fun _ => false) (toldTo m e₂)) :
    Tells s u (fun _ => false) (toldTo m (e₁ ++ e₂)) :=
  (h.trans k).congr (fun _ => rfl) fun n => by unfold toldTo; split <;> simp

theorem tellDone_tells (s : State) (e : Entry) (kind : DoneKind) (notify : Bool) :
    Tells s (s.tellDone e kind notify) (fun _ => false)
      (toldTo e.poster (if notify then [.actionDone e.tag e.zone kind] else [])) := by
  unfold State.tellDone
  split
  · exact signal_toldTo s _ _
  · exact tells_nothing rfl rfl rfl _

/-- What a step tells once it has been applied (R115, R117). -/
def goOnReports (e : Entry) (r : Step) : List Signal :=
  match r.link with
  | none => [.actionDone e.tag e.zone .sequenceEnd]
  | some _ => if e.due.toNat + r.delay.toNat < 2 ^ 48 then [] else [.actionDropped e.tag e.zone .timeEnd]

theorem goOn_tells (s : State) (e : Entry) (r : Step) :
    Tells s (s.goOn e r) (fun _ => false) (toldTo e.poster (goOnReports e r)) := by
  unfold State.goOn goOnReports
  cases r.link with
  | none => exact signal_toldTo s _ _
  | some k =>
    dsimp only
    by_cases h : 2 ^ 48 ≤ e.due.toNat + r.delay.toNat
    · rw [if_pos h, if_neg (by omega)]
      exact signal_toldTo s _ _
    · rw [if_neg h, if_pos (by omega)]
      exact tells_nothing (by simp) (by simp) (by simp) _

theorem takeEntry_tells (s : State) (e : Entry) :
    Tells s (s.takeEntry e) (fun _ => false) (toldTo e.poster (s.entryReports e)) := by
  unfold State.takeEntry State.entryReports
  split
  next => exact signal_toldTo s _ _
  next =>
    have set : ∀ v, Tells s (s.setCommanded e.zone v) (fun _ => false) (toldTo e.poster []) := fun v =>
      tells_nothing (by simp) (by simp) (by simp) _
    cases e.kind with
    | single v notify => exact (set v).toldTo_trans (tellDone_tells _ e .applied notify)
    | sequence k => exact ((set _).toldTo_trans (tellDone_tells _ e .step _)).toldTo_trans (goOn_tells _ e _)

theorem entryReports_congr {s t : State} {e : Entry} (hb : t.banks = s.banks)
    (hi : t.zones[e.zone].inhibit = s.zones[e.zone].inhibit) : t.entryReports e = s.entryReports e := by
  unfold State.entryReports
  rw [hb, hi]

theorem dueValue_congr {s t : State} (hb : t.banks = s.banks) (e : Entry) : t.dueValue e = s.dueValue e := by
  unfold State.dueValue
  rw [hb]

/-- The entries taken one after another, each poster told in order. -/
theorem takeEntries_tells (s : State) (l : List Entry) :
    ∀ t : State, t.banks = s.banks → (∀ z : ZoneId, t.zones[z].inhibit = s.zones[z].inhibit) →
      Tells t (l.foldl State.takeEntry t) (fun _ => false)
        (fun n => (l.filter fun e => decide (e.poster = n)).flatMap s.entryReports) := by
  induction l with
  | nil => intro t _ _; exact Tells.refl t
  | cons e l ih =>
    intro t hb hi
    refine ((takeEntry_tells t e).trans (ih (t.takeEntry e) (by simp [hb]) fun z => by
      rw [takeEntry_inhibit, hi])).congr (fun _ => rfl) fun n => ?_
    rw [entryReports_congr hb (hi e.zone)]
    unfold toldTo
    by_cases hn : e.poster = n
    · rw [if_pos hn.symm, List.filter_cons_of_pos (by simpa using hn), List.flatMap_cons]
    · rw [if_neg fun x => hn x.symm, List.filter_cons_of_neg (by simpa using hn), List.nil_append]

theorem Tells.told {s t : State} {e : Master → List Signal} (h : Tells s t (fun _ => false) e) (n : Master) :
    t.attention[n] = s.told n (e n) := by
  rw [h.attention n]
  simp [State.changeReport]

/-! ### What the entries make of a zone -/

/-- A zone record after a value has been brought to it. -/
def Zone.take (fallback : Value) (checkTime : Byte) (now : TimeCount) (r : Zone) (v : Value) : Zone :=
  Zone.drive fallback checkTime now { r with commanded := v }

theorem takeEntry_zone (s : State) (e : Entry) (z : ZoneId) :
    (s.takeEntry e).zones[z] =
      if e.zone = z ∧ s.zones[z].inhibit = 0 then
        s.zones[z].take (s.fallback z) s.config.zones[z].checkTime s.timeCount (s.dueValue e)
      else s.zones[z] := by
  rw [takeEntry_zones]
  by_cases hi : s.zones[e.zone].inhibit = 0
  · rw [if_neg (by simpa using hi), State.setCommanded, State.putZone_zones]
    by_cases hz : e.zone = z
    · subst hz; rw [if_pos rfl, if_pos ⟨rfl, hi⟩]; rfl
    · rw [if_neg hz, if_neg fun x => hz x.1]
  · rw [if_pos hi, if_neg]
    rintro ⟨rfl, h⟩
    exact hi h

/-- Each zone takes the values of its own entries, one after another. -/
theorem takeEntries_zone (s : State) (z : ZoneId) (l : List Entry) :
    ∀ t : State, t.banks = s.banks → SameContext s t →
      (l.foldl State.takeEntry t).zones[z] =
        if t.zones[z].inhibit = 0 then
          ((l.filter fun e => decide (e.zone = z)).map s.dueValue).foldl
            (Zone.take (s.fallback z) s.config.zones[z].checkTime s.timeCount) t.zones[z]
        else t.zones[z] := by
  induction l with
  | nil => intro t _ _; simp
  | cons e l ih =>
    intro t hb hc
    have hs : SameContext t (t.takeEntry e) := .of_sessions (by simp) (by simp) (by simp)
    rw [List.foldl_cons, ih (t.takeEntry e) (by simp [hb]) (hc.trans hs), takeEntry_inhibit]
    by_cases hi : t.zones[z].inhibit = 0
    · rw [if_pos hi, if_pos hi, takeEntry_zone]
      by_cases hz : e.zone = z
      · rw [if_pos ⟨hz, hi⟩, List.filter_cons_of_pos (by simpa using hz), List.map_cons, List.foldl_cons,
          dueValue_congr hb, hc.fallback, hc.1, hc.2.1]
      · rw [if_neg fun x => hz x.1, List.filter_cons_of_neg (by simpa using hz)]
    · rw [if_neg hi, if_neg hi, takeEntry_zone, if_neg fun x => hi x.2]

section Taken

variable (f : Value) (c : Byte) (now : TimeCount)

theorem take_fields (r : Zone) (v : Value) :
    (r.take f c now v).commanded = v ∧ (r.take f c now v).authority = r.authority ∧
      (r.take f c now v).epoch = r.epoch ∧ (r.take f c now v).inhibit = r.inhibit ∧
      (r.take f c now v).sensed = r.sensed ∧
      (r.take f c now v).driven = drivenBy r.authority v f r.inhibit := by
  simp [Zone.take]

theorem takes_fields (l : List Value) (r : Zone) :
    (l.foldl (Zone.take f c now) r).authority = r.authority ∧ (l.foldl (Zone.take f c now) r).epoch = r.epoch ∧
      (l.foldl (Zone.take f c now) r).inhibit = r.inhibit ∧ (l.foldl (Zone.take f c now) r).sensed = r.sensed := by
  induction l generalizing r with
  | nil => exact ⟨rfl, rfl, rfl, rfl⟩
  | cons v l ih =>
    obtain ⟨h1, h2, h3, h4⟩ := ih (r.take f c now v)
    obtain ⟨_, k1, k2, k3, k4, _⟩ := take_fields f c now r v
    exact ⟨h1.trans k1, h2.trans k2, h3.trans k3, h4.trans k4⟩

/-- The last value stays. -/
theorem takes_last (l : List Value) (v : Value) (r : Zone) :
    ((l ++ [v]).foldl (Zone.take f c now) r).commanded = v ∧
      ((l ++ [v]).foldl (Zone.take f c now) r).driven = drivenBy r.authority v f r.inhibit := by
  rw [List.foldl_append]
  obtain ⟨ha, _, hi, _⟩ := takes_fields f c now l r
  obtain ⟨h1, _, _, _, _, h6⟩ := take_fields f c now (l.foldl (Zone.take f c now) r) v
  rw [ha, hi] at h6
  exact ⟨h1, h6⟩

theorem drivenBy_held {a : Authority} (h : a.holder.isSome = true) (v : Value) :
    drivenBy a v f 0 = some v := by
  cases a with
  | held k => rfl
  | transfer k p => rfl
  | _ => cases h

/-- At a held zone the monitor responds to each value in turn (R125). -/
theorem takes_monitor (l : List Value) (r : Zone) (d : Value) (hd : r.driven = some d)
    (held : r.authority.holder.isSome = true) (hi : r.inhibit = 0) :
    (l.foldl (Zone.take f c now) r).monitor = r.monitor.respondAll now r.sensed d l := by
  induction l generalizing r d with
  | nil => rfl
  | cons v l ih =>
    obtain ⟨_, k1, _, k3, k4, k5⟩ := take_fields f c now r v
    have hv : drivenBy r.authority v f r.inhibit = some v := by rw [hi]; exact drivenBy_held f held v
    have hm : (r.take f c now v).monitor = r.monitor.respond now r.sensed d v :=
      (Zone.drive_some f c now { r with commanded := v } v hv).2.1 d hd
    rw [List.foldl_cons, ih (r.take f c now v) v (k5.trans hv) (by rw [k1]; exact held) (k3.trans hi), k4, hm]
    rfl

end Taken

/-! ### All due entries -/

theorem isDue_filter (s : State) : s.queue.filter s.isDue = s.queue.filter fun x => decide (x.due = s.timeCount) := rfl

theorem notDue_filter (s : State) :
    (s.queue.filter fun e => !s.isDue e) = s.queue.filter fun x => decide (x.due ≠ s.timeCount) :=
  List.filter_congr fun e _ => by simp [State.isDue]

theorem takeDueEntries_taken (s : State) :
    EntriesTaken s s.takeDueEntries (s.queue.filter fun x => decide (x.due = s.timeCount))
      (s.queue.filter fun x => decide (x.due ≠ s.timeCount)) := by
  refine ⟨by ext1 <;> simp, ?_, fun n => ?_, fun z => ?_⟩
  · rw [takeDueEntries_queue, notDue_filter]
    rfl
  · exact (takeEntries_tells s (s.queue.filter s.isDue) (s.removeEntries s.isDue) rfl fun _ => rfl).told n
  · have hz := takeEntries_zone s z (s.queue.filter s.isDue) (s.removeEntries s.isDue) rfl
      (.of_sessions rfl rfl rfl)
    change s.takeDueEntries.zones[z] = if s.zones[z].inhibit = 0 then _ else s.zones[z] at hz
    rw [isDue_filter] at hz
    dsimp only
    generalize (s.queue.filter fun x => decide (x.due = s.timeCount)).filter (fun e => decide (e.zone = z)) = here at hz ⊢
    refine ⟨fun h => ?_, fun last hl hi => ?_⟩
    · rw [hz]
      split
      next hi =>
        rw [h.resolve_right fun x => x hi]
        rfl
      next => rfl
    · rw [if_pos hi] at hz
      obtain ⟨l, rfl⟩ : ∃ l, here = l ++ [last] := ⟨here.dropLast, (List.dropLast_append_getLast? last hl).symm⟩
      rw [hz]
      rw [List.map_append, List.map_cons, List.map_nil]
      obtain ⟨h1, h2⟩ := takes_last (s.fallback z) s.config.zones[z].checkTime s.timeCount (l.map s.dueValue)
        (s.dueValue last) s.zones[z]
      obtain ⟨k1, k2, k3, k4⟩ := takes_fields (s.fallback z) s.config.zones[z].checkTime s.timeCount
        (l.map s.dueValue ++ [s.dueValue last]) s.zones[z]
      exact ⟨h1, k1, k2, k3, k4, h2, fun d hd held => takes_monitor _ _ _ _ _ d hd held hi⟩

/-! ### Entry into FAULTED -/

theorem faultZone_zone (s : State) (z y : ZoneId) :
    (s.faultZone z).zones[y] = (s.setAuthority z .faulted (s.fallback z)).zones[y] := by
  rw [(faultZone_follows s z).zones]

theorem faultZone_other (s : State) {z y : ZoneId} (h : z ≠ y) : (s.faultZone z).zones[y] = s.zones[y] := by
  rw [faultZone_zone, State.setAuthority_zones_ne s h]

theorem faultZone_authority (s : State) (z : ZoneId) : (s.faultZone z).zones[z].authority = .faulted := by
  rw [faultZone_zone, setAuthority_authority, if_pos rfl]

theorem faultZone_context (s : State) (z : ZoneId) : SameContext s (s.faultZone z) :=
  (setAuthority_context ..).trans (.of_sessions (faultZone_follows s z).config (faultZone_follows s z).timeCount
    (faultZone_follows s z).sessions)

theorem faultZone_alike {s t : State} {z : ZoneId} (h : SameContext s t) (hz : s.zones[z] = t.zones[z]) :
    (s.faultZone z).zones[z] = (t.faultZone z).zones[z] := by
  rw [faultZone_zone, faultZone_zone, State.setAuthority_zones_self, State.setAuthority_zones_self, hz, h.fallback, h.1,
    h.2.1]

theorem faultZone_session (s : State) (z : ZoneId) (n : Master) :
    (s.faultZone z).sessions[n] =
      s.sessions[n].counted (s.heldCount n) ((s.faultZone z).heldCount n) s.timeCount := by
  rw [(faultZone_follows s z).sessions, State.setAuthority_sessions, State.heldCount_congr (faultZone_follows s z).zones]

theorem faultZone_heldCount_le (s : State) (z : ZoneId) (n : Master) : (s.faultZone z).heldCount n ≤ s.heldCount n := by
  rw [State.heldCount_congr (faultZone_follows s z).zones]
  have := State.setAuthority_heldCount s z .faulted (s.fallback z) n
  simp only [Authority.holder, reduceCtorEq, if_false] at this
  omega

/-- The holder's entries for the zone leave, and no others (R128). -/
theorem faultZone_queue (s : State) (z : ZoneId) :
    (s.faultZone z).queue = s.queue.filter fun e => !(decide (e.zone = z) && s.holds e.poster e.zone) := by
  by_cases hf : s.zones[z].authority = .faulted
  · have hq : (s.faultZone z).queue = s.queue := by
      unfold State.faultZone
      rw [hf]
      exact (foldl_keeps State.queue _ (fun _ _ => by simp) _ _).trans (by simp [State.faultHolder, Authority.holder])
    rw [hq, List.filter_eq_self.mpr]
    intro e _
    by_cases he : e.zone = z
    · simp [State.holds, he, hf, Authority.holder, -Fin.getElem_fin]
    · simp [he]
  · exact (faultZone_spec s z hf).2.2.1

theorem checkExpired_congr {s t : State} {z : ZoneId} (h : SameContext s t) (hz : t.zones[z] = s.zones[z]) :
    t.checkExpired z = s.checkExpired z := by
  unfold State.checkExpired State.checkDue State.elapsed
  rw [hz, h.1, h.2.1]

/-! ### The faults that the entries overtook -/

section Overtaken

variable (b : State)

theorem faultOvertaken_context (s : State) (z : ZoneId) : SameContext s (State.faultOvertaken b s z) := by
  unfold State.faultOvertaken
  split
  · exact faultZone_context s z
  · exact .refl s

theorem faultOvertaken_other (s : State) (z y : ZoneId) (h : z ≠ y) :
    (State.faultOvertaken b s z).zones[y] = s.zones[y] := by
  unfold State.faultOvertaken
  split
  · exact faultZone_other s h
  · rfl

theorem faultOvertaken_alike (s t : State) (z : ZoneId) (h : SameContext s t) (hz : s.zones[z] = t.zones[z]) :
    (State.faultOvertaken b s z).zones[z] = (State.faultOvertaken b t z).zones[z] := by
  unfold State.faultOvertaken
  rw [checkExpired_congr h hz.symm]
  split
  · exact faultZone_alike h hz
  · exact hz

/-- The zones whose expiry the entries overtook. -/
def State.overtaken (s : State) (z : ZoneId) : Bool := b.checkExpired z && !s.checkExpired z

theorem faultOvertaken_eq (s : State) (z : ZoneId) :
    State.faultOvertaken b s z = if State.overtaken b s z then s.faultZone z else s := rfl

/-- What one zone's fault tells and does depends on its record, its entries and the context alone. -/
def NearFault (s t : State) (z : ZoneId) : Prop :=
  SameContext s t ∧ t.zones[z] = s.zones[z] ∧
    ∀ n, t.queue.filter (Entry.isOf n z) = s.queue.filter (Entry.isOf n z)

theorem NearFault.refl (s : State) (z : ZoneId) : NearFault s s z := ⟨.refl s, rfl, fun _ => rfl⟩

theorem NearFault.keeps {s t : State} {y z : ZoneId} (h : NearFault s t y) (hne : z ≠ y) :
    NearFault s (State.faultOvertaken b t z) y := by
  obtain ⟨hc, hz, hq⟩ := h
  refine ⟨hc.trans (faultOvertaken_context b t z), (faultOvertaken_other b t z y hne).trans hz, fun n => ?_⟩
  rw [← hq n]
  unfold State.faultOvertaken
  split
  next =>
    rw [faultZone_queue, List.filter_filter]
    refine List.filter_congr fun e _ => ?_
    by_cases he : e.zone = y
    · have : ¬ e.zone = z := fun x => hne (x ▸ he)
      simp [Entry.isOf, this]
    · simp [Entry.isOf, he]
  next => rfl

theorem NearFault.alike {s t : State} {z : ZoneId} (h : NearFault s t z) :
    (State.overtaken b t z && t.zones[z].authority.moves .faulted) =
        (State.overtaken b s z && s.zones[z].authority.moves .faulted) ∧
      ∀ n, (if State.overtaken b t z then t.faultReports n z else []) =
        if State.overtaken b s z then s.faultReports n z else [] := by
  obtain ⟨hc, hz, hq⟩ := h
  have hx : State.overtaken b t z = State.overtaken b s z := by
    unfold State.overtaken
    rw [checkExpired_congr hc hz]
  refine ⟨by rw [hx, hz], fun n => ?_⟩
  have hr : t.removalReports n z = s.removalReports n z := by rw [State.removalReports, State.removalReports, hq]
  unfold State.faultReports State.holds State.requests State.permits
  rw [hx, hz, hr, hc.isAttached, hc.1]

theorem faultOvertaken_tells (s : State) (z : ZoneId) :
    Tells s (State.faultOvertaken b s z)
      (fun y => decide (y = z) && (State.overtaken b s z && s.zones[z].authority.moves .faulted))
      (fun n => if State.overtaken b s z then s.faultReports n z else []) := by
  rw [faultOvertaken_eq]
  cases State.overtaken b s z with
  | true => exact (faultZone_tells s z).congr (fun y => by simp) fun n => by simp
  | false => exact (Tells.refl s).congr (fun y => by simp) fun n => by simp

theorem overtakenFaults_tells (s : State) :
    Tells s (allZones.foldl (State.faultOvertaken b) s)
      (fun y => decide (y ∈ allZones) && (State.overtaken b s y && s.zones[y].authority.moves .faulted))
      (fun n => allZones.flatMap fun z => if State.overtaken b s z then s.faultReports n z else []) :=
  fold_tells (State.faultOvertaken b) (fun s z => State.overtaken b s z && s.zones[z].authority.moves .faulted)
    (fun s n z => if State.overtaken b s z then s.faultReports n z else []) NearFault (faultOvertaken_tells b)
    (fun _ _ _ h => h.alike b) (fun _ _ _ _ h hne => h.keeps b hne) s allZones s (by decide) fun y _ => .refl s y

theorem overtakenFaults_queue (s : State) :
    ∀ (l : List ZoneId) (t : State), l.Nodup → SameContext s t → (∀ y ∈ l, t.zones[y] = s.zones[y]) →
      (l.foldl (State.faultOvertaken b) t).queue =
        t.queue.filter fun e =>
          !(decide (e.zone ∈ l) && (State.overtaken b s e.zone && s.holds e.poster e.zone)) := by
  intro l
  induction l with
  | nil => intro t _ _ _; simp
  | cons z l ih =>
    intro t hl hc hz
    have hmem := List.nodup_cons.mp hl
    have hzz := hz z List.mem_cons_self
    have hx : State.overtaken b t z = State.overtaken b s z := by
      unfold State.overtaken
      rw [checkExpired_congr hc hzz]
    have hq : (State.faultOvertaken b t z).queue = t.queue.filter fun e =>
        !(decide (e.zone = z) && (State.overtaken b s z && s.holds e.poster e.zone)) := by
      rw [faultOvertaken_eq, hx]
      cases State.overtaken b s z with
      | false => simp
      | true =>
        rw [if_pos rfl, faultZone_queue]
        refine List.filter_congr fun e _ => ?_
        by_cases he : e.zone = z
        · unfold State.holds
          rw [he, hzz]
          simp
        · simp [he]
    rw [List.foldl_cons, ih _ hmem.2 (hc.trans (faultOvertaken_context b t z)) fun y hy => by
      rw [faultOvertaken_other b t z y fun x => hmem.1 (x ▸ hy)]; exact hz y (List.mem_cons_of_mem z hy)]
    rw [hq, List.filter_filter]
    refine List.filter_congr fun e _ => ?_
    by_cases he : e.zone = z
    · simp [he, hmem.1]
    · simp [he]

theorem Session.counted_of_auto {r : Session} (h : r.mode = .auto) (i j : Nat) (now : TimeCount) :
    r.counted i j now =
      if i = 0 ∧ j ≠ 0 then { r with timer := .running now }
      else if i ≠ 0 ∧ j = 0 then { r with timer := .stopped }
      else r := if_pos h

theorem Session.counted_of_other {r : Session} (h : r.mode ≠ .auto) (i j : Nat) (now : TimeCount) :
    r.counted i j now = r := if_neg h

/-- As a count falls, one change of the AUTO timer follows another as one change does. -/
theorem Session.counted_trans {i j k : Nat} (now : TimeCount) (r : Session) (h : j ≤ i) (h' : k ≤ j) :
    (r.counted i j now).counted j k now = r.counted i k now := by
  by_cases hm : r.mode = .auto
  · rw [Session.counted_of_auto (r := r.counted i j now) (by simpa using hm), Session.counted_of_auto hm,
      Session.counted_of_auto hm]
    have h0 : ¬ (i = 0 ∧ j ≠ 0) := by omega
    have h1 : ¬ (i = 0 ∧ k ≠ 0) := by omega
    have h2 : ¬ (j = 0 ∧ k ≠ 0) := by omega
    rw [if_neg h0, if_neg h1, if_neg h2]
    by_cases hj : i ≠ 0 ∧ j = 0
    · rw [if_pos hj, if_neg fun x => x.1 hj.2, if_pos ⟨hj.1, by omega⟩]
    · rw [if_neg hj]
      have : (j ≠ 0 ∧ k = 0) ↔ (i ≠ 0 ∧ k = 0) := by omega
      simp only [this]
  · rw [Session.counted_of_other hm, Session.counted_of_other hm, Session.counted_of_other hm]

theorem overtakenFaults_sessions (n : Master) (l : List ZoneId) (t : State) :
    (l.foldl (State.faultOvertaken b) t).heldCount n ≤ t.heldCount n ∧
      (l.foldl (State.faultOvertaken b) t).sessions[n] =
        t.sessions[n].counted (t.heldCount n) ((l.foldl (State.faultOvertaken b) t).heldCount n) t.timeCount := by
  induction l generalizing t with
  | nil => exact ⟨Nat.le_refl _, (Session.counted_same ..).symm⟩
  | cons z l ih =>
    obtain ⟨h1, h2⟩ := ih (State.faultOvertaken b t z)
    have one : (State.faultOvertaken b t z).heldCount n ≤ t.heldCount n ∧
        (State.faultOvertaken b t z).sessions[n] =
          t.sessions[n].counted (t.heldCount n) ((State.faultOvertaken b t z).heldCount n) t.timeCount := by
      unfold State.faultOvertaken
      split
      · exact ⟨faultZone_heldCount_le t z n, faultZone_session t z n⟩
      · exact ⟨Nat.le_refl _, (Session.counted_same ..).symm⟩
    rw [List.foldl_cons]
    refine ⟨h1.trans one.1, ?_⟩
    rw [h2, one.2, (faultOvertaken_context b t z).2.1, Session.counted_trans _ _ one.1 h1]

end Overtaken

theorem moves_faulted {a : Authority} (h : a ≠ .faulted) : a.moves .faulted = true := by
  unfold Authority.moves
  rw [decide_eq_true_eq]
  refine .inl fun hk => h ?_
  cases a with
  | faulted => rfl
  | _ => cases hk

theorem dueEvent_zone (s : State) (z : ZoneId) :
    s.dueEvent.zones[z] = (State.faultOvertaken s s.takeDueEntries z).zones[z] :=
  fold_zones (State.faultOvertaken s) (faultOvertaken_other s) (faultOvertaken_context s) (faultOvertaken_alike s)
    s.takeDueEntries z

/-- The faults of a due event, where no zone it faults is FAULTED already. -/
theorem dueEvent_faults (s : State)
    (hn : ∀ z, State.overtaken s s.takeDueEntries z = true → s.takeDueEntries.zones[z].authority ≠ .faulted) :
    Faults s.takeDueEntries s.dueEvent (State.overtaken s s.takeDueEntries) := by
  have tells := overtakenFaults_tells s s.takeDueEntries
  have hq := overtakenFaults_queue s s.takeDueEntries allZones s.takeDueEntries (by decide) (.refl _) fun _ _ => rfl
  have hmv : ∀ z, (decide (z ∈ allZones) &&
      (State.overtaken s s.takeDueEntries z && s.takeDueEntries.zones[z].authority.moves .faulted)) =
        State.overtaken s s.takeDueEntries z := fun z => by
    rw [decide_eq_true (mem_allZones z), Bool.true_and]
    cases hx : State.overtaken s s.takeDueEntries z with
    | false => rfl
    | true => rw [moves_faulted (hn z hx)]; rfl
  have told := tells.congr hmv fun n => rfl
  refine ⟨?_, fun z => ⟨fun hz => ?_, fun hz => ?_⟩, ?_, fun n => (overtakenFaults_sessions s n allZones _).2,
    fun n => ⟨told.sets n, told.attention n⟩⟩
  · exact onlyFaults _ _ (by simp) (by simp) (by simp) (by simp) (by simp) (by simp) (by simp) (by simp) (by simp)
      (by simp) (by simp) (by simp) (by simp) (by simp) (by simp) (by simp) (by simp)
  · have spec := ((faultZone_spec s.takeDueEntries z (hn z hz)).2.1 z).1 (by simp)
    unfold EpochFollows at spec ⊢
    rw [dueEvent_zone, faultOvertaken_eq, if_pos hz]
    exact spec
  · rw [dueEvent_zone, faultOvertaken_eq, hz]
    rfl
  · unfold State.dueEvent
    rw [hq]
    refine List.filter_congr fun e _ => ?_
    rw [decide_eq_true (mem_allZones e.zone), Bool.true_and]

/-- Where no expiry is overtaken the due event is the entries alone. -/
theorem dueEvent_of_none {s : State} (h : ∀ z, State.overtaken s s.takeDueEntries z = false) :
    s.dueEvent = s.takeDueEntries := by
  have key : ∀ l : List ZoneId, l.foldl (State.faultOvertaken s) s.takeDueEntries = s.takeDueEntries := by
    intro l
    induction l with
    | nil => rfl
    | cons z l ih => rw [List.foldl_cons, faultOvertaken_eq, h z]; exact ih
  exact key allZones

end Sys2Proof.Machine

/-! PROOFS. The law of supervision (R24, R28 to R30): session records, their timers and their warning flags. -/

namespace Sys2Proof.Machine

/-! ### One master -/

/-- What the law of supervision asks of one master. -/
def SupervisionAt (s : State) (m : Master) : Prop :=
  DetachedIsClear s m ∧
    (s.sessions[m].strike = true → Flag.supervisionWarning.mem s.attention[m].flags = true) ∧
    TimerFits s.sessions[m] (s.heldCount m) ∧
    (s.device.outOfService → s.sessions[m].standing = .detached) ∧
    (s.device = .operational → s.sessions[m].standing ≠ .detached → s.sessions[m].mode ≠ .off)

theorem LawOfSupervision.of {s : State} (h : ∀ m, SupervisionAt s m) : LawOfSupervision s := h

theorem LawOfSupervision.at {s : State} (h : LawOfSupervision s) (m : Master) : SupervisionAt s m := h m

theorem told_of_detached {s : State} {n : Master} (h : s.sessions[n].standing = .detached) (l : List Signal) :
    s.told n l = s.attention[n] := if_pos h

/-- Events set flags and clear none (R152). -/
theorem told_flag {s : State} {n : Master} {f : Flag} (h : f.mem s.attention[n].flags = true) (l : List Signal) :
    f.mem (s.told n l).flags = true := by
  have fold : ∀ (l : List Signal) (a : Attention), f.mem a.flags = true → f.mem (l.foldl Attention.after a).flags = true := by
    intro l
    induction l with
    | nil => exact fun _ h => h
    | cons e l ih => exact fun a h => ih _ (by rw [Attention.after_flag, h]; rfl)
  unfold State.told
  split
  · exact h
  · exact fold l _ h

theorem heldCount_of_holders {s t : State} (h : ∀ z : ZoneId, t.zones[z].authority.holder = s.zones[z].authority.holder)
    (m : Master) : t.heldCount m = s.heldCount m := by
  unfold State.heldCount State.holds
  simp only [h]

theorem GainsZones.away {s t : State} {n : Master} {moved : ZoneId → Bool} (h : GainsZones s t n moved)
    (away : s.isAttached n = false) : t.changeSets[n] = s.changeSets[n] :=
  BitVec.eq_of_getLsbD_eq fun i hi => by
    have := h ⟨i, hi⟩
    rw [away, Bool.false_and, Bool.or_false] at this
    exact this

theorem away_of_detached {s : State} {n : Master} (h : s.sessions[n].standing = .detached) : s.isAttached n = false := by
  unfold State.isAttached
  rw [h]
  rfl

/-- A master whose record stays, and who is told events, goes on meeting the law. -/
theorem SupervisionAt.carryDevice {s t : State} {m : Master} (h : SupervisionAt s m) (hs : t.sessions[m] = s.sessions[m])
    (ha : ∃ events, t.attention[m] = s.told m events)
    (hc : s.sessions[m].standing = .detached → t.changeSets[m] = s.changeSets[m])
    (hh : t.heldCount m = s.heldCount m) (out : t.device.outOfService → s.device.outOfService)
    (op : t.device = .operational → s.device = .operational) : SupervisionAt t m := by
  obtain ⟨clear, flag, timer, dark, mode⟩ := h
  obtain ⟨events, ha⟩ := ha
  unfold SupervisionAt DetachedIsClear
  rw [hs, hh, ha]
  refine ⟨fun hd => ?_, fun hk => told_flag (flag hk) events, timer, fun x => dark (out x), fun x => mode (op x)⟩
  rw [told_of_detached hd, hc hd]
  exact clear hd

theorem SupervisionAt.carry {s t : State} {m : Master} (h : SupervisionAt s m) (hs : t.sessions[m] = s.sessions[m])
    (ha : ∃ events, t.attention[m] = s.told m events)
    (hc : s.sessions[m].standing = .detached → t.changeSets[m] = s.changeSets[m]) (hh : t.heldCount m = s.heldCount m)
    (hd : t.device = s.device) : SupervisionAt t m :=
  h.carryDevice hs ha hc hh (by rw [hd]; exact id) (by rw [hd]; exact id)

/-- A master with standing meets the law by its strike, its timer and its mode. -/
theorem SupervisionAt.of_here {t : State} {m : Master} (here : t.sessions[m].standing ≠ .detached)
    (flag : t.sessions[m].strike = true → Flag.supervisionWarning.mem t.attention[m].flags = true)
    (timer : TimerFits t.sessions[m] (t.heldCount m)) (service : ¬ t.device.outOfService)
    (mode : t.device = .operational → t.sessions[m].mode ≠ .off) : SupervisionAt t m :=
  ⟨fun x => absurd x here, flag, timer, fun x => absurd x service, fun x _ => mode x⟩

theorem SupervisionAt.service {s : State} {m : Master} (h : SupervisionAt s m) (here : s.sessions[m].standing ≠ .detached) :
    ¬ s.device.outOfService := fun x => here (h.2.2.2.1 x)

/-! ### Timers -/

/-- The timer that an ATTACHED master has, by its mode and held-zone count (R26 to R29). -/
def ModeFits (mode : Mode) (timer : SupervisionTimer) (heldZones : Nat) : Prop :=
  match mode, timer with
  | .window, .closed _ => True
  | .window, .opened _ => True
  | .timeout, .running _ => True
  | .auto, .running _ => heldZones ≠ 0
  | .auto, .stopped => heldZones = 0
  | .off, .stopped => True
  | _, _ => False

theorem timerFits_attached {r : Session} {k : Nat} (h : r.standing.isAttached = true) :
    TimerFits r k ↔ ModeFits r.mode r.timer k := by
  unfold TimerFits
  rw [if_pos h]
  rfl

theorem timerFits_away {r : Session} {k : Nat} (h : r.standing.isAttached = false) :
    TimerFits r k ↔ r.timer = .stopped := by
  unfold TimerFits
  rw [if_neg (by simp [h])]

theorem ModeFits.of_other {mode : Mode} {t : SupervisionTimer} {i : Nat} (h : ModeFits mode t i) (hm : mode ≠ .auto)
    (j : Nat) : ModeFits mode t j := by
  cases mode with
  | auto => exact absurd rfl hm
  | window => cases t <;> exact h
  | timeout => cases t <;> exact h
  | off => cases t <;> exact h

theorem ModeFits.running {mode : Mode} {a : TimeCount} {k : Nat} (h : ModeFits mode (.running a) k) (b : TimeCount) :
    ModeFits mode (.running b) k := by cases mode <;> exact h

theorem ModeFits.closed {mode : Mode} {a : TimeCount} {k : Nat} (h : ModeFits mode (.opened a) k) (b : TimeCount) :
    ModeFits mode (.closed b) k := by cases mode <;> exact h

theorem ModeFits.opened {mode : Mode} {a : TimeCount} {k : Nat} (h : ModeFits mode (.closed a) k) (b : TimeCount) :
    ModeFits mode (.opened b) k := by cases mode <;> exact h

/-- The AUTO timer follows the held-zone count (R28). -/
theorem TimerFits.counted {r : Session} {i j : Nat} (h : TimerFits r i) (now : TimeCount)
    (away : r.standing.isAttached = false → i = 0 ∧ j = 0) : TimerFits (r.counted i j now) j := by
  cases hs : r.standing.isAttached with
  | false =>
    obtain ⟨rfl, rfl⟩ := away hs
    rwa [Session.counted_same]
  | true =>
    have hk := (timerFits_attached hs).mp h
    refine (timerFits_attached (by rw [Session.counted_standing]; exact hs)).mpr ?_
    rw [Session.counted_mode]
    by_cases hm : r.mode = .auto
    · rw [Session.counted_of_auto hm]
      rw [hm] at hk ⊢
      cases ht : r.timer with
      | stopped =>
        rw [ht] at hk
        obtain rfl : i = 0 := hk
        by_cases hj : j = 0
        · rw [if_neg fun x => x.2 hj, if_neg fun x => x.1 rfl, ht]
          exact hj
        · rw [if_pos ⟨rfl, hj⟩]
          exact hj
      | running t =>
        rw [ht] at hk
        have hi : i ≠ 0 := hk
        by_cases hj : j = 0
        · rw [if_neg fun x => hi x.1, if_pos ⟨hi, hj⟩]
          exact hj
        · rw [if_neg fun x => hi x.1, if_neg fun x => hj x.2, ht]
          exact hj
      | closed t => rw [ht] at hk; exact hk.elim
      | opened t => rw [ht] at hk; exact hk.elim
    · rw [Session.counted_of_other hm]
      exact hk.of_other hm j

/-- Only an ATTACHED master has a timer that runs. -/
theorem TimerFits.attached {r : Session} {k : Nat} (h : TimerFits r k) (ht : r.timer ≠ .stopped) :
    r.standing.isAttached = true := by
  by_contra hn
  exact ht ((timerFits_away (by simpa using hn)).mp h)

/-- Another timer fits where it fits the mode. -/
theorem TimerFits.withTimer {r : Session} {k : Nat} {u : SupervisionTimer} (h : TimerFits r k) (ht : r.timer ≠ .stopped)
    (fits : ModeFits r.mode r.timer k → ModeFits r.mode u k) : TimerFits { r with timer := u } k :=
  have hs := h.attached ht
  (timerFits_attached (r := { r with timer := u }) hs).mpr (fits ((timerFits_attached hs).mp h))

theorem TimerFits.running {r : Session} {k : Nat} (h : TimerFits r k) {since : TimeCount} (ht : r.timer = .running since)
    (now : TimeCount) : TimerFits { r with timer := .running now } k :=
  h.withTimer (by rw [ht]; simp) fun x => by rw [ht] at x; exact x.running now

theorem TimerFits.closed {r : Session} {k : Nat} (h : TimerFits r k) {since : TimeCount} (ht : r.timer = .opened since)
    (now : TimeCount) : TimerFits { r with timer := .closed now } k :=
  h.withTimer (by rw [ht]; simp) fun x => by rw [ht] at x; exact x.closed now

theorem TimerFits.opened {r : Session} {k : Nat} (h : TimerFits r k) {since : TimeCount} (ht : r.timer = .closed since)
    (now : TimeCount) : TimerFits { r with timer := .opened now } k :=
  h.withTimer (by rw [ht]; simp) fun x => by rw [ht] at x; exact x.opened now

theorem idleTimer_fits {r : Session} (now : TimeCount) (hs : r.standing.isAttached = true)
    (ht : r.timer = idleTimer r.mode now) : TimerFits r 0 := by
  rw [timerFits_attached hs, ht]
  cases r.mode with
  | auto => exact rfl
  | _ => exact trivial

theorem supervisedTimer_fits (s : State) (m : Master) {r : Session} (hs : r.standing.isAttached = true)
    (ht : r.timer = s.supervisedTimer m r.mode) : TimerFits r (s.heldCount m) := by
  rw [timerFits_attached hs, ht]
  unfold State.supervisedTimer
  cases r.mode with
  | auto =>
    by_cases hk : s.heldCount m = 0
    · rw [if_pos ⟨rfl, hk⟩]
      exact hk
    · rw [if_neg fun x => hk x.2]
      exact hk
  | _ =>
    rw [if_neg fun x => by cases x.1]
    exact trivial

/-! ### What keeps the law for every master -/

theorem LawOfSupervision.follows {s t : State} (h : LawOfSupervision s) (f : Follows s t) : LawOfSupervision t := by
  refine .of fun n => ?_
  obtain ⟨events, _, ha⟩ := f.told n
  exact (h.at n).carry (by rw [f.sessions]) ⟨events, ha⟩ (fun _ => by rw [f.changeSets])
    (State.heldCount_congr f.zones n) f.device

theorem LawOfSupervision.kept {s t : State} (h : LawOfSupervision s) (hs : t.sessions = s.sessions)
    (ha : t.attention = s.attention) (hc : t.changeSets = s.changeSets) (hd : t.device = s.device)
    (hz : ∀ z : ZoneId, t.zones[z].authority = s.zones[z].authority) : LawOfSupervision t := fun n =>
  (h.at n).carry (by rw [hs]) ⟨[], by rw [ha, State.told_nil]⟩ (fun _ => by rw [hc])
    (heldCount_of_holders (fun z => by rw [hz]) n) hd

/-- Where one master's records are replaced the others go on. -/
theorem SupervisionAt.other {s : State} {n m : Master} (h : SupervisionAt s n) (hn : n ≠ m) (r : Session) (a : Attention)
    (c : ZoneSet) : SupervisionAt (((s.withAttention m a).withChangeSet m c).withSession m r) n :=
  h.carry (by simp only [State.withSession_sessions, State.withChangeSet_sessions, State.withAttention_sessions,
      at_set_ne _ hn.symm])
    ⟨[], by simp only [State.withSession_attention, State.withChangeSet_attention, State.withAttention_attention,
      at_set_ne _ hn.symm, State.told_nil]⟩
    (fun _ => by simp only [State.withSession_changeSets, State.withChangeSet_changeSets, State.withAttention_changeSets,
      at_set_ne _ hn.symm])
    (State.heldCount_congr (by simp) n) (by simp)

theorem SupervisionAt.otherSession {s : State} {n m : Master} (h : SupervisionAt s n) (hn : n ≠ m) (r : Session) :
    SupervisionAt (s.withSession m r) n :=
  h.carry (by rw [State.withSession_sessions, at_set_ne _ hn.symm])
    ⟨[], by rw [State.withSession_attention, State.told_nil]⟩ (fun _ => rfl) rfl rfl

theorem SupervisionAt.otherAttention {s : State} {n m : Master} (h : SupervisionAt s n) (hn : n ≠ m) (a : Attention) :
    SupervisionAt (s.withAttention m a) n :=
  h.carry rfl ⟨[], by rw [State.withAttention_attention, at_set_ne _ hn.symm, State.told_nil]⟩ (fun _ => rfl) rfl rfl

/-- Every master but `m` goes on when the session of `m` ends. -/
theorem SupervisionAt.sessionEnds {s t : State} {n m : Master} (h : SupervisionAt s n) (e : SessionEnds s t m)
    (hn : n ≠ m) (hd : t.device = s.device) : SupervisionAt t n := by
  obtain ⟨hz, _, _, others⟩ := e
  obtain ⟨hs, hg, ha⟩ := others n hn
  refine h.carry hs ⟨_, ha⟩ (fun x => hg.away (away_of_detached x)) ?_ hd
  unfold State.heldCount
  congr 1
  funext z
  obtain ⟨hauth, _⟩ := hz z
  unfold State.holds
  rw [hauth, decide_eq_decide]
  by_cases hm : s.holds m z = true
  · have hm' := hm
    rw [State.holds, decide_eq_true_eq] at hm'
    have hnot : ¬ s.zones[z].authority.holder = some n := by rw [hm']; simpa using fun x => hn x.symm
    refine iff_of_false ?_ hnot
    unfold State.endedAuthority
    cases ha' : s.zones[z].authority with
    | held k =>
      rw [ha'] at hm'
      simp only [Option.some.inj hm', if_true, settledBy_holder]
      simp
    | transfer k p =>
      rw [ha'] at hm'
      simp only [Option.some.inj hm', if_true, Authority.holder]
      simp
    | _ => rw [ha'] at hm'; cases hm'
  · rw [endedAuthority_holder (by simpa using hm)]

/-! ### Changes of authority -/

theorem noted_events (s : State) (n : Master) : ∃ events, s.noted n = s.told n events := by
  unfold State.noted
  split
  next h =>
    refine ⟨[.zonesChanged], ?_⟩
    rw [State.told, if_neg (attached_ne_detached h.1)]
    rfl
  next => exact ⟨[], (s.told_nil n).symm⟩

/-- A change of authority keeps the law where it leaves no zone with a master that is not ATTACHED. -/
theorem LawOfSupervision.setAuthority {s : State} (h : LawOfSupervision s) (hh : LawOfHolder s) (z : ZoneId)
    (a : Authority) (v : Value) (idle : ∀ n, s.isAttached n = false → (s.setAuthority z a v).heldCount n = 0) :
    LawOfSupervision (s.setAuthority z a v) := by
  refine .of fun n => ?_
  obtain ⟨clear, flag, timer, dark, mode⟩ := h n
  have hs := State.setAuthority_sessions s z a v n
  have hst := State.setAuthority_standing s z a v n
  have hcs := State.setAuthority_changeSets s z a v n
  obtain ⟨events, ha⟩ : ∃ events, (s.setAuthority z a v).attention[n] = s.told n events := by
    rw [State.setAuthority_attention]
    split
    · exact noted_events s n
    · exact ⟨[], (s.told_nil n).symm⟩
  have away : s.isAttached n = false → s.heldCount n = 0 ∧ (s.setAuthority z a v).heldCount n = 0 := fun x =>
    ⟨heldCount_zero_iff.mpr (hh.not_attached x), idle n x⟩
  refine ⟨fun hd => ?_, fun hk => ?_, ?_, ?_, ?_⟩
  · rw [hst] at hd
    obtain ⟨c1, c2, c3⟩ := clear hd
    obtain ⟨k1, k2⟩ := away (away_of_detached hd)
    rw [k1, k2, Session.counted_same] at hs
    refine ⟨hs.trans c1, ?_, ?_⟩
    · rw [ha, told_of_detached hd]; exact c2
    · rw [hcs]
      split
      · unfold State.notedSet
        rw [if_neg (by simp [away_of_detached hd])]
        exact c3
      · exact c3
  · rw [hs, Session.counted_strike] at hk
    rw [ha]
    exact told_flag (flag hk) events
  · rw [hs]
    exact timer.counted _ away
  · rw [State.setAuthority_device, hst]; exact dark
  · rw [State.setAuthority_device, hst, hs, Session.counted_mode]; exact mode

theorem LawOfHolder.idle {s t : State} (h : LawOfHolder t) {z : ZoneId} {a : Authority} {v : Value}
    (f : Follows (s.setAuthority z a v) t) (n : Master) (hn : s.isAttached n = false) :
    (s.setAuthority z a v).heldCount n = 0 := by
  rw [← State.heldCount_congr f.zones]
  refine heldCount_zero_iff.mpr (h.not_attached ?_)
  rw [((setAuthority_context s z a v).trans (.of_sessions f.config f.timeCount f.sessions)).isAttached]
  exact hn

theorem LawOfSupervision.move {s t : State} (h : LawOfSupervision s) (hs : LawOfHolder s) (ht : LawOfHolder t) {z : ZoneId}
    {a : Authority} {v : Value} (f : Follows (s.setAuthority z a v) t) : LawOfSupervision t :=
  (h.setAuthority hs z a v (ht.idle f)).follows f

/-! ### Sessions -/

theorem LawOfSupervision.withTimer {s : State} (h : LawOfSupervision s) {m : Master} (here : s.isAttached m = true)
    (u : SupervisionTimer) (fits : TimerFits { s.sessions[m] with timer := u } (s.heldCount m)) :
    LawOfSupervision (s.withTimer m u) := by
  refine .of fun n => ?_
  by_cases hn : n = m
  · subst hn
    obtain ⟨_, flag, _, _, mode⟩ := h n
    have hd := attached_ne_detached here
    have hs : (s.withTimer n u).sessions[n] = { s.sessions[n] with timer := u } := at_set_self ..
    exact .of_here (by rw [hs]; exact hd) (by rw [hs]; exact flag) (by rw [hs]; exact fits)
      ((h.at n).service hd) (by rw [hs]; exact fun x => mode x hd)
  · exact (h.at n).otherSession hn _

theorem LawOfSupervision.heldCount_away {s : State} (hh : LawOfHolder s) {m : Master} (away : s.isAttached m = false) :
    s.heldCount m = 0 := heldCount_zero_iff.mpr (hh.not_attached away)

theorem policyRefuses_mode {s : State} {m : Master} {mode : Mode} (h : s.policyRefuses m mode = false)
    (op : s.device = .operational) : mode ≠ .off := by
  unfold State.policyRefuses at h
  rw [op] at h
  rintro rfl
  simp at h

theorem LawOfSupervision.attach {s : State} (h : LawOfSupervision s) (hh : LawOfHolder s) {m : Master} {mode : Mode}
    {period : Period} (away : s.isAttached m = false) (policy : s.policyRefuses m mode = false)
    (service : ¬ s.device.outOfService) : LawOfSupervision (s.attach m mode period) := by
  refine .of fun n => ?_
  by_cases hn : n = m
  · subst hn
    have hs : (s.attach n mode period).sessions[n] =
        { standing := .attached s.nextSerial, mode := mode, period := period, timer := idleTimer mode s.timeCount,
          strike := false, revokeReason := none } := at_set_self ..
    have hk : (s.attach n mode period).heldCount n = 0 := LawOfSupervision.heldCount_away (s := s) hh away
    exact .of_here (by rw [hs]; simp) (by rw [hs]; simp) (by rw [hs, hk]; exact idleTimer_fits s.timeCount rfl rfl) service
      (by rw [hs]; exact policyRefuses_mode policy)
  · unfold State.attach
    exact (h.at n).carry (by simp only [State.withSession_sessions, State.withChangeSet_sessions, State.withAttention_sessions,
        at_set_ne _ (Ne.symm hn)])
      ⟨[], by simp only [State.withSession_attention, State.withChangeSet_attention, State.withAttention_attention,
        at_set_ne _ (Ne.symm hn), State.told_nil]⟩
      (fun _ => by simp only [State.withSession_changeSets, State.withChangeSet_changeSets,
        State.withAttention_changeSets, at_set_ne _ (Ne.symm hn)])
      (State.heldCount_congr (by simp) n) (by simp)

theorem LawOfSupervision.detach {s : State} (h : LawOfSupervision s) (m : Master) : LawOfSupervision (s.detach m) := by
  refine .of fun n => ?_
  by_cases hn : n = m
  · subst hn
    have hs : (s.detach n).sessions[n] = .afterReset := at_set_self ..
    have ha : (s.detach n).attention[n] = .afterReset := at_set_self ..
    have hc : (s.detach n).changeSets[n] = 0 := at_set_self ..
    unfold SupervisionAt DetachedIsClear at *
    rw [hs, ha, hc]
    exact ⟨fun _ => ⟨rfl, rfl, rfl⟩, fun x => by simp [Session.afterReset] at x, (timerFits_away rfl).mpr rfl,
      fun _ => rfl, fun _ x => absurd rfl x⟩
  · have away := (h.at n).otherSession hn { s.sessions[m] with standing := .detached }
    unfold State.detach
    dsimp only
    refine SupervisionAt.other ?_ hn _ _ _
    split
    · exact away.sessionEnds (endSession_spec m _) hn (State.endSession_device ..)
    · exact away

theorem LawOfSupervision.revoke {s : State} (h : LawOfSupervision s) {m : Master} (here : s.isAttached m = true)
    (reason : RevokeReason) : LawOfSupervision (s.revoke m reason) := by
  obtain ⟨ends, hs, ha, _⟩ := revoke_spec m reason s
  have hdev : (s.revoke m reason).device = s.device := by simp
  refine .of fun n => ?_
  by_cases hn : n = m
  · subst hn
    obtain ⟨_, flag, _, _, mode⟩ := h n
    have hd := attached_ne_detached here
    exact .of_here (by rw [hs]; simp) (by rw [hs, ha]; exact fun x => told_flag (s := s.withRevoked n reason) (flag x) _)
      (by rw [hs]; exact (timerFits_away rfl).mpr rfl) (by rw [hdev]; exact (h.at n).service hd)
      (by rw [hs, hdev]; exact fun x => mode x hd)
  · exact ((h.at n).otherSession hn _).sessionEnds ends hn hdev

theorem LawOfSupervision.recordStrike {s : State} (h : LawOfSupervision s) {m : Master} (here : s.isAttached m = true) :
    LawOfSupervision (s.recordStrike m) := by
  have hd := attached_ne_detached here
  obtain ⟨_, _, _, _, _, gains, told, flag'⟩ := recordStrike_spec m s hd
  have hs := recordStrike_sessions m s
  have hh : ∀ n, (s.recordStrike m).heldCount n = s.heldCount n := fun n =>
    heldCount_of_holders (fun z => by rw [recordStrike_authority, struckAuthority_holder]; rfl) n
  have hdev : (s.recordStrike m).device = s.device := by simp
  refine .of fun n => ?_
  by_cases hn : n = m
  · subst hn
    obtain ⟨_, _, timer, _, mode⟩ := h n
    have hsn : (s.recordStrike n).sessions[n] = { s.sessions[n] with strike := true } := by rw [hs, at_set_self]
    exact .of_here (by rw [hsn]; exact hd) (fun _ => flag') (by rw [hsn, hh]; exact timer)
      (by rw [hdev]; exact (h.at n).service hd) (by rw [hsn, hdev]; exact fun x => mode x hd)
  · exact (h.at n).carry (by rw [hs, at_set_ne _ (Ne.symm hn)]) ⟨_, told n⟩
      (fun x => (gains n).away (away_of_detached x)) (hh n) hdev

theorem LawOfSupervision.supervise {s : State} (h : LawOfSupervision s) {m : Master} {mode : Mode} {period : Period}
    (here : s.isAttached m = true) (policy : s.policyRefuses m mode = false) :
    LawOfSupervision (s.supervise m mode period) := by
  refine .of fun n => ?_
  by_cases hn : n = m
  · subst hn
    obtain ⟨_, flag, _, _, _⟩ := h n
    have hd := attached_ne_detached here
    have hs : (s.supervise n mode period).sessions[n] =
        { s.sessions[n] with mode := mode, period := period, timer := s.supervisedTimer n mode } := at_set_self ..
    exact .of_here (by rw [hs]; exact hd) (by rw [hs]; exact flag)
      (by rw [hs]; exact supervisedTimer_fits s n here rfl) ((h.at n).service hd)
      (by rw [hs]; exact policyRefuses_mode policy)
  · exact (h.at n).otherSession hn _

theorem LawOfSupervision.park {s : State} (h : LawOfSupervision s) {m : Master} (here : s.isAttached m = true) :
    LawOfSupervision (s.park m) := by
  have parked : LawOfSupervision
      (s.withSession m { s.sessions[m] with standing := .parked s.nextSerial, timer := .stopped }) := by
    refine .of fun n => ?_
    by_cases hn : n = m
    · subst hn
      obtain ⟨_, flag, _, _, mode⟩ := h n
      have hd := attached_ne_detached here
      have hs : (s.withSession n { s.sessions[n] with standing := .parked s.nextSerial, timer := .stopped }).sessions[n] =
          { s.sessions[n] with standing := .parked s.nextSerial, timer := .stopped } := at_set_self ..
      exact .of_here (by rw [hs]; simp) (by rw [hs]; exact flag) (by rw [hs]; exact (timerFits_away rfl).mpr rfl)
        ((h.at n).service hd) (by rw [hs]; exact fun x => mode x hd)
    · exact (h.at n).otherSession hn _
  exact parked.kept (State.freeRing_sessions _) (State.freeRing_attention _) (State.freeRing_changeSets _)
    (State.freeRing_device _) fun z => by unfold State.park; rw [State.freeRing_zones]

theorem LawOfSupervision.unpark {s : State} (h : LawOfSupervision s) (hh : LawOfHolder s) {m : Master} {k : Serial}
    (parked : s.sessions[m].standing = .parked k) : LawOfSupervision (s.unpark m k) := by
  have hd : s.sessions[m].standing ≠ .detached := by rw [parked]; simp
  have resumed : LawOfSupervision (s.withSession m { s.sessions[m] with
      standing := .attached s.nextSerial, timer := idleTimer s.sessions[m].mode s.timeCount }) := by
    refine .of fun n => ?_
    by_cases hn : n = m
    · subst hn
      obtain ⟨_, flag, _, _, mode⟩ := h n
      have hs : (s.withSession n { s.sessions[n] with
          standing := .attached s.nextSerial, timer := idleTimer s.sessions[n].mode s.timeCount }).sessions[n] =
          { s.sessions[n] with
            standing := .attached s.nextSerial, timer := idleTimer s.sessions[n].mode s.timeCount } := at_set_self ..
      have hk : (s.withSession n { s.sessions[n] with
          standing := .attached s.nextSerial, timer := idleTimer s.sessions[n].mode s.timeCount }).heldCount n = 0 :=
        LawOfSupervision.heldCount_away (s := s) hh (by unfold State.isAttached; rw [parked]; rfl)
      exact .of_here (by rw [hs]; simp) (by rw [hs]; exact flag)
        (by rw [hs, hk]; exact idleTimer_fits s.timeCount rfl rfl) ((h.at n).service hd)
        (by rw [hs]; exact fun x => mode x hd)
    · exact (h.at n).otherSession hn _
  unfold State.unpark
  dsimp only
  split
  · exact resumed
  · exact resumed.follows (signal_follows _ _ _ fun _ h => by cases h)

theorem mem_cleared {f : Flag} {a b : FlagSet} (ha : f.mem a = true) (hb : f.mem b = false) :
    f.mem (a &&& ~~~ b) = true := by
  have hi : f.index < 15 := by cases f <;> decide
  unfold Flag.mem at *
  rw [BitVec.getLsbD_and, BitVec.getLsbD_not, ha, hb]
  simp [hi]

theorem LawOfSupervision.acknowledge {s : State} (h : LawOfSupervision s) {m : Master} (named : FlagSet)
    (here : s.sessions[m].standing ≠ .detached) : LawOfSupervision (s.acknowledge m named) := by
  refine .of fun n => ?_
  obtain ⟨_, flag, timer, _, mode⟩ := h n
  unfold State.acknowledge
  dsimp only
  by_cases hn : n = m
  · subst hn
    split
    next hw =>
      refine .of_here ?_ ?_ ?_ ((h.at n).service here) ?_ <;>
        rw [State.withSession_sessions, at_set_self]
      · exact here
      · simp
      · exact timer
      · exact fun x => mode x here
    next hw =>
      refine .of_here here ?_ timer ((h.at n).service here) fun x => mode x here
      rw [State.withAttention_attention, at_set_self]
      exact fun hk => mem_cleared (flag hk) (by simpa using hw)
  · have ha : SupervisionAt (s.withAttention m
        { s.attention[m] with flags := s.attention[m].flags &&& ~~~ named }) n := (h.at n).otherAttention hn _
    split
    · exact ha.otherSession hn _
    · exact ha

theorem LawOfSupervision.setEnables {s : State} (h : LawOfSupervision s) {m : Master} (enables : FlagSet) (mask : InputSet)
    (here : s.sessions[m].standing ≠ .detached) : LawOfSupervision (s.setEnables m enables mask) := by
  refine .of fun n => ?_
  by_cases hn : n = m
  · subst hn
    obtain ⟨_, flag, timer, _, mode⟩ := h n
    have ha : (s.setEnables n enables mask).attention[n] =
        { s.attention[n] with enables := enables, notifyMask := mask } := at_set_self ..
    exact .of_here here (by rw [ha]; exact flag) timer ((h.at n).service here) fun x => mode x here
  · exact (h.at n).otherAttention hn _

theorem LawOfSupervision.readCaptures {s : State} (h : LawOfSupervision s) {m : Master} {c : Serial} (k : Nat)
    (here : s.sessions[m].standing = .attached c) : LawOfSupervision (s.readCaptures m c k).state := by
  have hd : s.sessions[m].standing ≠ .detached := by rw [here]; simp
  have read : LawOfSupervision (s.withSession m { s.sessions[m] with
      standing := .attached (cursorPast c ((s.unread c).take k)) }) := by
    refine .of fun n => ?_
    by_cases hn : n = m
    · subst hn
      obtain ⟨_, flag, timer, _, mode⟩ := h n
      refine .of_here ?_ ?_ ?_ ((h.at n).service hd) ?_ <;>
        rw [State.withSession_sessions, at_set_self]
      · simp
      · exact flag
      · have ht := (timerFits_attached (by rw [here]; rfl)).mp timer
        exact (timerFits_attached rfl).mpr ht
      · exact fun x => mode x hd
    · exact (h.at n).otherSession hn _
  exact read.kept (State.freeRing_sessions _) (State.freeRing_attention _) (State.freeRing_changeSets _)
    (State.freeRing_device _) fun z => by
      rw [State.readCaptures, State.reply_state, State.freeRing_zones]

theorem LawOfSupervision.readZoneChanges {s : State} (h : LawOfSupervision s) (m : Master) :
    LawOfSupervision (s.withChangeSet m 0) := by
  refine .of fun n => ?_
  refine (h.at n).carry rfl ⟨[], (s.told_nil n).symm⟩ (fun hd => ?_) rfl rfl
  rw [State.withChangeSet_changeSets, at_set]
  split
  · exact ((h.at n).1 hd).2.2.symm
  · rfl

/-! ### Events -/

theorem LawOfSupervision.faultZone {s : State} (h : LawOfSupervision s) (hh : LawOfHolder s) (z : ZoneId) :
    LawOfSupervision (s.faultZone z) :=
  h.move hh (hh.faultZone z) (faultZone_follows s z)

theorem LawOfSupervision.dueEvent {s : State} (h : LawOfSupervision s) (hh : LawOfHolder s) :
    LawOfSupervision s.dueEvent := by
  have taken : LawOfSupervision s.takeDueEntries := fun n =>
    (h.at n).carry (by rw [State.takeDueEntries_sessions]) ⟨_, (takeDueEntries_taken s).2.2.1 n⟩ (fun _ => by simp)
      (heldCount_of_holders (fun z => by rw [takeDueEntries_authority]) n) (by simp)
  refine (foldl_preserves (P := fun u => LawOfHolder u ∧ LawOfSupervision u) (fun u z ⟨hu, hv⟩ => ?_) allZones
    ⟨hh.takeDueEntries, taken⟩).2
  unfold State.faultOvertaken
  split
  · exact ⟨hu.faultZone z, hv.faultZone hu z⟩
  · exact ⟨hu, hv⟩

theorem LawOfSupervision.refresh {s : State} (h : LawOfSupervision s) (i : InputId) : LawOfSupervision (s.refresh i) :=
  fun n => (h.at n).carry (by rw [State.refresh_sessions]) ⟨_, (refresh_spec s i).2.1 n⟩ (fun _ => by simp)
    (heldCount_of_holders (fun z => by rw [refresh_authority]) n) (by simp)

theorem sessionAfterAppend_cases (s : State) (n : Master) :
    s.sessionAfterAppend n = s.sessions[n] ∨
      s.isAttached n = true ∧ ∃ c, s.sessionAfterAppend n = { s.sessions[n] with standing := .attached c } := by
  unfold State.sessionAfterAppend
  split
  · exact .inl rfl
  next oldest rest hr =>
    split
    next ho =>
      refine .inr ⟨?_, _, rfl⟩
      unfold State.overrun at ho
      rw [hr, decide_eq_true_eq] at ho
      unfold State.isAttached
      rw [ho.2]
      rfl
    next => exact .inl rfl

theorem LawOfSupervision.appendCapture {s : State} (h : LawOfSupervision s) (i : InputId) (level : Level) :
    LawOfSupervision (s.appendCapture i level) := by
  obtain ⟨_, _, masters⟩ := appendCapture_spec s i level
  refine .of fun n => ?_
  obtain ⟨hs, ha⟩ := masters n
  have hh : (s.appendCapture i level).heldCount n = s.heldCount n := State.heldCount_congr (by simp) n
  rcases sessionAfterAppend_cases s n with same | ⟨here, c, moved⟩
  · exact (h.at n).carry (hs.trans same) ⟨_, ha⟩ (fun _ => by simp) hh (by simp)
  · obtain ⟨_, flag, timer, _, mode⟩ := h n
    have hd := attached_ne_detached here
    rw [moved] at hs
    exact .of_here (by rw [hs]; simp) (by rw [hs, ha]; exact fun hk => told_flag (flag hk) _)
      (by rw [hs, hh]; exact (timerFits_attached rfl).mpr ((timerFits_attached here).mp timer))
      (by rw [State.appendCapture_device]; exact (h.at n).service hd)
      (by rw [hs, State.appendCapture_device]; exact fun x => mode x hd)

theorem LawOfSupervision.recogniseChange {s : State} (h : LawOfSupervision s) (i : InputId) (level : Level) :
    LawOfSupervision (s.recogniseChange i level) := by
  have hr : LawOfSupervision (s.recognise i level) := h
  unfold State.recogniseChange
  dsimp only
  refine LawOfSupervision.refresh ?_ i
  split
  · exact hr.appendCapture i level
  · exact hr

/-! ### Start-up -/

/-- With every master DETACHED and no zone held, entry into service reaches no session, flag or change set. -/
theorem enterService_idle {s : State} (away : ∀ n : Master, s.sessions[n].standing = .detached)
    (free : ∀ z : ZoneId, s.zones[z].authority.holder = none) :
    s.enterService.sessions = s.sessions ∧ s.enterService.attention = s.attention ∧
      s.enterService.changeSets = s.changeSets := by
  have lit : ∀ u : State, ∀ z : ZoneId,
      (u.sessions = s.sessions ∧ u.attention = s.attention ∧ u.changeSets = s.changeSets ∧
        ∀ y : ZoneId, u.zones[y].authority.holder = none) →
      ((u.lightZone z).sessions = s.sessions ∧ (u.lightZone z).attention = s.attention ∧
        (u.lightZone z).changeSets = s.changeSets ∧ ∀ y : ZoneId, (u.lightZone z).zones[y].authority.holder = none) := by
    intro u z ⟨h1, h2, h3, h4⟩
    have ha : ∀ n : Master, u.isAttached n = false := fun n => away_of_detached (by rw [h1]; exact away n)
    refine ⟨(State.setAuthority_sessions_kept u z .vacant _ (h4 z).symm).trans h1, ?_, ?_, fun y => ?_⟩
    · rw [← h2]
      refine Vector.ext fun n hn => ?_
      have := State.setAuthority_attention u z .vacant (u.fallback z) ⟨n, hn⟩
      simp only [State.noted, ha, Bool.false_eq_true, false_and, if_false, ite_self] at this
      exact this
    · rw [← h3]
      refine Vector.ext fun n hn => ?_
      have := State.setAuthority_changeSets u z .vacant (u.fallback z) ⟨n, hn⟩
      simp only [State.notedSet, ha, Bool.false_eq_true, if_false, ite_self] at this
      exact this
    · unfold State.lightZone
      rw [setAuthority_authority]
      split
      · rfl
      · exact h4 y
  obtain ⟨h1, h2, h3, _⟩ := foldl_preserves (P := fun u => u.sessions = s.sessions ∧ u.attention = s.attention ∧
    u.changeSets = s.changeSets ∧ ∀ y : ZoneId, u.zones[y].authority.holder = none) lit allZones
    (s := s) ⟨rfl, rfl, rfl, free⟩
  refine enterService_preserves (P := fun u => u.sessions = s.sessions ∧ u.attention = s.attention ∧
    u.changeSets = s.changeSets) ⟨?_, ?_, ?_⟩ fun u i ⟨k1, k2, k3⟩ => ⟨by rw [State.refresh_sessions, k1], ?_,
      by rw [State.refresh_changeSets, k3]⟩
  · rw [foldl_keeps State.sessions _ (fun _ _ => by simp) allInputs _, h1]
  · rw [foldl_keeps State.attention _ (fun _ _ => by simp) allInputs _, h2]
  · rw [foldl_keeps State.changeSets _ (fun _ _ => by simp) allInputs _, h3]
  · rw [← k2]
    refine Vector.ext fun n hn => ?_
    have := (refresh_spec u i).2.1 ⟨n, hn⟩
    rw [told_of_detached (by rw [k1]; exact away _)] at this
    exact this

theorem LawOfSupervision.startUp {s : State} (hd : LawOfDriving s) (h : LawOfSupervision s) :
    LawOfSupervision s.startUp := by
  by_cases hs : s.device = .starting
  · have out : s.device.outOfService := by rw [hs]; trivial
    have away : ∀ n : Master, s.sessions[n].standing = .detached := fun n => (h.at n).2.2.2.1 out
    have dark : ∀ z : ZoneId, s.zones[z].authority = .dark := fun z => (hd z).2.mpr out
    have clear : ∀ {t : State}, t.sessions = s.sessions → t.attention = s.attention → t.changeSets = s.changeSets →
        LawOfSupervision t := by
      intro t h1 h2 h3
      refine .of fun n => ?_
      obtain ⟨c1, c2, c3⟩ := (h.at n).1 (away n)
      unfold SupervisionAt DetachedIsClear
      rw [h1, h2, h3, c1, c2, c3]
      exact ⟨fun _ => ⟨rfl, rfl, rfl⟩, fun x => by simp [Session.afterReset] at x, (timerFits_away rfl).mpr rfl,
        fun _ => rfl, fun _ x => absurd rfl x⟩
    rw [startUp_of_starting hs]
    split
    · exact clear rfl rfl rfl
    · obtain ⟨h1, h2, h3⟩ := enterService_idle (s := s.withDecision s.store.read) away fun z => by
        change s.zones[z].authority.holder = none
        rw [dark z]
        rfl
      exact clear h1 h2 h3
  · rw [startUp_of_ne hs]; exact h

/-! ### Every effect keeps the law -/

theorem sensedChange_authority (s : State) (z y : ZoneId) (v : Value) :
    (s.sensedChange z v).zones[y].authority = s.zones[y].authority := by
  unfold State.sensedChange
  rw [State.withZone_zones, at_set]
  split
  next hy => subst hy; exact Zone.sense_authority ..
  next => rfl

theorem writeZoneConfig_authority (s : State) (z y : ZoneId) (c : ZoneConfig) :
    (s.writeZoneConfig z c).zones[y].authority = s.zones[y].authority := by
  rw [writeZoneConfig_zones]
  split
  next hy => subst hy; rw [retimed_eq]; simp
  next => rfl

theorem LawOfSupervision.restarted {s : State} (h : LawOfSupervision s) {m : Master} (here : s.isAttached m = true)
    {since : TimeCount} (timer : s.sessions[m].timer = .running since) (now : TimeCount) :
    LawOfSupervision (s.withTimer m (.running now)) :=
  h.withTimer here _ ((h m).2.2.1.running timer now)

theorem lawOfSupervision_effect {s t : State} (hd : LawOfDriving s) (hh : LawOfHolder s) (h : LawOfSupervision s)
    (ht : LawOfHolder t) (made : Effect s t) : LawOfSupervision t := by
  cases made with
  | follow _ f => exact h.follows f
  | move z a v _ c f _ => exact h.move hh ht f
  | acknowledge m named here => exact h.acknowledge named here
  | setEnables m enables mask here => exact h.setEnables enables mask here
  | readCaptures m c n here => exact h.readCaptures n here
  | readZoneChanges m => exact h.readZoneChanges m
  | attach m mode period away _ policy service => exact h.attach hh away policy service
  | detach m _ => exact h.detach m
  | park m here _ => exact h.park here
  | unpark m k parked => exact h.unpark hh parked
  | revoke m reason here => exact h.revoke here reason
  | strike m here => exact h.recordStrike here
  | expire m since here timer =>
    have hs : (s.recordStrike m).sessions[m] = { s.sessions[m] with strike := true } := by
      rw [recordStrike_sessions, at_set_self]
    exact (h.recordStrike here).restarted (by unfold State.isAttached; rw [hs]; exact here) (by rw [hs]; exact timer) _
  | renewOpen m since here timer => exact h.withTimer here _ ((h m).2.2.1.closed timer _)
  | renewRunning m since here timer => exact h.restarted here timer _
  | windowOpen m since timer =>
    have fits := (h m).2.2.1
    have here : s.isAttached m = true := fits.attached (by rw [timer]; simp)
    exact h.withTimer here _ (fits.opened timer _)
  | supervise m mode period here policy => exact h.supervise here policy
  | setOutput z m v _ _ =>
    exact h.kept (by simp) (by simp) (by simp) (by simp) fun y => setCommanded_authority s z y v
  | sense z v => exact h.kept rfl rfl rfl rfl fun y => sensedChange_authority s z y v
  | due => exact h.dueEvent hh
  | establish i level _ _ => exact LawOfSupervision.refresh (s := s.recognise i level) h i
  | change i level _ _ _ => exact h.recogniseChange i level
  | writeZoneConfig z c _ _ =>
    have hw : ∀ {β : Type} (g : State → β), (∀ (u : State) (r : Zone), g (u.putZone z r) = g u) →
        g (s.writeZoneConfig z c) = g (s.withZoneConfig z c) := fun g hg => hg _ _
    exact h.kept (hw State.sessions fun _ _ => by simp) (hw State.attention fun _ _ => by simp)
      (hw State.changeSets fun _ _ => by simp) (hw State.device fun _ _ => by simp)
      fun y => writeZoneConfig_authority s z y c
  | writeInputConfig i c _ => exact LawOfSupervision.refresh (s := (s.withInputConfig i c).establish i) h i
  | commit m device =>
    exact fun n => (h.at n).carryDevice rfl ⟨[], (s.told_nil n).symm⟩ (fun _ => rfl) rfl (fun x => x.elim) fun x => by cases x
  | storeFailed m image device =>
    refine LawOfSupervision.follows (s := s.withDevice .commissioning) (fun n => ?_)
      (signal_follows _ _ _ fun _ h => by cases h)
    exact (h.at n).carryDevice rfl ⟨[], (s.told_nil n).symm⟩ (fun _ => rfl) rfl (fun x => x.elim) fun x => by cases x
  | startUp _ => exact h.startUp hd
  | _ => exact h

theorem lawOfSupervision_kept : KeptByEffects fun s => (LawOfDriving s ∧ LawOfHolder s) ∧ LawOfSupervision s :=
  fun s t h made =>
    have ht := lawOfHolder_kept s t h.1 made
    ⟨ht, lawOfSupervision_effect h.1.1 h.1.2 h.2 ht.2 made⟩

theorem lawOfSupervision_restart (s : State) (cause : ResetCause) (cfg : Level) :
    LawOfSupervision (s.restart cause cfg) := by
  intro m
  have hs : (s.restart cause cfg).sessions[m] = .afterReset := by simp [State.restart, State.reset]
  have ha : (s.restart cause cfg).attention[m] = .afterReset := by simp [State.restart, State.reset]
  have hc : (s.restart cause cfg).changeSets[m] = 0 := by simp [State.restart, State.reset]
  unfold DetachedIsClear
  rw [hs, ha, hc]
  exact ⟨fun _ => ⟨rfl, rfl, rfl⟩, fun x => by simp [Session.afterReset] at x, (timerFits_away rfl).mpr rfl,
    fun _ => rfl, fun _ x => absurd rfl x⟩

/-- Settles O10: events set flags and clear none, and reach no DETACHED master; AUTO timers follow the held-zone counts,
which the law of the holder makes 0 for a master that is not ATTACHED; every other timer is set by its mode. -/
theorem everyStepKeepsTheLawOfSupervision : Obligations.EveryStepKeepsTheLawOfSupervision := by
  intro s t hd hh h hs
  exact (step_keeps lawOfSupervision_kept (fun _ _ _ _ _ h => h)
    (fun s cause cfg =>
      ⟨⟨lawOfDriving_restart s cause cfg, lawOfHolder_restart s cause cfg⟩, lawOfSupervision_restart s cause cfg⟩)
    (advance_keeps lawOfSupervision_kept fun _ h => h) ⟨⟨hd, hh⟩, h⟩ hs).2

end Sys2Proof.Machine

/-! PROOFS. What the service of a request leaves, the gating, and the requests that read. -/

namespace Sys2Proof.Machine

/-! ### The end of a service -/

/-- A request whose answer leaves the state as it was changes its port and the turn alone. -/
theorem exec_row_of_kept {s : State} {m : Master} {c : Command} {o : List Byte} (h : s.serves m c o)
    (kept : (answerOf c m o s).state = s) :
    ∃ t, exec (c.row m o) s = .next t ∧ OnlyAnswered s t ∧
      Answered s t m c (answerOf c m o s).status (answerOf c m o s).payload := by
  refine ⟨_, exec_row_of_serves h, ?_, State.finish_answered c m _ ?_ ?_ ?_⟩
  · have only := finish_onlyAnswered c m (answerOf c m o s)
    rwa [kept] at only
  all_goals rw [kept]

theorem exec_row_of_reply {s : State} {m : Master} {c : Command} {o p : List Byte} (h : s.serves m c o)
    (ha : answerOf c m o s = s.reply p) :
    ∃ t, exec (c.row m o) s = .next t ∧ OnlyAnswered s t ∧ Answered s t m c .ok p := by
  have := exec_row_of_kept h (by rw [ha]; rfl)
  rwa [ha] at this

theorem exec_row_of_refuse {s : State} {m : Master} {c : Command} {o : List Byte} {st : Status} (h : s.serves m c o)
    (ha : answerOf c m o s = s.refuse st) :
    ∃ t, exec (c.row m o) s = .next t ∧ OnlyAnswered s t ∧ Answered s t m c st [] := by
  have := exec_row_of_kept h (by rw [ha]; rfl)
  rwa [ha] at this

/-! ### Gating (R166) -/

theorem not_servedIn_iff (d : DeviceState) (c : Command) :
    c.servedIn d = false ↔
      d = .starting ∧ c ≠ .status ∧ c ≠ .nop ∨ d = .halted ∧ c ≠ .status ∧ c ≠ .readConfig ∧ c ≠ .nop := by
  cases d <;> simp [Command.servedIn]

/-- The commands that pass the second gate from each standing but ATTACHED. -/
theorem not_allowedIn_iff (st : Standing) (c : Command) :
    c.allowedIn st = false ↔
      st.isParked = true ∧ c ∉ [.status, .readFlags, .acknowledge, .setEnables, .unpark, .detach, .nop, .attach, .park] ∨
        st = .revoked ∧ c ∉ [.status, .readFlags, .acknowledge, .setEnables, .attach, .detach, .nop] ∨
        st = .detached ∧ c ∉ [.status, .readConfig, .attach, .detach, .nop] := by
  cases st with
  | attached k => simp [Command.allowedIn, Standing.isParked]
  | parked k => cases c <;> simp [Command.allowedIn, Standing.isParked]
  | revoked => cases c <;> simp [Command.allowedIn, Standing.isParked]
  | detached => cases c <;> simp [Command.allowedIn, Standing.isParked]

theorem gate_eq (s : State) (m : Master) (c : Command) (o : List Byte) :
    s.gate m c o =
      if c.servedIn s.device = false then some .wrongState
      else if c.allowedIn s.sessions[m].standing = false then some .notAttached
      else if c.lengthOk o.length = false then some .range
      else none := by
  unfold State.gate
  cases c.servedIn s.device <;> cases c.allowedIn s.sessions[m].standing <;> cases c.lengthOk o.length <;> rfl

theorem gatesInOrder : Clauses.GatesInOrder := by
  intro s m c o
  rw [gate_eq]
  exact if_congr (not_servedIn_iff _ c) rfl (if_congr (not_allowedIn_iff _ c) rfl rfl)

theorem gatedRequestsAreRefused : Clauses.GatedRequestsAreRefused := by
  intro s m c o st hr hg
  exact ⟨_, (exec_row c m o s).trans (serve_gated _ hr hg), s.finish_refuse_answered c m st,
    finish_onlyAnswered c m (s.refuse st)⟩

/-- Settles O46: the three gates read off the tables of commands, and the refusal is an answer like any other. -/
theorem gatingInOrder : Obligations.GatingInOrder :=
  ⟨gatesInOrder, gatedRequestsAreRefused⟩

/-- Settles O17: every request row is a service, and a service needs a request that is ready. -/
theorem requestsThatDoNotWaitChangeNothing : Obligations.RequestsThatDoNotWaitChangeNothing := by
  intro s m c o h
  rw [exec_row]
  exact serve_idle _ h

/-! ### Lengths of encodings -/

@[simp] theorem length_bytesOf (n w : Nat) : (bytesOf n w).length = n := by
  simp [bytesOf]

@[simp] theorem length_absent (n : Nat) : (absent n).length = n := by
  simp [absent]

@[simp] theorem length_encodeEpoch (e : Epoch) : (encodeEpoch e).length = 2 := length_bytesOf ..
@[simp] theorem length_encodeTag (t : Tag) : (encodeTag t).length = 2 := length_bytesOf ..
@[simp] theorem length_encodeFlags (f : FlagSet) : (encodeFlags f).length = 2 := length_bytesOf ..

theorem length_readbackView (s : State) (z : ZoneId) : (s.readbackView z).length = 6 := by
  unfold State.readbackView
  dsimp only
  split <;> simp

theorem length_zoneView (s : State) (z : ZoneId) : (s.zoneView z).length = 18 := by
  simp [State.zoneView, length_readbackView]

/-- Seven records: two bytes, two, three, two, four, four and one, set or clear (R171). -/
theorem length_encodeRecords (a : Attention) : (encodeRecords a).length = 2 + 2 + 3 + 2 + 4 + 4 + 1 := by
  have both : ∀ {j k l n : Nat}, j = l → k = n → j + k = l + n := fun h k => h ▸ k ▸ rfl
  unfold encodeRecords
  simp only [List.length_append]
  refine both (both (both (both (both (both ?_ ?_) ?_) ?_) ?_) ?_) rfl
  · cases a.grant <;> rfl
  · cases a.loss <;> rfl
  · cases a.asked <;> rfl
  · cases a.result <;> rfl
  · cases a.done <;> simp
  · cases a.dropped <;> simp

/-! ### STATUS and READ CONFIG -/

theorem gate_status (s : State) (m : Master) : s.gate m .status [] = none := by
  refine gate_none_iff.mpr ⟨?_, ?_, rfl⟩
  · cases s.device <;> rfl
  · cases s.sessions[m].standing <;> rfl

theorem encodeStartup_eq (c : Option StartupStore) : encodeStartup c = (c.map StartupStore.code).getD 0xFF := by
  cases c <;> rfl

theorem encodePresent_eq (c : Option StoreClass) : encodePresent c = (c.map StoreClass.code).getD 0xFF := by
  cases c <;> rfl

theorem statusReports : Clauses.StatusReports := by
  refine ⟨gate_status, fun s m hr => exec_row_of_reply (c := .status) ⟨hr, gate_status s m⟩ ?_⟩
  rw [← encodeStartup_eq, ← encodePresent_eq]
  rfl

theorem zoneOf_eq {b : Byte} {z : ZoneId} (h : b.toNat = z.val) : zoneOf b = some z := by
  unfold zoneOf
  rw [dif_pos (by omega)]
  exact congrArg some (Fin.ext h)

theorem zoneOf_none {b : Byte} (h : 8 ≤ b.toNat) : zoneOf b = none := dif_neg (by omega)

/-- The section of a zone, of an input and of the policies, and no other (R179). -/
theorem configSection_zone (s : State) {b : Byte} {z : ZoneId} (h : b.toNat = z.val) :
    s.configSection b = some (encodeZoneConfig s.config.zones[z]) := by
  unfold State.configSection
  rw [zoneOf_eq h]

theorem configSection_input (s : State) {b : Byte} {i : InputId} (h : b.toNat = 16 + i.val) :
    s.configSection b = some (encodeInputConfig s.config.inputs[i]) := by
  have hi : inputOf (b - 0x10) = some i := by
    have : (b - 0x10).toNat = i.val := by bv_omega
    unfold inputOf
    rw [dif_pos (by omega)]
    exact congrArg some (Fin.ext this)
  unfold State.configSection
  rw [zoneOf_none (by omega), hi]

theorem configSection_else (s : State) {b : Byte} (h : 8 ≤ b.toNat) (outside : b.toNat < 16 ∨ 24 ≤ b.toNat) :
    s.configSection b = if b = 0x20 then some (encodePolicies s.config) else none := by
  have hi : inputOf (b - 0x10) = none := by
    unfold inputOf
    rw [dif_neg]
    bv_omega
  unfold State.configSection
  rw [zoneOf_none h, hi]

theorem readConfig_of_some {s : State} {m : Master} {b : Byte} {items : List Byte} (h : s.configSection b = some items) :
    answerOf .readConfig m [b] s = s.reply (items ++ [s.source.code]) := by
  change readConfigAnswer m [b] s = _
  unfold readConfigAnswer
  dsimp only
  rw [h]

theorem readConfig_of_none {s : State} {m : Master} {b : Byte} (h : s.configSection b = none) :
    answerOf .readConfig m [b] s = s.refuse .range := by
  change readConfigAnswer m [b] s = _
  unfold readConfigAnswer
  dsimp only
  rw [h]

theorem readConfig_keeps (s : State) (m : Master) (b : Byte) : (answerOf .readConfig m [b] s).state = s := by
  cases h : s.configSection b with
  | none => rw [readConfig_of_none h]; rfl
  | some items => rw [readConfig_of_some h]; rfl

theorem readConfigReturnsASection : Clauses.ReadConfigReturnsASection := by
  intro s m b h
  obtain ⟨t, he, only, answered⟩ := exec_row_of_kept h (readConfig_keeps s m b)
  refine ⟨t, he, only, fun z hz => ?_, fun i hi => ?_, fun hb => ?_, fun h8 out hb => ?_⟩
  · rwa [readConfig_of_some (configSection_zone s hz)] at answered
  · rwa [readConfig_of_some (configSection_input s hi)] at answered
  · have hp : s.configSection b = some (encodePolicies s.config) := by
      rw [configSection_else s (by omega) (by omega), if_pos (BitVec.eq_of_toNat_eq hb)]
    rwa [readConfig_of_some hp] at answered
  · have hn : s.configSection b = none := by
      rw [configSection_else s h8 out, if_neg fun x => hb (by rw [x]; rfl)]
    rwa [readConfig_of_none hn] at answered

/-- Settles O47: STATUS passes every gate; a section's number names a zone, an input or the policies. -/
theorem statusAndConfigurationAreReported : Obligations.StatusAndConfigurationAreReported :=
  ⟨statusReports, readConfigReturnsASection⟩

/-! ### READ ZONE and READ ZONE CHANGES -/

theorem readZoneReturnsTheRecord : Clauses.ReadZoneReturnsTheRecord := by
  intro s m zb z hz h
  obtain ⟨t, he, only, answered⟩ := exec_row_of_reply h (s.onZone_of_some (fun z => s.reply (s.zoneView z)) hz)
  exact ⟨t, he, only, answered, length_zoneView s z⟩

theorem readZoneOutOfRangeIsRefused : Clauses.ReadZoneOutOfRangeIsRefused := by
  intro s m zb hz h
  exact exec_row_of_refuse h (s.onZone_of_none (fun z => s.reply (s.zoneView z)) (zoneOf_none hz))

theorem readZoneChangesEmptiesTheSet : Clauses.ReadZoneChangesEmptiesTheSet := by
  intro s m h
  refine ⟨_, exec_row_of_serves h, State.finish_answered .readZoneChanges m (readZoneChangesAnswer m [] s) rfl rfl rfl,
    ?_, fun n hn => ?_, ?_⟩
  · rw [State.finish_changeSets]
    exact at_set_self ..
  · rw [State.finish_changeSets]
    exact at_set_ne _ (Ne.symm hn) _
  · rw [State.finish_eq]
    rfl

/-- Settles O48: the zone's record is read whole; reading the changes empties one change set. -/
theorem readZoneAndReadZoneChanges : Obligations.ReadZoneAndReadZoneChanges :=
  ⟨readZoneReturnsTheRecord, readZoneOutOfRangeIsRefused, readZoneChangesEmptiesTheSet⟩

/-! ### READ TIME, READ STEPS, READ QUEUE and READ INPUTS -/

theorem readSteps_answer (s : State) (m : Master) (first count : Byte) :
    answerOf .readSteps m [first, count] s =
      if first.toNat ≤ 15 ∧ 1 ≤ count.toNat ∧ count.toNat ≤ 4 ∧ first.toNat + count.toNat ≤ 16 then
        s.reply (encodeSteps s.banks[m] first.toNat count.toNat)
      else s.refuse .range := by
  change readStepsAnswer m [first, count] s = _
  unfold readStepsAnswer
  dsimp only
  by_cases h : first.toNat ≤ 15 ∧ 1 ≤ count.toNat ∧ count.toNat ≤ 4 ∧ first.toNat + count.toNat ≤ 16
  · rw [if_neg (by omega), if_pos h]
  · rw [if_pos (by omega), if_neg h]

theorem readQueue_answer (s : State) (m : Master) (start : Byte) :
    answerOf .readQueue m [start] s =
      if start.toNat ≤ 15 then
        s.reply ([byteOf (s.entryCount m), byteOf s.queue.length] ++
          encodeEntries start.toNat (((s.queue.filter fun e => decide (e.poster = m)).drop start.toNat).take 4))
      else s.refuse .range := by
  change readQueueAnswer m [start] s = _
  unfold readQueueAnswer
  dsimp only
  by_cases h : start.toNat ≤ 15
  · rw [if_neg (by omega), if_pos h]
    rfl
  · rw [if_pos (by omega), if_neg h]

/-- Settles O19: each of the four answers leaves the state as it was. -/
theorem queueAndInputReadsChangeNothing : Obligations.QueueAndInputReadsChangeNothing := by
  refine ⟨fun s m h => exec_row_of_reply h rfl, fun s m first count h => ?_, fun s m start h => ?_,
    fun s m h => exec_row_of_reply h rfl⟩
  · split
    next inRange => exact exec_row_of_reply h (by rw [readSteps_answer, if_pos inRange])
    next out => exact exec_row_of_refuse h (by rw [readSteps_answer, if_neg out])
  · split
    next inRange => exact exec_row_of_reply h (by rw [readQueue_answer, if_pos inRange])
    next out => exact exec_row_of_refuse h (by rw [readQueue_answer, if_neg out])

/-! ### READ FLAGS and ATTN -/

/-- The flags in the order of R152's table. -/
def allFlags : List Flag :=
  [.zonesChanged, .granted, .lost, .handoverAsked, .handoverResult, .actionDone, .actionDropped, .captureAvailable,
    .captureGap, .inhibitChange, .zoneFault, .supervisionWarning, .revoked, .wakeRequest, .storeFailed]

theorem allFlags_index : ∀ i : Fin 15, (allFlags[i.val]'i.isLt).index = i.val := by decide

theorem Flag.index_lt (f : Flag) : f.index < 15 := by cases f <;> decide

/-- A flag set is not empty exactly where it has one of the fifteen flags. -/
theorem flagSet_ne_zero_iff (a : FlagSet) : a ≠ 0 ↔ ∃ f : Flag, f.mem a = true := by
  refine ⟨fun h => ?_, fun ⟨f, hf⟩ h => by rw [h] at hf; simp [Flag.mem] at hf⟩
  by_contra none
  refine h (BitVec.eq_of_getLsbD_eq fun i hi => ?_)
  change a.getLsbD i = (0#15).getLsbD i
  rw [BitVec.getLsbD_zero]
  refine Bool.eq_false_iff.mpr fun x => none ⟨allFlags[i]'hi, ?_⟩
  rw [Flag.mem, allFlags_index ⟨i, hi⟩, x]

theorem Flag.mem_and (f : Flag) (a b : FlagSet) : f.mem (a &&& b) = (f.mem a && f.mem b) := BitVec.getLsbD_and

theorem flags_meet (a b : FlagSet) :
    decide (a &&& b ≠ 0) = true ↔ ∃ f : Flag, f.mem a = true ∧ f.mem b = true := by
  rw [decide_eq_true_iff, flagSet_ne_zero_iff]
  simp only [Flag.mem_and, Bool.and_eq_true]

theorem attn_iff (s : State) (m : Master) :
    s.attn m = true ↔
      (¬ s.sessions[m].standing.isParked = true ∧
          ∃ f : Flag, f.mem s.attention[m].flags = true ∧ f.mem s.attention[m].enables = true) ∨
        (s.sessions[m].standing.isParked = true ∧ Flag.wakeRequest.mem s.attention[m].flags = true) := by
  unfold State.attn
  by_cases parked : s.sessions[m].standing.isParked = true
  · rw [if_pos parked]
    exact ⟨fun h => .inr ⟨parked, h⟩, fun h => h.elim (fun x => absurd parked x.1) (·.2)⟩
  · rw [if_neg parked, flags_meet]
    exact ⟨fun h => .inl ⟨parked, h⟩, fun h => h.elim (·.2) (fun x => absurd x.1 parked)⟩

/-- Settles O20: the records have twenty bytes whatever they hold, and the fifteen flags are the bits of a flag set. -/
theorem readFlagsAndAttn : Obligations.ReadFlagsAndAttn := by
  refine ⟨fun s m h => ?_, attn_iff⟩
  obtain ⟨t, he, only, answered⟩ := exec_row_of_reply h (p := encodeFlags s.attention[m].flags ++
    encodeFlags s.attention[m].enables ++ [s.attention[m].notifyMask] ++ encodeRecords s.attention[m] ++
    [yesNo (s.attn m)]) rfl
  exact ⟨t, he, only, _, answered, by simp [length_encodeRecords], rfl⟩

end Sys2Proof.Machine

/-! PROOFS. A change of a zone's authority read off in one record, and the zone requests that make one. -/

namespace Sys2Proof.Machine

/-! ### What a change of authority does (R7 to R9, R28, R120, R125) -/

/-- Zone `z` has come to authority `a` and commanded value `v`, and the lines, the change sets and the AUTO timers have
followed; masters may have been told of it and entries removed. -/
structure Reassigned (s t : State) (z : ZoneId) (a : Authority) (v : Value) : Prop where
  others : OtherZonesKept s t z
  authority : t.zones[z].authority = a
  commanded : t.zones[z].commanded = v
  inhibit : t.zones[z].inhibit = s.zones[z].inhibit
  sensed : t.zones[z].sensed = s.zones[z].sensed
  epoch : EpochFollows s t z
  driven : t.zones[z].driven = drivenBy a v (s.fallback z) s.zones[z].inhibit
  redriven : ∀ w, drivenBy a v (s.fallback z) s.zones[z].inhibit = some w → Redriven s t z w
  lines : drivenBy a v (s.fallback z) s.zones[z].inhibit =
      drivenBy s.zones[z].authority s.zones[z].commanded (s.fallback z) s.zones[z].inhibit → LinesKept s t z
  sets : s.zones[z].authority.moves a = true → SetsFollow s t z
  timers : TimersFollow s t
  counts : ∀ n : Master, t.heldCount n + (if s.zones[z].authority.holder = some n then 1 else 0) =
    s.heldCount n + (if a.holder = some n then 1 else 0)
  sessions : a.holder = s.zones[z].authority.holder → t.sessions = s.sessions

theorem setAuthority_reassigned (s : State) (z : ZoneId) (a : Authority) (v : Value) :
    Reassigned s (s.setAuthority z a v) z a v where
  others y hy := State.setAuthority_zones_ne s (Ne.symm hy) a v
  authority := by rw [State.setAuthority_zones_self, Zone.drive_authority]; rfl
  commanded := by rw [State.setAuthority_zones_self, Zone.drive_commanded]; rfl
  inhibit := by rw [State.setAuthority_zones_self, Zone.drive_inhibit]; rfl
  sensed := by rw [State.setAuthority_zones_self, Zone.drive_sensed]; rfl
  epoch := by
    unfold EpochFollows
    rw [State.setAuthority_zones_self, Zone.drive_authority, Zone.drive_epoch]
    rfl
  driven := by rw [State.setAuthority_zones_self, Zone.drive_driven]; rfl
  redriven w hw := by
    unfold Redriven
    rw [State.setAuthority_zones_self]
    exact Zone.drive_some _ _ _ (s.zones[z].reassign a v) w hw
  lines h := State.setAuthority_linesKept s z a v h
  sets moved n := by rw [State.setAuthority_changeSets, if_pos moved]
  timers n := State.setAuthority_sessions s z a v n
  counts n := State.setAuthority_heldCount s z a v n
  sessions h := State.setAuthority_sessions_kept s z a v h

theorem Reassigned.congr {s t u : State} {z : ZoneId} {a : Authority} {v : Value} (h : Reassigned s t z a v)
    (hz : u.zones = t.zones) (hc : u.changeSets = t.changeSets) (hs : u.sessions = t.sessions) :
    Reassigned s u z a v where
  others y hy := by rw [hz]; exact h.others y hy
  authority := by rw [hz]; exact h.authority
  commanded := by rw [hz]; exact h.commanded
  inhibit := by rw [hz]; exact h.inhibit
  sensed := by rw [hz]; exact h.sensed
  epoch := by unfold EpochFollows; rw [hz]; exact h.epoch
  driven := by rw [hz]; exact h.driven
  redriven w hw := by unfold Redriven; rw [hz]; exact h.redriven w hw
  lines k := by unfold LinesKept; rw [hz]; exact h.lines k
  sets moved n := by rw [hc]; exact h.sets moved n
  timers n := by rw [hs, State.heldCount_congr hz]; exact h.timers n
  counts n := by rw [State.heldCount_congr hz]; exact h.counts n
  sessions k := by rw [hs]; exact h.sessions k

theorem Reassigned.signal {s t : State} {z : ZoneId} {a : Authority} {v : Value} (h : Reassigned s t z a v) (m : Master)
    (e : Signal) : Reassigned s (t.signal m e) z a v :=
  h.congr (by simp) (by simp) (by simp)

theorem Reassigned.dropEntries {s t : State} {z : ZoneId} {a : Authority} {v : Value} (h : Reassigned s t z a v)
    (p : Entry → Bool) : Reassigned s (t.dropEntries p) z a v :=
  h.congr (by simp) (by simp) (by simp)

theorem Reassigned.removeEntries {s t : State} {z : ZoneId} {a : Authority} {v : Value} (h : Reassigned s t z a v)
    (p : Entry → Bool) : Reassigned s (t.removeEntries p) z a v :=
  h.congr rfl rfl rfl

theorem Reassigned.tellGranted {s t : State} {z : ZoneId} {a : Authority} {v : Value} (h : Reassigned s t z a v)
    (y : ZoneId) (m : Master) (o : HandoverOutcome) (c : GrantCause) : Reassigned s (t.tellGranted y m o c) z a v :=
  (h.signal _ _).signal _ _

/-- The epoch where the holder changes, and where it stays (R7). -/
theorem Reassigned.epoch_stepped {s t : State} {z : ZoneId} {a : Authority} {v : Value} (h : Reassigned s t z a v)
    (moved : s.zones[z].authority.holder ≠ a.holder) : t.zones[z].epoch = s.zones[z].epoch + 1 := by
  have e := h.epoch
  unfold EpochFollows at e
  rw [h.authority, if_neg moved] at e
  exact e

theorem Reassigned.epoch_kept {s t : State} {z : ZoneId} {a : Authority} {v : Value} (h : Reassigned s t z a v)
    (same : s.zones[z].authority.holder = a.holder) : t.zones[z].epoch = s.zones[z].epoch := by
  have e := h.epoch
  unfold EpochFollows at e
  rw [h.authority, if_pos same] at e
  exact e

theorem moves_of_kind {a b : Authority} (h : a.kind ≠ b.kind) : a.moves b = true := decide_eq_true (.inl h)

theorem moves_of_holder {a b : Authority} (h : a.holder ≠ b.holder) : a.moves b = true := decide_eq_true (.inr h)

/-! ### Attention after a change and what is told after it -/

theorem setAuthority_noted {s : State} {z : ZoneId} {a : Authority} (v : Value)
    (moved : s.zones[z].authority.moves a = true) (n : Master) : (s.setAuthority z a v).attention[n] = s.noted n := by
  rw [State.setAuthority_attention, if_pos moved]

theorem signal_attention_self {s : State} {m : Master} (h : s.sessions[m].standing ≠ .detached) (e : Signal) :
    (s.signal m e).attention[m] = s.attention[m].after e := by
  rw [State.signal_attention, if_pos ⟨rfl, h⟩]

theorem signal_attention_ne (s : State) {m n : Master} (h : n ≠ m) (e : Signal) :
    (s.signal m e).attention[n] = s.attention[n] := by
  rw [State.signal_attention, if_neg fun x => h x.1.symm]

theorem tellGranted_attention_self {s : State} {m : Master} (h : s.sessions[m].standing ≠ .detached) (z : ZoneId)
    (o : HandoverOutcome) (c : GrantCause) :
    (s.tellGranted z m o c).attention[m] = (s.attention[m].after (.handoverResult z o)).after (.granted z c) := by
  unfold State.tellGranted
  rw [signal_attention_self (by simpa using h), signal_attention_self h]

theorem tellGranted_attention_ne (s : State) {m n : Master} (h : n ≠ m) (z : ZoneId) (o : HandoverOutcome)
    (c : GrantCause) : (s.tellGranted z m o c).attention[n] = s.attention[n] := by
  unfold State.tellGranted
  rw [signal_attention_ne _ h, signal_attention_ne _ h]

theorem dropEntries_isOf_attention_self {s : State} {m : Master} (h : s.sessions[m].standing ≠ .detached) (z : ZoneId) :
    (s.dropEntries (Entry.isOf m z)).attention[m] =
      reportedLost m s.attention[m] (s.queue.filter fun e => decide (e.poster = m ∧ e.zone = z)) :=
  State.dropEntries_attention s _ m h

theorem dropEntries_isOf_attention_ne (s : State) {m n : Master} (h : n ≠ m) (z : ZoneId) :
    (s.dropEntries (Entry.isOf m z)).attention[n] = s.attention[n] :=
  State.dropEntries_attention_none s _ n fun _ _ he hn => h (hn.symm.trans (of_decide_eq_true he).1)

theorem filter_not_isOf (q : List Entry) (m : Master) (z : ZoneId) :
    (q.filter fun e => !Entry.isOf m z e) = q.filter fun e => decide (¬ (e.poster = m ∧ e.zone = z)) := by
  simp only [Entry.isOf, decide_not]

/-! ### Requests that change the table -/

theorem OnlyAnswered.zones {u t : State} (h : OnlyAnswered u t) : t.zones = u.zones := by rw [h]
theorem OnlyAnswered.changeSets {u t : State} (h : OnlyAnswered u t) : t.changeSets = u.changeSets := by rw [h]
theorem OnlyAnswered.sessions {u t : State} (h : OnlyAnswered u t) : t.sessions = u.sessions := by rw [h]
theorem OnlyAnswered.attention {u t : State} (h : OnlyAnswered u t) : t.attention = u.attention := by rw [h]
theorem OnlyAnswered.queue {u t : State} (h : OnlyAnswered u t) : t.queue = u.queue := by rw [h]

theorem OnlyTable.answered {s u t : State} (k : OnlyTable s u) (h : OnlyAnswered u t) : OnlyTable s t := by
  unfold OnlyTable
  rw [h, k]

theorem OnlyTableAndQueue.answered {s u t : State} (k : OnlyTableAndQueue s u) (h : OnlyAnswered u t) :
    OnlyTableAndQueue s t := by
  unfold OnlyTableAndQueue
  rw [h, k]

theorem OnlyTable.signal {s t : State} (k : OnlyTable s t) (m : Master) (e : Signal) : OnlyTable s (t.signal m e) := by
  have h : t.signal m e = { t with attention := (t.signal m e).attention } := by ext1 <;> simp
  unfold OnlyTable
  rw [h, k]

theorem OnlyTableAndQueue.signal {s t : State} (k : OnlyTableAndQueue s t) (m : Master) (e : Signal) :
    OnlyTableAndQueue s (t.signal m e) := by
  have h : t.signal m e = { t with attention := (t.signal m e).attention } := by ext1 <;> simp
  unfold OnlyTableAndQueue
  rw [h, k]

theorem OnlyTableAndQueue.removeEntries {s t : State} (k : OnlyTableAndQueue s t) (p : Entry → Bool) :
    OnlyTableAndQueue s (t.removeEntries p) := by
  have h : t.removeEntries p = { t with queue := (t.removeEntries p).queue } := rfl
  unfold OnlyTableAndQueue
  rw [h, k]

theorem OnlyTableAndQueue.dropEntries {s t : State} (k : OnlyTableAndQueue s t) (p : Entry → Bool) :
    OnlyTableAndQueue s (t.dropEntries p) := by
  have h : t.dropEntries p = { t with queue := (t.dropEntries p).queue, attention := (t.dropEntries p).attention } :=
    (dropEntries_follows t p).frame
  unfold OnlyTableAndQueue
  rw [h, k]

theorem OnlyTable.andQueue {s t : State} (k : OnlyTable s t) : OnlyTableAndQueue s t := by
  unfold OnlyTableAndQueue
  rw [k]

theorem setAuthority_onlyTable (s : State) (z : ZoneId) (a : Authority) (v : Value) :
    OnlyTable s (s.setAuthority z a v) := by
  unfold OnlyTable
  ext1 <;> simp

/-- A request that is taken: what its answer made of the state, and then its port and the turn alone. -/
theorem exec_row_of_taken {s u : State} {m : Master} {c : Command} {o p : List Byte} (h : s.serves m c o)
    (ha : answerOf c m o s = u.reply p) (hp : u.ports = s.ports) (hl : u.lastServed = s.lastServed)
    (hc : u.chosen = s.chosen) :
    ∃ t, exec (c.row m o) s = .next t ∧ OnlyAnswered u t ∧ Answered s t m c .ok p :=
  ⟨_, exec_row_of_serves h, by rw [ha]; exact finish_onlyAnswered c m (u.reply p),
    by rw [ha]; exact State.finish_answered c m (u.reply p) hp hl hc⟩

/-- A request that a change of authority and what follows it answers. -/
theorem exec_row_of_table {s u : State} {m : Master} {c : Command} {o p : List Byte} (h : s.serves m c o)
    (ha : answerOf c m o s = u.reply p) (k : OnlyTableAndQueue s u) (hp : u.ports = s.ports)
    (hl : u.lastServed = s.lastServed) (hc : u.chosen = s.chosen) {z : ZoneId} {a : Authority} {v : Value}
    (r : Reassigned s u z a v) :
    ∃ t, exec (c.row m o) s = .next t ∧ OnlyTableAndQueue s t ∧ OnlyAnswered u t ∧ Answered s t m c .ok p ∧
      Reassigned s t z a v := by
  obtain ⟨t, he, only, answered⟩ := exec_row_of_taken h ha hp hl hc
  exact ⟨t, he, k.answered only, only, answered, r.congr only.zones only.changeSets only.sessions⟩

/-! ### CLAIM (R14, R15) -/

theorem claim_reassigned (s : State) (z : ZoneId) (m : Master) :
    Reassigned s (s.claim z m) z (.held m) (s.fallback z) := setAuthority_reassigned ..

theorem held_fallback_drives (m : Master) (v : Value) (inhibit : InputSet) :
    drivenBy (.held m) v v inhibit = some v := by
  simp [drivenBy, Authority.kind]

theorem claim_answer_vacant {s : State} {m : Master} {zb : Byte} {z : ZoneId} (hz : zoneOf zb = some z)
    (writable : s.device.isStoring = false) (permitted : s.permits z m = true) (clean : s.sessions[m].strike = false)
    (free : s.zones[z].authority = .vacant) :
    answerOf .claim m [zb] s = (s.claim z m).reply (encodeEpoch (s.zones[z].epoch + 1)) := by
  have stepped : (s.claim z m).zones[z].epoch = s.zones[z].epoch + 1 :=
    (claim_reassigned s z m).epoch_stepped (by rw [free]; exact nofun)
  rw [← stepped]
  change claimAnswer m [zb] s = _
  simp [claimAnswer, State.onZone, hz, writable, permitted, clean, free, -Fin.getElem_fin]

theorem claim_taken : Clauses.ClaimTakenFromVacant := by
  intro s m zb z hz h writable permitted clean free
  have hh : s.zones[z].authority.holder ≠ (Authority.held m).holder := by rw [free]; exact nofun
  have only := setAuthority_onlyTable s z (.held m) (s.fallback z)
  obtain ⟨t, he, kept, answered⟩ := exec_row_of_taken h (claim_answer_vacant hz writable permitted clean free)
    (by simp [State.claim]) (by simp [State.claim]) (by simp [State.claim])
  have r := (claim_reassigned s z m).congr kept.zones kept.changeSets kept.sessions
  have drives := held_fallback_drives m (s.fallback z) s.zones[z].inhibit
  refine ⟨t, he, only.answered kept, r.others, r.authority, r.epoch_stepped hh, r.commanded, r.driven.trans drives,
    r.inhibit, r.sensed, fun hd => ?_, r.sets (moves_of_holder hh), fun n => ?_, r.timers, ?_, answered⟩
  · have law : s.zones[z].driven =
        drivenBy s.zones[z].authority s.zones[z].commanded (s.fallback z) s.zones[z].inhibit := by rw [hd, free]; rfl
    exact ((r.lines (by rw [drives, free]; rfl)).2 law).2
  · rw [kept.attention]
    exact setAuthority_noted _ (moves_of_holder hh) n
  · have := r.counts m
    rwa [free, if_neg (by exact nofun), if_pos (by rfl)] at this

/-- Every guard of CLAIM that fails decides the answer; the holder itself is answered OK. -/
theorem claim_refused : Clauses.ClaimRefusedByTheFirstCheck := by
  intro s m zb h free
  cases busy : s.device.isStoring with
  | true =>
    simp only [if_true]
    exact exec_row_of_refuse (st := .busy) h (by simp [answerOf, claimAnswer, busy])
  | false =>
    simp only [Bool.false_eq_true, if_false]
    cases hz : zoneOf zb with
    | none => exact exec_row_of_refuse (st := .range) h (by simp [answerOf, claimAnswer, State.onZone, busy, hz])
    | some z =>
      dsimp only
      cases hp : s.permits z m with
      | false =>
        simp only [if_true]
        exact exec_row_of_refuse (st := .notPermitted) h (by simp [answerOf, claimAnswer, State.onZone, busy, hz, hp])
      | true =>
        simp only [Bool.true_eq_false, if_false]
        cases hk : s.sessions[m].strike with
        | true =>
          simp only [if_true]
          exact exec_row_of_refuse (st := .strikePending) h
            (by simp [answerOf, claimAnswer, State.onZone, busy, hz, hp, hk, -Fin.getElem_fin])
        | false =>
          simp only [Bool.false_eq_true, if_false]
          have checked : ∀ r, (answerOf .claim m [zb] s = r ↔ claimAnswer m [zb] s = r) := fun _ => Iff.rfl
          simp only [claimAnswer, State.onZone, busy, hz, hp, hk, Bool.not_true, Bool.false_eq_true, if_false] at checked
          cases ha : s.zones[z].authority with
          | vacant => exact absurd ha (free z hz busy hp hk)
          | held k =>
            by_cases hm : k = m
            · simp only [hm, if_true]
              exact exec_row_of_reply h ((checked _).mpr (by rw [ha]; exact if_pos hm))
            · simp only [hm, if_false]
              exact exec_row_of_refuse h ((checked _).mpr (by rw [ha]; exact if_neg hm))
          | dark => exact exec_row_of_refuse h ((checked _).mpr (by rw [ha]))
          | transfer k p => exact exec_row_of_refuse h ((checked _).mpr (by rw [ha]))
          | settling c => exact exec_row_of_refuse h ((checked _).mpr (by rw [ha]))
          | faulted => exact exec_row_of_refuse h ((checked _).mpr (by rw [ha]))

/-- Settles O50: the claim of a vacant zone is one change of authority; every other answer leaves the state alone. -/
theorem claimIsCheckedAndTaken : Obligations.ClaimIsCheckedAndTaken :=
  ⟨claim_taken, claim_refused⟩

end Sys2Proof.Machine

/-! PROOFS. RELEASE, SET OUTPUT and CLEAR FAULT. -/

namespace Sys2Proof.Machine

/-! ### RELEASE (R17, R18, R59) -/

theorem entriesFor_eq (s : State) (m : Master) (z : ZoneId) :
    s.entriesFor m z = s.queue.countP fun e => decide (e.poster = m ∧ e.zone = z) := rfl

theorem release_answer_held {s : State} {m : Master} {zb : Byte} {z : ZoneId} (hz : zoneOf zb = some z)
    (held : s.zones[z].authority = .held m) :
    answerOf .release m [zb] s =
      (s.releaseHeld z m).reply (encodeEpoch (s.releaseHeld z m).zones[z].epoch ++
        [byteOf (s.queue.countP fun e => decide (e.poster = m ∧ e.zone = z))]) := by
  change releaseAnswer m [zb] s = _
  simp [releaseAnswer, State.onZone, hz, State.holds, held, Authority.holder, Authority.request, entriesFor_eq,
    -Fin.getElem_fin]

theorem release_answer_transfer {s : State} {m : Master} {zb : Byte} {z : ZoneId} {p : Pending}
    (hz : zoneOf zb = some z) (asked : s.zones[z].authority = .transfer m p) :
    answerOf .release m [zb] s =
      (s.releaseTransfer z m p.requester).reply (encodeEpoch (s.releaseTransfer z m p.requester).zones[z].epoch ++
        [byteOf (s.queue.countP fun e => decide (e.poster = m ∧ e.zone = z))]) := by
  change releaseAnswer m [zb] s = _
  simp [releaseAnswer, State.onZone, hz, State.holds, asked, Authority.holder, Authority.request, entriesFor_eq,
    -Fin.getElem_fin]

theorem releaseHeld_reassigned (s : State) (z : ZoneId) (m : Master) :
    Reassigned s (s.releaseHeld z m) z .vacant (s.fallback z) :=
  (setAuthority_reassigned ..).removeEntries _

theorem transferTo_reassigned (s : State) (z : ZoneId) (m : Master) :
    Reassigned s (s.transferTo z m) z (.held m) s.zones[z].commanded := setAuthority_reassigned ..

theorem releaseTransfer_reassigned (s : State) (z : ZoneId) (m r : Master) :
    Reassigned s (s.releaseTransfer z m r) z (.held r) s.zones[z].commanded :=
  ((transferTo_reassigned s z r).removeEntries _).tellGranted _ _ _ _

theorem releaseHeld_attention (s : State) (z : ZoneId) (m : Master) :
    (s.releaseHeld z m).attention = (s.setAuthority z .vacant (s.fallback z)).attention := by
  simp [State.releaseHeld]

theorem transferTo_noted {s : State} {z : ZoneId} {r : Master} (moved : s.zones[z].authority.moves (.held r) = true)
    (n : Master) : (s.transferTo z r).attention[n] = s.noted n :=
  setAuthority_noted _ moved n

theorem transferTo_attached {s : State} (z : ZoneId) (r n : Master) (h : s.isAttached n = true) :
    (s.transferTo z r).sessions[n].standing ≠ .detached := by
  unfold State.transferTo
  rw [State.setAuthority_standing]
  exact attached_ne_detached h

theorem releaseTransfer_attention_ne {s : State} {z : ZoneId} {m r n : Master} (hn : n ≠ r)
    (moved : s.zones[z].authority.moves (.held r) = true) : (s.releaseTransfer z m r).attention[n] = s.noted n := by
  unfold State.releaseTransfer
  rw [tellGranted_attention_ne _ hn, State.removeEntries_attention, transferTo_noted moved]

theorem releaseTransfer_attention_self {s : State} {z : ZoneId} {m r : Master} (attached : s.isAttached r = true)
    (moved : s.zones[z].authority.moves (.held r) = true) :
    (s.releaseTransfer z m r).attention[r] =
      ((s.noted r).after (.handoverResult z .granted)).after (.granted z .handover) := by
  unfold State.releaseTransfer
  rw [tellGranted_attention_self, State.removeEntries_attention, transferTo_noted moved]
  rw [State.removeEntries_sessions]
  exact transferTo_attached z r r attached

theorem releaseTransfer_queue (s : State) (z : ZoneId) (m r : Master) :
    (s.releaseTransfer z m r).queue = s.queue.filter fun e => decide (¬ (e.poster = m ∧ e.zone = z)) := by
  rw [← filter_not_isOf]
  simp [State.releaseTransfer, State.transferTo]

theorem releaseTransfer_onlyTable (s : State) (z : ZoneId) (m r : Master) :
    OnlyTableAndQueue s (s.releaseTransfer z m r) := by
  unfold State.releaseTransfer State.tellGranted State.transferTo
  exact (((setAuthority_onlyTable s z _ _).andQueue.removeEntries _).signal _ _).signal _ _

theorem transferTo_onlyTable (s : State) (z : ZoneId) (m : Master) : OnlyTable s (s.transferTo z m) :=
  setAuthority_onlyTable ..

theorem release_held : Clauses.ReleaseFromHeld := by
  intro s m zb z hz h held
  have hh : s.zones[z].authority.holder ≠ Authority.vacant.holder := by rw [held]; exact nofun
  have answer := release_answer_held hz held
  rw [(releaseHeld_reassigned s z m).epoch_stepped hh] at answer
  obtain ⟨t, he, only, kept, answered, r⟩ := exec_row_of_table h answer
    ((setAuthority_onlyTable s z _ _).andQueue.removeEntries _) (by simp [State.releaseHeld])
    (by simp [State.releaseHeld]) (by simp [State.releaseHeld]) (releaseHeld_reassigned s z m)
  refine ⟨t, he, only, r.others, r.authority, r.epoch_stepped hh, r.commanded, r.driven, r.inhibit, r.sensed,
    r.redriven _ rfl, ?_, r.sets (moves_of_holder hh), fun n => ?_, r.timers, answered⟩
  · rw [kept.queue, ← filter_not_isOf]
    simp [State.releaseHeld]
  · rw [kept.attention, releaseHeld_attention]
    exact setAuthority_noted _ (moves_of_holder hh) n

/-- A transfer leaves what the law of driving gives: TRANSFER and HELD drive alike (R53, R120). -/
theorem drivenBy_transfer (h r : Master) (p : Pending) (v f : Value) (inhibit : InputSet) :
    drivenBy (.held r) v f inhibit = drivenBy (.transfer h p) v f inhibit := rfl

theorem release_transfer {s : State} {m : Master} {zb : Byte} {z : ZoneId} {p : Pending} (hz : zoneOf zb = some z)
    (h : s.serves m .release [zb]) (asked : s.zones[z].authority = .transfer m p) (other : p.requester ≠ m) :
    ∃ t, exec (.release m [zb]) s = .next t ∧ OnlyTableAndQueue s t ∧ OtherZonesKept s t z ∧
      t.zones[z].authority = .held p.requester ∧ t.zones[z].epoch = s.zones[z].epoch + 1 ∧
      t.zones[z].commanded = s.zones[z].commanded ∧ t.zones[z].inhibit = s.zones[z].inhibit ∧ LinesKept s t z ∧
      t.queue = s.queue.filter (fun e => decide (¬ (e.poster = m ∧ e.zone = z))) ∧
      SetsFollow s t z ∧ TimersFollow s t ∧
      (∀ n : Master, n ≠ p.requester → t.attention[n] = s.noted n) ∧
      (s.isAttached p.requester = true →
        t.attention[p.requester] =
          ((s.noted p.requester).after (.handoverResult z .granted)).after (.granted z .handover)) ∧
      Answered s t m .release .ok
        (encodeEpoch (s.zones[z].epoch + 1) ++
          [byteOf (s.queue.countP fun e => decide (e.poster = m ∧ e.zone = z))]) := by
  have hh : s.zones[z].authority.holder ≠ (Authority.held p.requester).holder := by
    rw [asked]
    exact fun x => other (Option.some.inj x).symm
  have moved := moves_of_holder hh
  have answer := release_answer_transfer hz asked
  rw [(releaseTransfer_reassigned s z m p.requester).epoch_stepped hh] at answer
  obtain ⟨t, he, only, kept, answered, r⟩ := exec_row_of_table h answer
    (releaseTransfer_onlyTable s z m p.requester)
    (by simp [State.releaseTransfer, State.transferTo]) (by simp [State.releaseTransfer, State.transferTo])
    (by simp [State.releaseTransfer, State.transferTo]) (releaseTransfer_reassigned s z m p.requester)
  refine ⟨t, he, only, r.others, r.authority, r.epoch_stepped hh, r.commanded, r.inhibit,
    r.lines (by rw [asked]; rfl), ?_, r.sets moved, r.timers, fun n hn => ?_, fun attached => ?_, answered⟩
  · rw [kept.queue, releaseTransfer_queue]
  · rw [kept.attention, releaseTransfer_attention_ne hn moved]
  · rw [kept.attention, releaseTransfer_attention_self attached moved]

/-- Settles O51: RELEASE is one change of authority, to VACANT or to the requester, and the releaser's entries go. -/
theorem releaseIsCheckedAndTaken : Obligations.ReleaseIsCheckedAndTaken := by
  refine ⟨release_held, fun _ _ _ _ _ hz h asked other => release_transfer hz h asked other, ?_⟩
  intro s m zb h notHolder
  cases hz : zoneOf zb with
  | none => exact exec_row_of_refuse (st := .range) h (by simp [answerOf, releaseAnswer, State.onZone, hz])
  | some z =>
    have hh : s.holds m z = false := decide_eq_false (notHolder z hz)
    exact exec_row_of_refuse (st := .notHolder) h (by simp [answerOf, releaseAnswer, State.onZone, hz, hh])

/-! ### SET OUTPUT (R19, R20) -/

theorem setOutput_refuse {s : State} {m : Master} {zb vb : Byte} {st : Status} (h : s.serves m .setOutput [zb, vb])
    (ha : answerOf .setOutput m [zb, vb] s = s.refuse st) :
    ∃ t, exec (.setOutput m [zb, vb]) s = .next t ∧
      t = { s with zones := t.zones, ports := t.ports, lastServed := t.lastServed, chosen := t.chosen } ∧
      Answered s t m .setOutput st [] ∧ OnlyAnswered s t := by
  obtain ⟨t, he, only, answered⟩ := exec_row_of_refuse h ha
  exact ⟨t, he, by rw [only], answered, only⟩

theorem setOutput_taken {s : State} {m : Master} {zb vb : Byte} {z : ZoneId} {v : Value}
    (h : s.serves m .setOutput [zb, vb]) (hz : zoneOf zb = some z) (hv : valueOf vb = some v)
    (holder : s.zones[z].authority.holder = some m) (clear : s.zones[z].inhibit = 0) :
    ∃ t, exec (.setOutput m [zb, vb]) s = .next t ∧
      t = { s with zones := t.zones, ports := t.ports, lastServed := t.lastServed, chosen := t.chosen } ∧
      OtherZonesKept s t z ∧ t.zones[z].commanded = v ∧ t.zones[z].driven = some v ∧
        t.zones[z].authority = s.zones[z].authority ∧ t.zones[z].epoch = s.zones[z].epoch ∧
        t.zones[z].inhibit = s.zones[z].inhibit ∧ t.zones[z].sensed = s.zones[z].sensed ∧
        (s.zones[z].driven = some v → t.zones[z].monitor = s.zones[z].monitor) ∧ Redriven s t z v ∧
        Answered s t m .setOutput .ok (encodeEpoch s.zones[z].epoch ++ [encodeValue v]) := by
  have holds : s.holds m z = true := decide_eq_true holder
  have answer : answerOf .setOutput m [zb, vb] s =
      (s.setCommanded z v).reply (encodeEpoch s.zones[z].epoch ++ [encodeValue v]) := by
    change setOutputAnswer m [zb, vb] s = _
    simp [setOutputAnswer, State.onZone, hz, hv, holds, clear, -Fin.getElem_fin]
  obtain ⟨t, he, kept, answered⟩ := exec_row_of_taken h answer (by simp) (by simp) (by simp)
  have drives : drivenBy s.zones[z].authority v (s.fallback z) s.zones[z].inhibit = some v := by
    rw [clear]
    exact drivenBy_held _ (by rw [holder]; rfl) v
  have self : t.zones[z] = { s.zones[z] with commanded := v }.drive (s.fallback z) s.config.zones[z].checkTime
      s.timeCount := by
    rw [kept.zones]
    exact State.putZone_zones_self ..
  refine ⟨t, he, ?_, fun y hy => ?_, ?_, ?_, ?_, ?_, ?_, ?_, fun hd => ?_, ?_, answered⟩
  · have frame : s.setCommanded z v = { s with zones := (s.setCommanded z v).zones } := rfl
    rw [kept, frame]
  · rw [kept.zones]
    exact State.putZone_zones_ne s (Ne.symm hy) _
  · rw [self, Zone.drive_commanded]
  · rw [self, Zone.drive_driven]
    exact drives
  · rw [self, Zone.drive_authority]
  · rw [self, Zone.drive_epoch]
  · rw [self, Zone.drive_inhibit]
  · rw [self, Zone.drive_sensed]
  · rw [self, Zone.drive_kept _ _ _ { s.zones[z] with commanded := v } (hd.trans drives.symm)]
  · unfold Redriven
    rw [self]
    exact Zone.drive_some _ _ _ { s.zones[z] with commanded := v } v drives

/-- Settles O27: the checks in their order, and then one commanded value. -/
theorem setOutputIsCheckedAndTaken : Obligations.SetOutputIsCheckedAndTaken := by
  intro s m zb vb h
  cases hz : zoneOf zb with
  | none => exact setOutput_refuse (st := .range) h (by simp [answerOf, setOutputAnswer, State.onZone, hz])
  | some z =>
    cases hv : valueOf vb with
    | none => exact setOutput_refuse (st := .range) h (by simp [answerOf, setOutputAnswer, State.onZone, hz, hv])
    | some v =>
      dsimp only
      by_cases holder : s.zones[z].authority.holder = some m
      · have holds : s.holds m z = true := decide_eq_true holder
        by_cases clear : s.zones[z].inhibit = 0
        · simp only [holder, clear, ne_eq, not_true_eq_false, if_false]
          obtain ⟨t, he, frame, rest⟩ := setOutput_taken h hz hv holder clear
          rw [clear] at rest
          exact ⟨t, he, frame, rest⟩
        · simp only [holder, clear, ne_eq, not_true_eq_false, not_false_eq_true, if_false, if_true]
          refine setOutput_refuse (st := .inhibited) h ?_
          change setOutputAnswer m [zb, vb] s = _
          simp only [setOutputAnswer, State.onZone, hz, hv, holds, Bool.not_true, Bool.false_eq_true, if_false]
          exact if_pos clear
      · have holds : s.holds m z = false := decide_eq_false holder
        simp only [holder, ne_eq, not_false_eq_true, if_true]
        exact setOutput_refuse (st := .notHolder) h
          (by simp [answerOf, setOutputAnswer, State.onZone, hz, hv, holds])

/-! ### CLEAR FAULT (R130, R131) -/

theorem OnlyAnswered.onlyTable {s t : State} (h : OnlyAnswered s t) : OnlyTable s t := by
  unfold OnlyTable
  rw [h]

theorem exec_row_of_tableRefuse {s : State} {m : Master} {c : Command} {o : List Byte} {st : Status}
    (h : s.serves m c o) (ha : answerOf c m o s = s.refuse st) :
    ∃ t, exec (c.row m o) s = .next t ∧ OnlyTable s t ∧ Answered s t m c st [] ∧ OnlyAnswered s t := by
  obtain ⟨t, he, only, answered⟩ := exec_row_of_refuse h ha
  exact ⟨t, he, only.onlyTable, answered, only⟩

theorem readbackView_congr {s t : State} {z : ZoneId} (hz : t.zones = s.zones) (hc : t.config = s.config)
    (ht : t.timeCount = s.timeCount) : t.readbackView z = s.readbackView z := by
  unfold State.readbackView State.elapsed
  rw [hz, hc, ht]

theorem clearFault_taken {s : State} {m : Master} {zb : Byte} {z : ZoneId} (h : s.serves m .clearFault [zb])
    (hz : zoneOf zb = some z) (permitted : s.permits z m = true) (faulted : s.zones[z].authority = .faulted) :
    ∃ t, exec (.clearFault m [zb]) s = .next t ∧ OnlyTable s t ∧
      OtherZonesKept s t z ∧ t.zones[z].authority = .vacant ∧ t.zones[z].epoch = s.zones[z].epoch ∧
        t.zones[z].commanded = s.fallback z ∧ t.zones[z].driven = some (s.fallback z) ∧
        t.zones[z].inhibit = s.zones[z].inhibit ∧ t.zones[z].sensed = s.zones[z].sensed ∧
        (s.zones[z].driven = none →
          t.zones[z].monitor = freshMonitor s.config.zones[z].checkTime s.timeCount (s.fallback z) s.zones[z].sensed) ∧
        SetsFollow s t z ∧ (∀ n : Master, t.attention[n] = s.noted n) ∧ t.sessions = s.sessions ∧
        Answered s t m .clearFault .ok (encodeEpoch s.zones[z].epoch ++ t.readbackView z) := by
  have answer : answerOf .clearFault m [zb] s =
      (s.clearFault z).reply (encodeEpoch s.zones[z].epoch ++ (s.clearFault z).readbackView z) := by
    change clearFaultAnswer m [zb] s = _
    simp [clearFaultAnswer, State.onZone, hz, permitted, faulted, -Fin.getElem_fin]
  have change : Reassigned s (s.clearFault z) z .vacant (s.fallback z) := setAuthority_reassigned ..
  have moved : s.zones[z].authority.moves .vacant = true := moves_of_kind (by rw [faulted]; exact nofun)
  have same : s.zones[z].authority.holder = Authority.vacant.holder := by rw [faulted]; rfl
  obtain ⟨t, he, kept, answered⟩ := exec_row_of_taken h answer (by simp [State.clearFault])
    (by simp [State.clearFault]) (by simp [State.clearFault])
  have r := change.congr kept.zones kept.changeSets kept.sessions
  have view : t.readbackView z = (s.clearFault z).readbackView z :=
    readbackView_congr kept.zones (by rw [kept]) (by rw [kept])
  refine ⟨t, he, (setAuthority_onlyTable s z _ _).answered kept, r.others, r.authority, r.epoch_kept same,
    r.commanded, r.driven, r.inhibit, r.sensed, (r.redriven _ rfl).2.2, r.sets moved, fun n => ?_,
    r.sessions same.symm, by rw [view]; exact answered⟩
  rw [kept.attention]
  exact setAuthority_noted _ moved n

/-- Settles O28: the checks in their order, and then one change of authority, from FAULTED to VACANT. -/
theorem clearFaultIsCheckedAndTaken : Obligations.ClearFaultIsCheckedAndTaken := by
  intro s m zb h
  cases hz : zoneOf zb with
  | none => exact exec_row_of_tableRefuse (st := .range) h (by simp [answerOf, clearFaultAnswer, State.onZone, hz])
  | some z =>
    dsimp only
    cases permitted : s.permits z m with
    | false =>
      simp only [if_true]
      exact exec_row_of_tableRefuse (st := .notPermitted) h
        (by simp [answerOf, clearFaultAnswer, State.onZone, hz, permitted])
    | true =>
      simp only [Bool.true_eq_false, if_false]
      by_cases faulted : s.zones[z].authority = .faulted
      · simp only [faulted, ne_eq, not_true_eq_false, if_false]
        exact clearFault_taken h hz permitted faulted
      · simp only [faulted, ne_eq, not_false_eq_true, if_true]
        refine exec_row_of_tableRefuse (st := .noFault) h ?_
        change clearFaultAnswer m [zb] s = _
        simp only [clearFaultAnswer, State.onZone, hz, permitted, Bool.not_true, Bool.false_eq_true, if_false]

end Sys2Proof.Machine

/-! PROOFS. Handing over a zone: REQUEST HANDOVER, YIELD, REFUSE, WITHDRAW, the two timeouts of a zone, and the choice of
a candidate. -/

namespace Sys2Proof.Machine

/-! ### REQUEST HANDOVER (R48, R49) -/

theorem requestHandover_reassigned (s : State) (z : ZoneId) (h m : Master) :
    Reassigned s (s.requestHandover z h m) z (.transfer h ⟨m, s.timeCount, s.config.zones[z].handoverTimeout⟩)
      s.zones[z].commanded :=
  (setAuthority_reassigned ..).signal _ _

theorem requestHandover_onlyTable (s : State) (z : ZoneId) (h m : Master) : OnlyTable s (s.requestHandover z h m) := by
  unfold State.requestHandover
  exact (setAuthority_onlyTable s z _ _).signal _ _

theorem requestHandover_attention_ne {s : State} {z : ZoneId} {h m n : Master} (hn : n ≠ h)
    (held : s.zones[z].authority = .held h) : (s.requestHandover z h m).attention[n] = s.noted n := by
  unfold State.requestHandover
  rw [signal_attention_ne _ hn, setAuthority_noted _ (moves_of_kind (by rw [held]; exact nofun))]

theorem requestHandover_attention_self {s : State} {z : ZoneId} {h m : Master} (attached : s.isAttached h = true)
    (held : s.zones[z].authority = .held h) :
    (s.requestHandover z h m).attention[h] = (s.noted h).after (.handoverAsked z m .pending) := by
  unfold State.requestHandover
  rw [signal_attention_self, setAuthority_noted _ (moves_of_kind (by rw [held]; exact nofun))]
  rw [State.setAuthority_standing]
  exact attached_ne_detached attached

theorem requestHandover_taken : Clauses.RequestHandoverTaken := by
  intro s m h zb z hz served writable permitted clean held other
  have answer : answerOf .requestHandover m [zb] s =
      (s.requestHandover z h m).reply (encodeEpoch s.zones[z].epoch ++
        [s.config.zones[z].policy.code, s.config.zones[z].handoverTimeout]) := by
    change requestHandoverAnswer m [zb] s = _
    simp [requestHandoverAnswer, State.onZone, hz, writable, permitted, clean, held, other, -Fin.getElem_fin]
  have moved : s.zones[z].authority.moves (.transfer h ⟨m, s.timeCount, s.config.zones[z].handoverTimeout⟩) = true :=
    moves_of_kind (by rw [held]; exact nofun)
  have same : s.zones[z].authority.holder = some h := by rw [held]; rfl
  obtain ⟨t, he, kept, answered⟩ := exec_row_of_taken served answer (by simp [State.requestHandover])
    (by simp [State.requestHandover]) (by simp [State.requestHandover])
  have r := (requestHandover_reassigned s z h m).congr kept.zones kept.changeSets kept.sessions
  exact ⟨t, he, (requestHandover_onlyTable s z h m).answered kept, r.others, r.authority, r.epoch_kept same,
    r.commanded, r.inhibit, r.driven, r.lines (by rw [held]; rfl), r.sets moved, r.sessions same.symm,
    fun n hn => by rw [kept.attention, requestHandover_attention_ne hn held],
    fun attached => by rw [kept.attention, requestHandover_attention_self attached held], answered⟩

theorem requestHandover_refused : Clauses.RequestHandoverRefusedByTheFirstCheck := by
  intro s m zb h own
  cases busy : s.device.isStoring with
  | true =>
    simp only [if_true]
    exact exec_row_of_refuse (st := .busy) h (by simp [answerOf, requestHandoverAnswer, busy])
  | false =>
    simp only [Bool.false_eq_true, if_false]
    cases hz : zoneOf zb with
    | none =>
      exact exec_row_of_refuse (st := .range) h (by simp [answerOf, requestHandoverAnswer, State.onZone, busy, hz])
    | some z =>
      dsimp only
      cases hp : s.permits z m with
      | false =>
        simp only [if_true]
        exact exec_row_of_refuse (st := .notPermitted) h
          (by simp [answerOf, requestHandoverAnswer, State.onZone, busy, hz, hp])
      | true =>
        simp only [Bool.true_eq_false, if_false]
        cases hk : s.sessions[m].strike with
        | true =>
          simp only [if_true]
          exact exec_row_of_refuse (st := .strikePending) h
            (by simp [answerOf, requestHandoverAnswer, State.onZone, busy, hz, hp, hk, -Fin.getElem_fin])
        | false =>
          simp only [Bool.false_eq_true, if_false]
          have checked : ∀ r, (answerOf .requestHandover m [zb] s = r ↔ requestHandoverAnswer m [zb] s = r) :=
            fun _ => Iff.rfl
          simp only [requestHandoverAnswer, State.onZone, busy, hz, hp, hk, Bool.not_true, Bool.false_eq_true,
            if_false] at checked
          cases ha : s.zones[z].authority with
          | held k =>
            exact exec_row_of_refuse h ((checked _).mpr (by rw [ha]; exact if_pos (own z k hz busy hp hk ha)))
          | dark => exact exec_row_of_refuse h ((checked _).mpr (by rw [ha]))
          | vacant => exact exec_row_of_refuse h ((checked _).mpr (by rw [ha]))
          | transfer k p => exact exec_row_of_refuse h ((checked _).mpr (by rw [ha]))
          | settling c => exact exec_row_of_refuse h ((checked _).mpr (by rw [ha]))
          | faulted => exact exec_row_of_refuse h ((checked _).mpr (by rw [ha]))

/-- Settles O52: the request is one change of authority, from HELD to TRANSFER, and one event for the holder. -/
theorem requestHandoverIsCheckedAndTaken : Obligations.RequestHandoverIsCheckedAndTaken :=
  ⟨requestHandover_taken, requestHandover_refused⟩

/-! ### The checks of an answer to a request (R51) -/

theorem answering_of_pending {s : State} {m : Master} {zb rb : Byte} {z : ZoneId} {p : Pending}
    (k : ZoneId → Master → Answer) (hz : zoneOf zb = some z) (hr : masterOf rb = some p.requester)
    (asked : s.zones[z].authority = .transfer m p) : answering m [zb, rb] s k = k z p.requester := by
  simp [answering, State.onZone, hz, hr, asked, -Fin.getElem_fin]

theorem answerOf_answering {c : Command} (hc : c = .yield ∨ c = .refuse) (m : Master) (o : List Byte) (s : State) :
    ∃ k, answerOf c m o s = answering m o s k := by
  rcases hc with rfl | rfl
  · exact ⟨_, rfl⟩
  · exact ⟨_, rfl⟩

/-- Settles O30: the shared checks decide before either command looks at the zone. -/
theorem answersRefusedByTheFirstCheck : Obligations.AnswersRefusedByTheFirstCheck := by
  intro s m c zb rb hc h unanswerable
  obtain ⟨k, body⟩ := answerOf_answering hc m [zb, rb] s
  cases hz : zoneOf zb with
  | none => exact exec_row_of_refuse (st := .range) h (by simp [body, answering, State.onZone, hz])
  | some z =>
    cases hr : masterOf rb with
    | none => exact exec_row_of_refuse (st := .range) h (by simp [body, answering, State.onZone, hz, hr])
    | some r =>
      dsimp only
      simp only [answering, State.onZone, hz, hr] at body
      cases ha : s.zones[z].authority with
      | transfer holder p =>
        dsimp only
        rw [ha] at body
        by_cases named : p.requester = r
        · have other : holder ≠ m := fun hm => unanswerable z p hz (hm ▸ ha) (by rw [hr, named])
          simp only [named, if_true]
          exact exec_row_of_refuse (st := .notHolder) h (by simp [body, named, other])
        · simp only [named, if_false]
          exact exec_row_of_refuse (st := .noRequest) h (by simp [body, named])
      | dark => exact exec_row_of_refuse (st := .noRequest) h (by rw [body, ha])
      | vacant => exact exec_row_of_refuse (st := .noRequest) h (by rw [body, ha])
      | held k => exact exec_row_of_refuse (st := .noRequest) h (by rw [body, ha])
      | settling c => exact exec_row_of_refuse (st := .noRequest) h (by rw [body, ha])
      | faulted => exact exec_row_of_refuse (st := .noRequest) h (by rw [body, ha])

/-! ### The bumpless transfer (R52, R53, R56) -/

/-- The transfer with the old holder's entries dropped and the new holder told, as YIELD and a timeout under PREEMPT
make it. -/
def State.handOver (s : State) (z : ZoneId) (holder requester : Master) (o : HandoverOutcome) (c : GrantCause) : State :=
  ((s.transferTo z requester).dropEntries (Entry.isOf holder z)).tellGranted z requester o c

theorem yieldZone_eq (s : State) (z : ZoneId) (h r : Master) :
    s.yieldZone z h r = s.handOver z h r .granted .handover := rfl

theorem preempt_eq (s : State) (z : ZoneId) (h r : Master) :
    s.preempt z h r = (s.handOver z h r .preemptGranted .preempt).signal h (.lost z .preempted) := rfl

section HandOver

variable {s : State} {z : ZoneId} {h r : Master} (o : HandoverOutcome) (c : GrantCause)

theorem handOver_reassigned : Reassigned s (s.handOver z h r o c) z (.held r) s.zones[z].commanded :=
  ((transferTo_reassigned s z r).dropEntries _).tellGranted _ _ _ _

theorem handOver_onlyTable : OnlyTableAndQueue s (s.handOver z h r o c) := by
  unfold State.handOver State.tellGranted State.transferTo
  exact (((setAuthority_onlyTable s z _ _).andQueue.dropEntries _).signal _ _).signal _ _

theorem handOver_queue :
    (s.handOver z h r o c).queue = s.queue.filter fun e => decide (¬ (e.poster = h ∧ e.zone = z)) := by
  rw [← filter_not_isOf]
  simp [State.handOver, State.transferTo]

theorem handOver_attention_requester (attached : s.isAttached r = true) (other : r ≠ h)
    (moved : s.zones[z].authority.moves (.held r) = true) :
    (s.handOver z h r o c).attention[r] = ((s.noted r).after (.handoverResult z o)).after (.granted z c) := by
  unfold State.handOver
  rw [tellGranted_attention_self, dropEntries_isOf_attention_ne _ other, transferTo_noted moved]
  rw [State.dropEntries_sessions]
  exact transferTo_attached z r r attached

theorem handOver_attention_holder (attached : s.isAttached h = true) (other : h ≠ r)
    (moved : s.zones[z].authority.moves (.held r) = true) :
    (s.handOver z h r o c).attention[h] =
      reportedLost h (s.noted h) (s.queue.filter fun e => decide (e.poster = h ∧ e.zone = z)) := by
  unfold State.handOver
  rw [tellGranted_attention_ne _ other, dropEntries_isOf_attention_self (transferTo_attached z r h attached),
    transferTo_noted moved]
  simp [State.transferTo]

theorem handOver_attention_other {n : Master} (hh : n ≠ h) (hr : n ≠ r)
    (moved : s.zones[z].authority.moves (.held r) = true) : (s.handOver z h r o c).attention[n] = s.noted n := by
  unfold State.handOver
  rw [tellGranted_attention_ne _ hr, dropEntries_isOf_attention_ne _ hh, transferTo_noted moved]

end HandOver

/-- A transfer to another master moves the holder. -/
theorem moves_transfer {a : Authority} {h r : Master} {p : Pending} (ha : a = .transfer h p) (other : r ≠ h) :
    a.holder ≠ (Authority.held r).holder := by
  rw [ha]
  exact fun x => other (Option.some.inj x).symm

/-- Settles O29: a YIELD is the transfer, the drop of the old holder's entries and the news for the new holder. -/
theorem yieldTransfersTheZone : Obligations.YieldTransfersTheZone := by
  intro s m zb rb z p hz hr h asked other
  have hh := moves_transfer asked other
  have moved := moves_of_holder hh
  have r₀ : Reassigned s (s.yieldZone z m p.requester) z (.held p.requester) s.zones[z].commanded :=
    handOver_reassigned .granted .handover
  have answer : answerOf .yield m [zb, rb] s = (s.yieldZone z m p.requester).reply
      (encodeEpoch (s.yieldZone z m p.requester).zones[z].epoch ++
        [byteOf (s.queue.countP fun e => decide (e.poster = m ∧ e.zone = z))]) := answering_of_pending _ hz hr asked
  rw [r₀.epoch_stepped hh, yieldZone_eq] at answer
  obtain ⟨t, he, only, kept, answered, r⟩ := exec_row_of_table h answer (handOver_onlyTable .granted .handover)
    (by simp [State.handOver, State.transferTo]) (by simp [State.handOver, State.transferTo])
    (by simp [State.handOver, State.transferTo]) r₀
  have lines := r.lines (by rw [asked]; rfl)
  refine ⟨t, he, only, r.others, r.authority, r.epoch_stepped hh, r.commanded, r.inhibit, r.sensed,
    fun hd => lines.2 (by rw [hd, asked]; rfl), ?_, r.sets moved, r.timers, fun attached => ?_, fun attached => ?_,
    fun n hm hn => ?_, answered⟩
  · rw [kept.queue, handOver_queue]
  · rw [kept.attention, handOver_attention_requester _ _ attached other moved]
  · rw [kept.attention, handOver_attention_holder _ _ attached (Ne.symm other) moved]
  · rw [kept.attention, handOver_attention_other _ _ hm hn moved]

/-! ### The end of a request (R54, R55, R57) -/

theorem endRequest_reassigned (s : State) (z : ZoneId) (h : Master) :
    Reassigned s (s.endRequest z h) z (.held h) s.zones[z].commanded := setAuthority_reassigned ..

theorem endRequest_noted {s : State} {z : ZoneId} {h : Master} {p : Pending}
    (asked : s.zones[z].authority = .transfer h p) (n : Master) : (s.endRequest z h).attention[n] = s.noted n :=
  setAuthority_noted _ (moves_of_kind (by rw [asked]; exact nofun)) n

theorem endRequest_standing (s : State) (z : ZoneId) (h n : Master) :
    (s.endRequest z h).sessions[n].standing = s.sessions[n].standing := State.setAuthority_standing ..

/-- The request has ended and one master has been told. -/
theorem exec_row_of_ended {s : State} {m h : Master} {p : Pending} {c : Command} {o : List Byte} {z : ZoneId} {r : Master}
    {e : Signal} (served : s.serves m c o) (asked : s.zones[z].authority = .transfer h p)
    (ha : answerOf c m o s = ((s.endRequest z h).signal r e).reply (encodeEpoch s.zones[z].epoch)) :
    ∃ t, exec (c.row m o) s = .next t ∧ OnlyTable s t ∧ OtherZonesKept s t z ∧
      t.zones[z].authority = .held h ∧ t.zones[z].epoch = s.zones[z].epoch ∧
      t.zones[z].commanded = s.zones[z].commanded ∧ t.zones[z].inhibit = s.zones[z].inhibit ∧
      t.zones[z].sensed = s.zones[z].sensed ∧
      (s.zones[z].driven = drivenBy (.held h) s.zones[z].commanded (s.fallback z) s.zones[z].inhibit →
        t.zones[z].driven = s.zones[z].driven ∧ t.zones[z].monitor = s.zones[z].monitor) ∧
      t.sessions = s.sessions ∧ SetsFollow s t z ∧
      (∀ n : Master, n ≠ r → t.attention[n] = s.noted n) ∧
      (s.isAttached r = true → t.attention[r] = (s.noted r).after e) ∧
      Answered s t m c .ok (encodeEpoch s.zones[z].epoch) := by
  have only : OnlyTable s ((s.endRequest z h).signal r e) := by
    unfold State.endRequest
    exact (setAuthority_onlyTable s z _ _).signal _ _
  have same : s.zones[z].authority.holder = (Authority.held h).holder := by rw [asked]; rfl
  obtain ⟨t, he, kept, answered⟩ := exec_row_of_taken served ha (by simp [State.endRequest])
    (by simp [State.endRequest]) (by simp [State.endRequest])
  have k := ((endRequest_reassigned s z h).signal r e).congr kept.zones kept.changeSets kept.sessions
  have lines := k.lines (by rw [asked]; rfl)
  refine ⟨t, he, only.answered kept, k.others, k.authority, k.epoch_kept same, k.commanded, k.inhibit, k.sensed,
    fun hd => lines.2 (by rw [hd, asked]; rfl), k.sessions same.symm, k.sets (moves_of_kind (by rw [asked]; exact nofun)),
    fun n hn => ?_, fun attached => ?_, answered⟩
  · rw [kept.attention, signal_attention_ne _ hn, endRequest_noted asked]
  · rw [kept.attention, signal_attention_self, endRequest_noted asked]
    rw [endRequest_standing]
    exact attached_ne_detached attached

theorem refuse_ends : Clauses.RefuseEndsTheRequest := by
  intro s m zb rb z p hz hr h asked
  exact exec_row_of_ended h asked (answering_of_pending _ hz hr asked)

theorem withdraw_ends : Clauses.WithdrawEndsTheRequest := by
  intro s m zb h
  have checked : ∀ r, (answerOf .withdraw m [zb] s = r ↔ withdrawAnswer m [zb] s = r) := fun _ => Iff.rfl
  cases hz : zoneOf zb with
  | none => exact exec_row_of_tableRefuse (st := .range) h (by simp [answerOf, withdrawAnswer, State.onZone, hz])
  | some z =>
    dsimp only
    simp only [withdrawAnswer, State.onZone, hz] at checked
    cases ha : s.zones[z].authority with
    | transfer k p =>
      dsimp only
      by_cases mine : p.requester = m
      · simp only [mine, if_true]
        exact exec_row_of_ended h ha ((checked _).mpr (by rw [ha]; exact if_pos mine))
      · simp only [mine, if_false]
        exact exec_row_of_tableRefuse (st := .noRequest) h ((checked _).mpr (by rw [ha]; exact if_neg mine))
    | dark => exact exec_row_of_tableRefuse (st := .noRequest) h ((checked _).mpr (by rw [ha]))
    | vacant => exact exec_row_of_tableRefuse (st := .noRequest) h ((checked _).mpr (by rw [ha]))
    | held k => exact exec_row_of_tableRefuse (st := .noRequest) h ((checked _).mpr (by rw [ha]))
    | settling c => exact exec_row_of_tableRefuse (st := .noRequest) h ((checked _).mpr (by rw [ha]))
    | faulted => exact exec_row_of_tableRefuse (st := .noRequest) h ((checked _).mpr (by rw [ha]))

/-- Settles O53: either command returns the zone to its holder and tells the other side. -/
theorem refuseAndWithdrawEndTheRequest : Obligations.RefuseAndWithdrawEndTheRequest :=
  ⟨refuse_ends, withdraw_ends⟩

/-! ### HANDOVER_TIMEOUT (R47, R56, R57) -/

theorem handoverDue_iff (s : State) (p : Pending) :
    s.handoverDue p = true ↔ p.timeout.toNat * 10000 ≤ (s.timeCount - p.since).toNat := by
  unfold State.handoverDue State.elapsed
  exact decide_eq_true_iff

theorem handoverTimeout_of_not_transfer {s : State} {z : ZoneId} (h : ∀ k p, s.zones[z].authority ≠ .transfer k p) :
    s.handoverTimeout z = s := by
  unfold State.handoverTimeout
  cases ha : s.zones[z].authority with
  | transfer k p => exact absurd ha (h k p)
  | _ => rfl

theorem handoverTimeout_of_early {s : State} {z : ZoneId} {h : Master} {p : Pending}
    (asked : s.zones[z].authority = .transfer h p) (early : ¬ p.timeout.toNat * 10000 ≤ (s.timeCount - p.since).toNat) :
    s.handoverTimeout z = s := by
  have due : s.handoverDue p = false := Bool.eq_false_iff.mpr (mt (handoverDue_iff s p).mp early)
  simp [State.handoverTimeout, asked, due, -Fin.getElem_fin]

theorem handoverTimeout_of_preempt {s : State} {z : ZoneId} {h : Master} {p : Pending}
    (asked : s.zones[z].authority = .transfer h p) (due : p.timeout.toNat * 10000 ≤ (s.timeCount - p.since).toNat)
    (policy : s.config.zones[z].policy = .preempt) : s.handoverTimeout z = s.preempt z h p.requester := by
  simp [State.handoverTimeout, asked, (handoverDue_iff s p).mpr due, policy, -Fin.getElem_fin]

theorem handoverTimeout_of_yieldOnly {s : State} {z : ZoneId} {h : Master} {p : Pending}
    (asked : s.zones[z].authority = .transfer h p) (due : p.timeout.toNat * 10000 ≤ (s.timeCount - p.since).toNat)
    (policy : s.config.zones[z].policy = .yieldOnly) : s.handoverTimeout z = s.timeOutRequest z h p.requester := by
  simp [State.handoverTimeout, asked, (handoverDue_iff s p).mpr due, policy, -Fin.getElem_fin]

/-- Nothing but the zone records, the change sets, the AUTO timers, the flags and the queue differs, the ports and the
turn included: what an event of a zone's own timers reaches. -/
def OnlyZones (s t : State) : Prop :=
  t = { s with zones := t.zones, changeSets := t.changeSets, sessions := t.sessions, attention := t.attention,
               queue := t.queue }

theorem setAuthority_onlyZones (s : State) (z : ZoneId) (a : Authority) (v : Value) :
    OnlyZones s (s.setAuthority z a v) := by
  unfold OnlyZones
  ext1 <;> simp

theorem OnlyZones.follows {s t u : State} (k : OnlyZones s t) (f : Follows t u) : OnlyZones s u := by
  unfold OnlyZones
  rw [f.frame, k]

theorem handOver_follows (s : State) (z : ZoneId) (h r : Master) (o : HandoverOutcome) (c : GrantCause) :
    Follows (s.transferTo z r) (s.handOver z h r o c) :=
  (dropEntries_follows _ _).trans (tellGranted_follows _ _ _ _ _)

theorem preempt_onlyZones (s : State) (z : ZoneId) (h r : Master) : OnlyZones s (s.preempt z h r) := by
  rw [preempt_eq]
  exact ((setAuthority_onlyZones s z _ _).follows (handOver_follows s z h r _ _)).follows
    (signal_follows _ _ _ fun _ x => by cases x)

theorem preempt_reassigned (s : State) (z : ZoneId) (h r : Master) :
    Reassigned s (s.preempt z h r) z (.held r) s.zones[z].commanded := by
  rw [preempt_eq]
  exact (handOver_reassigned _ _).signal _ _

theorem timeOutRequest_onlyZones (s : State) (z : ZoneId) (h r : Master) : OnlyZones s (s.timeOutRequest z h r) := by
  unfold State.timeOutRequest
  exact ((setAuthority_onlyZones s z _ _).follows (signal_follows _ _ _ fun _ x => by cases x)).follows
    (signal_follows _ _ _ fun _ x => by cases x)

theorem timeOutRequest_reassigned (s : State) (z : ZoneId) (h r : Master) :
    Reassigned s (s.timeOutRequest z h r) z (.held h) s.zones[z].commanded :=
  ((endRequest_reassigned s z h).signal _ _).signal _ _

section Preempt

variable {s : State} {z : ZoneId} {h r : Master}

theorem preempt_queue : (s.preempt z h r).queue = s.queue.filter fun e => decide (¬ (e.poster = h ∧ e.zone = z)) := by
  rw [preempt_eq, State.signal_queue, handOver_queue]

theorem handOver_standing (o : HandoverOutcome) (c : GrantCause) (n : Master) :
    (s.handOver z h r o c).sessions[n].standing = s.sessions[n].standing := by
  unfold State.handOver State.transferTo
  rw [State.tellGranted_sessions, State.dropEntries_sessions, State.setAuthority_standing]

theorem preempt_attention_requester (attached : s.isAttached r = true) (other : r ≠ h)
    (moved : s.zones[z].authority.moves (.held r) = true) :
    (s.preempt z h r).attention[r] =
      ((s.noted r).after (.handoverResult z .preemptGranted)).after (.granted z .preempt) := by
  rw [preempt_eq, signal_attention_ne _ other, handOver_attention_requester _ _ attached other moved]

theorem preempt_attention_holder (attached : s.isAttached h = true) (other : h ≠ r)
    (moved : s.zones[z].authority.moves (.held r) = true) :
    (s.preempt z h r).attention[h] =
      (reportedLost h (s.noted h) (s.queue.filter fun e => decide (e.poster = h ∧ e.zone = z))).after
        (.lost z .preempted) := by
  rw [preempt_eq, signal_attention_self, handOver_attention_holder _ _ attached other moved]
  rw [handOver_standing]
  exact attached_ne_detached attached

theorem preempt_attention_other {n : Master} (hh : n ≠ h) (hr : n ≠ r)
    (moved : s.zones[z].authority.moves (.held r) = true) : (s.preempt z h r).attention[n] = s.noted n := by
  rw [preempt_eq, signal_attention_ne _ hh, handOver_attention_other _ _ hh hr moved]

end Preempt

section TimeOut

variable {s : State} {z : ZoneId} {h : Master} {p : Pending} (asked : s.zones[z].authority = .transfer h p)

include asked

theorem timeOutRequest_attention_requester {r : Master} (attached : s.isAttached r = true) (other : r ≠ h) :
    (s.timeOutRequest z h r).attention[r] = (s.noted r).after (.handoverResult z .timedOut) := by
  unfold State.timeOutRequest
  rw [signal_attention_ne _ other, signal_attention_self, endRequest_noted asked]
  rw [endRequest_standing]
  exact attached_ne_detached attached

theorem timeOutRequest_attention_holder {r : Master} (attached : s.isAttached h = true) (other : h ≠ r) :
    (s.timeOutRequest z h r).attention[h] = (s.noted h).after (.handoverAsked z r .expired) := by
  unfold State.timeOutRequest
  rw [signal_attention_self, signal_attention_ne _ other, endRequest_noted asked]
  rw [State.signal_sessions, endRequest_standing]
  exact attached_ne_detached attached

theorem timeOutRequest_attention_other {r n : Master} (hh : n ≠ h) (hr : n ≠ r) :
    (s.timeOutRequest z h r).attention[n] = s.noted n := by
  unfold State.timeOutRequest
  rw [signal_attention_ne _ hh, signal_attention_ne _ hr, endRequest_noted asked]

end TimeOut

theorem timeOutRequest_queue (s : State) (z : ZoneId) (h r : Master) : (s.timeOutRequest z h r).queue = s.queue := by
  simp [State.timeOutRequest, State.endRequest]

/-- Settles O31: a due timeout is the transfer under PREEMPT and the end of the request under YIELD_ONLY. -/
theorem handoverTimeoutByPolicy : Obligations.HandoverTimeoutByPolicy := by
  intro s z
  refine ⟨_, rfl, ?_⟩
  cases asked : s.zones[z].authority with
  | transfer h p =>
    dsimp only
    split
    next due =>
      intro other
      cases policy : s.config.zones[z].policy with
      | preempt =>
        rw [handoverTimeout_of_preempt asked due policy]
        have hh := moves_transfer asked (Ne.symm other)
        have moved := moves_of_holder hh
        have r := preempt_reassigned s z h p.requester
        exact ⟨r.others, r.sets moved, r.timers, r.commanded, r.inhibit, r.lines (by rw [asked]; rfl),
          fun n hn hr => preempt_attention_other hn hr moved, preempt_onlyZones s z h p.requester, r.authority,
          r.epoch_stepped hh, preempt_queue, fun attached => preempt_attention_requester attached (Ne.symm other) moved,
          fun attached => preempt_attention_holder attached other moved⟩
      | yieldOnly =>
        rw [handoverTimeout_of_yieldOnly asked due policy]
        have r := timeOutRequest_reassigned s z h p.requester
        have moved : s.zones[z].authority.moves (.held h) = true := moves_of_kind (by rw [asked]; exact nofun)
        exact ⟨r.others, r.sets moved, r.timers, r.commanded, r.inhibit, r.lines (by rw [asked]; rfl),
          fun n hn hr => timeOutRequest_attention_other asked hn hr, timeOutRequest_onlyZones s z h p.requester,
          r.authority, r.epoch_kept (by rw [asked]; rfl), timeOutRequest_queue s z h p.requester,
          fun attached => timeOutRequest_attention_requester asked attached (Ne.symm other),
          fun attached => timeOutRequest_attention_holder asked attached other⟩
    next early => exact handoverTimeout_of_early asked early
  | dark => exact handoverTimeout_of_not_transfer (by rw [asked]; exact nofun)
  | vacant => exact handoverTimeout_of_not_transfer (by rw [asked]; exact nofun)
  | held k => exact handoverTimeout_of_not_transfer (by rw [asked]; exact nofun)
  | settling c => exact handoverTimeout_of_not_transfer (by rw [asked]; exact nofun)
  | faulted => exact handoverTimeout_of_not_transfer (by rw [asked]; exact nofun)

/-! ### SETTLE_EXPIRY (R73, R76) -/

theorem settleDue_iff (s : State) (c : Candidate) :
    s.settleDue c = true ↔ c.settle.toNat * 10000 ≤ (s.timeCount - c.since).toNat := by
  unfold State.settleDue State.elapsed
  exact decide_eq_true_iff

theorem settleExpiry_of_due {s : State} {z : ZoneId} {c : Candidate} (settling : s.zones[z].authority = .settling c)
    (due : c.settle.toNat * 10000 ≤ (s.timeCount - c.since).toNat) : s.settleExpiry z = s.grant z c.master := by
  simp [State.settleExpiry, settling, (settleDue_iff s c).mpr due, -Fin.getElem_fin]

theorem settleExpiry_of_early {s : State} {z : ZoneId} {c : Candidate} (settling : s.zones[z].authority = .settling c)
    (early : ¬ c.settle.toNat * 10000 ≤ (s.timeCount - c.since).toNat) : s.settleExpiry z = s := by
  have due : s.settleDue c = false := Bool.eq_false_iff.mpr (mt (settleDue_iff s c).mp early)
  simp [State.settleExpiry, settling, due, -Fin.getElem_fin]

theorem settleExpiry_of_not_settling {s : State} {z : ZoneId} (h : ∀ c, s.zones[z].authority ≠ .settling c) :
    s.settleExpiry z = s := by
  unfold State.settleExpiry
  cases ha : s.zones[z].authority with
  | settling c => exact absurd ha (h c)
  | _ => rfl

theorem grant_reassigned (s : State) (z : ZoneId) (m : Master) :
    Reassigned s (s.grant z m) z (.held m) (s.fallback z) := (setAuthority_reassigned ..).signal _ _

theorem Reassigned.granted {s t : State} {z : ZoneId} {c : Candidate}
    (r : Reassigned s t z (.held c.master) (s.fallback z)) (settling : s.zones[z].authority = .settling c) :
    OtherZonesKept s t z ∧ t.zones[z].authority = .held c.master ∧ t.zones[z].epoch = s.zones[z].epoch + 1 ∧
      t.zones[z].commanded = s.fallback z ∧ t.zones[z].driven = some (s.fallback z) ∧
      t.zones[z].inhibit = s.zones[z].inhibit ∧ LinesKept s t z ∧ SetsFollow s t z ∧ TimersFollow s t ∧
      t.heldCount c.master = s.heldCount c.master + 1 := by
  have drives := held_fallback_drives c.master (s.fallback z) s.zones[z].inhibit
  have hh : s.zones[z].authority.holder ≠ (Authority.held c.master).holder := by rw [settling]; exact nofun
  refine ⟨r.others, r.authority, r.epoch_stepped hh, r.commanded, r.driven.trans drives, r.inhibit,
    r.lines (by rw [drives, settling]; rfl), r.sets (moves_of_holder hh), r.timers, ?_⟩
  have := r.counts c.master
  rwa [settling, if_neg (by exact nofun), if_pos (by rfl)] at this

theorem grant_onlyTable (s : State) (z : ZoneId) (m : Master) :
    s.grant z m = { s with zones := (s.grant z m).zones, changeSets := (s.grant z m).changeSets,
                           sessions := (s.grant z m).sessions, attention := (s.grant z m).attention } := by
  ext1 <;> simp

/-- Settles O32: the grant is one change of authority and one event. -/
theorem settleExpiryGrantsTheZone : Obligations.SettleExpiryGrantsTheZone := by
  intro s z
  refine ⟨_, rfl, ?_⟩
  cases settling : s.zones[z].authority with
  | settling c =>
    dsimp only
    split
    next due =>
      rw [settleExpiry_of_due settling due]
      obtain ⟨others, authority, epoch, commanded, driven, inhibit, lines, sets, timers, count⟩ :=
        (grant_reassigned s z c.master).granted settling
      have moved : s.zones[z].authority.moves (.held c.master) = true :=
        moves_of_kind (by rw [settling]; exact nofun)
      refine ⟨others, authority, epoch, commanded, driven, inhibit, lines, sets, timers, count, fun n hn => ?_,
        fun attached => ?_, grant_onlyTable s z c.master⟩
      · unfold State.grant
        rw [signal_attention_ne _ hn, setAuthority_noted _ moved]
      · unfold State.grant
        rw [signal_attention_self, setAuthority_noted _ moved]
        rw [State.setAuthority_standing]
        exact attached_ne_detached attached
    next early => exact settleExpiry_of_early settling early
  | dark => exact settleExpiry_of_not_settling (by rw [settling]; exact nofun)
  | vacant => exact settleExpiry_of_not_settling (by rw [settling]; exact nofun)
  | held k => exact settleExpiry_of_not_settling (by rw [settling]; exact nofun)
  | transfer h p => exact settleExpiry_of_not_settling (by rw [settling]; exact nofun)
  | faulted => exact settleExpiry_of_not_settling (by rw [settling]; exact nofun)

/-! ### The choice of a candidate (R71, R78, R79) -/

/-- The walk stops at the first eligible master. -/
theorem walk_of_first (s : State) (z : ZoneId) {m : Master} (fit : s.eligible m z = true) :
    ∀ (l : List Master) (position k : Nat), l[k]? = some m → (∀ j n, j < k → l[j]? = some n → s.eligible n z = false) →
      s.walk z l position = some (m, position + k)
  | [], _, _, hk, _ => nomatch hk
  | a :: l, position, 0, hk, _ => by
    have ha : a = m := Option.some.inj hk
    simp [State.walk, ha, fit]
  | a :: l, position, k + 1, hk, before => by
    have ha : s.eligible a z = false := before 0 a k.succ_pos rfl
    have tail := walk_of_first s z fit l (position + 1) k hk fun j n hj hn => before (j + 1) n (by omega) hn
    simp only [State.walk, ha, Bool.false_eq_true, if_false, tail]
    exact congrArg (fun q => some (m, q)) (by omega)

theorem walk_of_none (s : State) (z : ZoneId) :
    ∀ (l : List Master) (position : Nat), (∀ n ∈ l, s.eligible n z = false) → s.walk z l position = none
  | [], _, _ => rfl
  | a :: l, position, unfit => by
    simp only [State.walk, unfit a (by simp), Bool.false_eq_true, if_false]
    exact walk_of_none s z l _ fun n hn => unfit n (by simp [hn])

/-- Settles O33: the walk over the rest of the list finds the first eligible master and its position, or none. -/
theorem choiceTakesTheFirstEligible : Obligations.ChoiceTakesTheFirstEligible := by
  refine fun s z start => ⟨fun m pos at_pos later fit first => ?_, fun unfit => ?_⟩
  · have found : s.walk z (s.config.zones[z].succession.drop start) start = some (m, start + (pos - start)) := by
      refine walk_of_first s z fit _ start (pos - start) ?_ fun j n hj hn => ?_
      · rw [List.getElem?_drop, show start + (pos - start) = pos by omega, at_pos]
      · rw [List.getElem?_drop] at hn
        exact first (start + j) n (by omega) (by omega) hn
    unfold State.choose
    rw [found, show start + (pos - start) = pos by omega]
  · have none : s.walk z (s.config.zones[z].succession.drop start) start = none := by
      refine walk_of_none s z _ start fun n hn => ?_
      obtain ⟨j, hj⟩ := List.getElem?_of_mem hn
      rw [List.getElem?_drop] at hj
      exact unfit (start + j) n (by omega) hj
    unfold State.choose
    rw [none]

end Sys2Proof.Machine

/-! PROOFS. Sessions: requests outside the authority table, and ATTACH, DETACH and PARK. -/

namespace Sys2Proof.Machine

/-! ### Requests that the authority table controller does not serve -/

/-- Nothing but the ports differs. -/
def OnlyPorts (u t : State) : Prop := t = { u with ports := t.ports }

theorem OnlyPorts.only {u t : State} (h : OnlyPorts u t) : OnlyAnswered u t := by
  unfold OnlyAnswered
  rw [h]

theorem exec_row_of_plain {s u : State} {m : Master} {c : Command} {o p : List Byte} (h : s.serves m c o)
    (hc : c.atTable = false) (ha : answerOf c m o s = u.reply p) (hp : u.ports = s.ports)
    (hl : u.lastServed = s.lastServed) (hn : u.chosen = s.chosen) :
    ∃ t, exec (c.row m o) s = .next t ∧ OnlyPorts u t ∧ Answered s t m c .ok p := by
  refine ⟨_, exec_row_of_serves h, ?_, ?_⟩
  · rw [ha]
    exact State.finish_of_offTable m (u.reply p) hc
  · rw [ha]
    exact State.finish_answered c m (u.reply p) hp hl hn

theorem exec_row_of_plainRefuse {s : State} {m : Master} {c : Command} {o : List Byte} {st : Status} (h : s.serves m c o)
    (hc : c.atTable = false) (ha : answerOf c m o s = s.refuse st) :
    ∃ t, exec (c.row m o) s = .next t ∧ OnlyPorts s t ∧ Answered s t m c st [] ∧ OnlyAnswered s t := by
  have only : OnlyPorts s (State.finish c m (s.refuse st)) := State.finish_of_offTable m (s.refuse st) hc
  refine ⟨_, exec_row_of_serves h, ?_⟩
  rw [ha]
  exact ⟨only, s.finish_refuse_answered c m st, only.only⟩

theorem sessionView_congr {u t : State} (h : OnlyPorts u t) (m : Master) : t.sessionView m = u.sessionView m := by
  rw [h]
  rfl

/-! ### ATTACH (R33, R35, R36) -/

/-- The policy refuses a mode (R33). -/
theorem policyRefuses_iff (s : State) (m : Master) (mode : Mode) :
    s.policyRefuses m mode = true ↔
      s.device = .operational ∧ (s.config.strictness[m].laxity < mode.laxity ∨ mode = .off) := by
  unfold State.policyRefuses
  cases s.device <;> simp

theorem attach_frame (s : State) (m : Master) (mode : Mode) (period : Period) :
    s.attach m mode period =
      { s with sessions := (s.attach m mode period).sessions, attention := (s.attach m mode period).attention,
               changeSets := (s.attach m mode period).changeSets } := rfl

theorem attach_others (s : State) {m n : Master} (mode : Mode) (period : Period) (hn : n ≠ m) :
    (s.attach m mode period).sessions[n] = s.sessions[n] ∧ (s.attach m mode period).attention[n] = s.attention[n] ∧
      (s.attach m mode period).changeSets[n] = s.changeSets[n] :=
  ⟨at_set_ne _ (Ne.symm hn) _, at_set_ne _ (Ne.symm hn) _, at_set_ne _ (Ne.symm hn) _⟩

/-- What an ATTACH leaves where it is not taken. -/
theorem attach_refused {s : State} {m : Master} {mb pb : Byte} {st : Status} (h : s.serves m .attach [mb, pb])
    (ha : answerOf .attach m [mb, pb] s = s.refuse st) :
    ∃ t, exec (.attach m [mb, pb]) s = .next t ∧
      t = { s with sessions := t.sessions, attention := t.attention, changeSets := t.changeSets, ports := t.ports } ∧
      (∀ n : Master, n ≠ m → t.sessions[n] = s.sessions[n] ∧ t.attention[n] = s.attention[n] ∧
        t.changeSets[n] = s.changeSets[n]) ∧ Answered s t m .attach st [] ∧ OnlyAnswered s t := by
  obtain ⟨t, he, only, answered, kept⟩ := exec_row_of_plainRefuse h rfl ha
  exact ⟨t, he, by rw [only], fun n _ => by rw [only]; exact ⟨rfl, rfl, rfl⟩, answered, kept⟩

/-- Settles O21: each check that fails refuses; a session that is taken starts from its own record. -/
theorem attachIsCheckedAndTaken : Obligations.AttachIsCheckedAndTaken := by
  intro s m mb pb h
  by_cases here : s.sessions[m].standing.isAttached = true ∨ s.sessions[m].standing.isParked = true
  · simp only [here, if_true]
    exact attach_refused (st := .wrongState) h (by
      change attachAnswer m [mb, pb] s = _
      simp only [attachAnswer, State.isAttached, Bool.or_eq_true, here, if_true])
  · simp only [here, if_false]
    have checked : ∀ r, (answerOf .attach m [mb, pb] s = r ↔ attachAnswer m [mb, pb] s = r) := fun _ => Iff.rfl
    simp only [attachAnswer, State.isAttached, Bool.or_eq_true, here, if_false] at checked
    cases hm : modeOf mb with
    | none => exact attach_refused (st := .codeError) h ((checked _).mpr (by rw [hm]))
    | some mode =>
      cases hp : periodOf pb with
      | none => exact attach_refused (st := .codeError) h ((checked _).mpr (by rw [hm, hp]))
      | some period =>
        dsimp only
        simp only [hm, hp, policyRefuses_iff] at checked
        split
        next lax => exact attach_refused (st := .policy) h ((checked _).mpr (if_pos lax))
        next strict =>
          obtain ⟨t, he, only, answered⟩ := exec_row_of_plain h rfl ((checked _).mpr (if_neg strict)) rfl rfl rfl
          refine ⟨t, he, by rw [only, attach_frame], fun n hn => ?_, ?_, ?_, ?_, ?_⟩
          · rw [only]
            exact attach_others s mode period hn
          · rw [only]
            refine (at_set_self ..).trans ?_
            cases mode <;> rfl
          · rw [only]
            exact at_set_self ..
          · rw [only]
            exact at_set_self ..
          · rw [sessionView_congr only]
            exact answered

/-! ### DETACH (R37, R45) -/

theorem needs_of_standing {s t : State} (h : ∀ n : Master, t.sessions[n].standing = s.sessions[n].standing)
    (o k : Serial) : t.needs o k = s.needs o k := by
  unfold State.needs State.cursorNeeds
  simp only [h]

/-- A session end reaches the other masters, the zones, the queue and the ring; the record of the master itself may be
anything with the same standing. -/
theorem SessionEnds.congr {s u t : State} {m : Master} (h : SessionEnds s u m) (hz : t.zones = u.zones)
    (hq : t.queue = u.queue) (hr : t.ring = u.ring)
    (hs : ∀ n : Master, t.sessions[n].standing = u.sessions[n].standing)
    (others : ∀ n : Master, n ≠ m → t.sessions[n] = u.sessions[n] ∧ t.changeSets[n] = u.changeSets[n] ∧
      t.attention[n] = u.attention[n]) : SessionEnds s t m := by
  obtain ⟨zone, queue, ring, other⟩ := h
  refine ⟨fun z => ?_, by rw [hq, queue], ?_, fun n hn => ?_⟩
  · unfold EpochFollows Redriven
    rw [hz]
    exact zone z
  · unfold RingFreed
    simp only [needs_of_standing hs]
    rw [hr]
    exact ring
  · obtain ⟨h1, h2, h3⟩ := others n hn
    unfold GainsZones
    rw [h1, h2, h3]
    exact other n hn

theorem SessionEnds.answered {s u t : State} {m : Master} (h : SessionEnds s u m) (k : OnlyAnswered u t) :
    SessionEnds s t m :=
  h.congr k.zones k.queue (by rw [k]) (fun n => by rw [k.sessions]) fun n _ => by
    rw [k.sessions, k.changeSets, k.attention]
    exact ⟨rfl, rfl, rfl⟩

theorem detach_self (s : State) (m : Master) :
    (s.detach m).sessions[m] = .afterReset ∧ (s.detach m).attention[m] = .afterReset ∧ (s.detach m).changeSets[m] = 0 :=
  ⟨at_set_self .., at_set_self .., at_set_self ..⟩

/-- The master's own record, flags and change set after its DETACH: the reset values (R37). -/
def State.cleared (s : State) (m : Master) : State :=
  ((s.withAttention m .afterReset).withChangeSet m 0).withSession m .afterReset

theorem cleared_others (s : State) {m n : Master} (hn : n ≠ m) :
    (s.cleared m).sessions[n] = s.sessions[n] ∧ (s.cleared m).changeSets[n] = s.changeSets[n] ∧
      (s.cleared m).attention[n] = s.attention[n] :=
  ⟨at_set_ne _ (Ne.symm hn) _, at_set_ne _ (Ne.symm hn) _, at_set_ne _ (Ne.symm hn) _⟩

theorem detach_of_attached {s : State} {m : Master} (h : s.isAttached m = true) :
    s.detach m = ((s.withSession m { s.sessions[m] with standing := .detached }).endSession m).cleared m := by
  unfold State.detach State.cleared
  dsimp only
  rw [if_pos h]

theorem detach_of_away {s : State} {m : Master} (h : s.isAttached m = false) :
    s.detach m = (s.withSession m { s.sessions[m] with standing := .detached }).cleared m := by
  unfold State.detach State.cleared
  rw [h]
  rfl

theorem SessionEnds.cleared {s u : State} {m : Master} (h : SessionEnds s u m)
    (gone : u.sessions[m].standing = .detached) : SessionEnds s (u.cleared m) m := by
  refine h.congr rfl rfl rfl (fun n => ?_) fun n hn => cleared_others u hn
  by_cases hn : n = m
  · subst hn
    rw [gone]
    exact congrArg Session.standing (at_set_self ..)
  · rw [(cleared_others u hn).1]

theorem detach_ends {s : State} {m : Master} (h : s.isAttached m = true) :
    SessionEnds (s.withSession m { s.sessions[m] with standing := .detached }) (s.detach m) m := by
  rw [detach_of_attached h]
  refine (endSession_spec m _).cleared ?_
  rw [((endSession_context m _).2.2 m).1, State.withSession_sessions, at_set_self]

theorem detach_away {s : State} {m : Master} (h : s.isAttached m = false) :
    (s.detach m).zones = s.zones ∧ (s.detach m).queue = s.queue ∧ (s.detach m).ring = s.ring ∧
      ∀ n : Master, n ≠ m → (s.detach m).sessions[n] = s.sessions[n] ∧ (s.detach m).attention[n] = s.attention[n] ∧
        (s.detach m).changeSets[n] = s.changeSets[n] := by
  rw [detach_of_away h]
  refine ⟨rfl, rfl, rfl, fun n hn => ?_⟩
  obtain ⟨h1, h2, h3⟩ := cleared_others (s.withSession m { s.sessions[m] with standing := .detached }) hn
  exact ⟨h1.trans (at_set_ne _ (Ne.symm hn) _), h3, h2⟩

theorem OnlySessionEnd.answered {s u t : State} (h : OnlySessionEnd s u) (k : OnlyAnswered u t) : OnlySessionEnd s t := by
  unfold OnlySessionEnd
  rw [k, h]

theorem OnlyAnswered.onlySessionEnd {s t : State} (h : OnlyAnswered s t) : OnlySessionEnd s t := by
  unfold OnlySessionEnd
  rw [h]

theorem detach_onlySessionEnd (s : State) (m : Master) : OnlySessionEnd s (s.detach m) := by
  unfold OnlySessionEnd
  rw [detach_frame]

theorem detach_answer_of_detached {s : State} {m : Master} (h : s.sessions[m].standing = .detached) :
    answerOf .detach m [] s = s.reply [0] := by
  change detachAnswer m [] s = _
  unfold detachAnswer
  rw [h]

theorem detach_answer_of_here {s : State} {m : Master} (h : s.sessions[m].standing ≠ .detached) :
    answerOf .detach m [] s = (s.detach m).reply [byteOf (s.heldCount m)] := by
  change detachAnswer m [] s = _
  unfold detachAnswer
  cases hs : s.sessions[m].standing with
  | detached => exact absurd hs h
  | _ => rfl

/-- Settles O22: the session end of the model, and then the master's own reset values. -/
theorem detachEndsTheSession : Obligations.DetachEndsTheSession := by
  intro s m h
  by_cases gone : s.sessions[m].standing = .detached
  · have away := away_of_detached gone
    obtain ⟨t, he, only, answered⟩ := exec_row_of_reply h (detach_answer_of_detached gone)
    refine ⟨t, he, only.onlySessionEnd, fun _ => ⟨answered, only⟩, fun x => absurd gone x,
      fun x => absurd x (Bool.eq_false_iff.mp away), fun _ => ?_⟩
    rw [only]
    exact ⟨rfl, rfl, rfl, fun n _ => ⟨rfl, rfl, rfl⟩⟩
  · have frame := detach_frame s m
    obtain ⟨t, he, only, answered⟩ := exec_row_of_plain h rfl (detach_answer_of_here gone) (by rw [frame])
      (by rw [frame]) (by rw [frame])
    have kept := only.only
    obtain ⟨self, flags, set⟩ := detach_self s m
    refine ⟨t, he, (detach_onlySessionEnd s m).answered kept, fun x => absurd x gone, fun _ => ⟨answered, ?_, ?_, ?_⟩,
      fun here => (detach_ends here).answered kept, fun away => ?_⟩
    · rw [kept.sessions]
      exact self
    · rw [kept.attention]
      exact flags
    · rw [kept.changeSets]
      exact set
    · rw [kept.zones, kept.queue, kept.sessions, kept.attention, kept.changeSets, show t.ring = (s.detach m).ring by rw [only]]
      exact detach_away away

/-! ### PARK and UNPARK (R38 to R40) -/

theorem any_zone_iff (p : ZoneId → Bool) : allZones.any p = true ↔ ∃ z, p z = true := by
  rw [List.any_eq_true]
  exact ⟨fun ⟨z, _, hz⟩ => ⟨z, hz⟩, fun ⟨z, hz⟩ => ⟨z, mem_allZones z, hz⟩⟩

theorem heldCount_ne_zero_iff (s : State) (m : Master) : s.heldCount m ≠ 0 ↔ ∃ z, s.holds m z = true := by
  unfold State.heldCount
  rw [← Nat.pos_iff_ne_zero, List.countP_pos_iff]
  exact ⟨fun ⟨z, _, hz⟩ => ⟨z, hz⟩, fun ⟨z, hz⟩ => ⟨z, mem_allZones z, hz⟩⟩

theorem entryCount_ne_zero_iff (s : State) (m : Master) : s.entryCount m ≠ 0 ↔ ∃ e ∈ s.queue, e.poster = m := by
  unfold State.entryCount
  rw [← Nat.pos_iff_ne_zero, List.countP_pos_iff]
  simp only [decide_eq_true_eq]

/-- The checks of R38 in their order: whatever the master still has a part in, then its flags. -/
theorem parkRefusal_eq (s : State) (m : Master) :
    s.parkRefusal m =
      if s.sessions[m].standing.isParked = true ∨ (∃ z, s.holds m z = true) ∨ (∃ e ∈ s.queue, e.poster = m) ∨
          (∃ z, s.requests m z = true) ∨ ∃ z, s.isCandidate m z = true then some .wrongState
      else if s.attention[m].flags &&& s.attention[m].enables ≠ 0 then some .pendingFlags
      else none := by
  unfold State.parkRefusal
  simp only [ite_or, ← heldCount_ne_zero_iff, ← entryCount_ne_zero_iff]
  simp only [← any_zone_iff]

theorem park_sessions (s : State) (m : Master) :
    (s.park m).sessions = s.sessions.set m { s.sessions[m] with standing := .parked s.nextSerial, timer := .stopped } := by
  unfold State.park
  rw [State.freeRing_sessions, State.withSession_sessions]

/-- With no master ATTACHED the ring holds nothing (R142). -/
theorem RingFreed.empty {s t : State} (h : RingFreed s t) (away : ∀ n : Master, t.isAttached n = false) : t.ring = [] := by
  obtain ⟨freed, append, ends⟩ := h
  cases hr : t.ring with
  | nil => rfl
  | cons r rest =>
    exfalso
    rw [hr] at append ends
    have needed : ∀ o : Serial, t.needs o r.serial = false := fun o => by
      refine List.any_eq_false.mpr fun n _ => ?_
      have hn := away n
      unfold State.isAttached at hn
      unfold State.cursorNeeds
      cases hs : t.sessions[n].standing with
      | attached c => rw [hs] at hn; cases hn
      | _ => exact Bool.false_ne_true
    cases hh : s.ring.head? with
    | none =>
      rw [List.head?_eq_none_iff.mp hh] at append
      cases freed <;> cases append
    | some oldest =>
      have := (ends oldest hh).2 r rfl
      rw [needed] at this
      cases this

theorem park_freed (s : State) (m : Master) : RingFreed s (s.park m) :=
  freeRing_freed (s.withSession m { s.sessions[m] with standing := .parked s.nextSerial, timer := .stopped })

/-- Settles O23: the checks read as one condition; a PARKED master needs no record of the ring. -/
theorem parkIsCheckedAndTaken : Obligations.ParkIsCheckedAndTaken := by
  intro s m h
  have checked : ∀ r, (answerOf .park m [] s = r ↔ parkAnswer m [] s = r) := fun _ => Iff.rfl
  simp only [parkAnswer, parkRefusal_eq] at checked
  split
  next busy =>
    obtain ⟨t, he, only, rest⟩ := exec_row_of_plainRefuse (st := .wrongState) h rfl ((checked _).mpr (by rw [if_pos busy]))
    exact ⟨t, he, by rw [only], rest⟩
  next free =>
    simp only [free, if_false] at checked
    split
    next pending =>
      obtain ⟨t, he, only, rest⟩ :=
        exec_row_of_plainRefuse (st := .pendingFlags) h rfl ((checked _).mpr (by rw [if_pos pending]))
      exact ⟨t, he, by rw [only], rest⟩
    next quiet =>
      have frame := park_frame s m
      obtain ⟨t, he, only, answered⟩ := exec_row_of_plain h rfl ((checked _).mpr (by rw [if_neg quiet]))
        (by rw [frame]) (by rw [frame]) (by rw [frame])
      have sessions : t.sessions = _ := only.only.sessions.trans (park_sessions s m)
      have freed : RingFreed s t := by
        have := park_freed s m
        unfold RingFreed at this ⊢
        rwa [only]
      refine ⟨t, he, by rw [only, frame], ?_, fun n hn => ?_, freed, fun away => freed.empty fun n => ?_, answered⟩
      · rw [sessions]
        exact at_set_self ..
      · rw [sessions]
        exact at_set_ne _ (Ne.symm hn) _
      · unfold State.isAttached
        rw [sessions]
        by_cases hn : n = m
        · subst hn
          rw [at_set_self]
          rfl
        · rw [at_set_ne _ (Ne.symm hn)]
          exact away n hn

end Sys2Proof.Machine

/-! PROOFS. Sessions, continued: UNPARK, RENEW, SUPERVISE, the supervision timer's events, ACKNOWLEDGE and SET ENABLES. -/

namespace Sys2Proof.Machine

/-! ### UNPARK (R40) -/

theorem unpark_sessions (s : State) (m : Master) (k : Serial) :
    (s.unpark m k).sessions = s.sessions.set m { s.sessions[m] with
      standing := .attached s.nextSerial, timer := idleTimer s.sessions[m].mode s.timeCount } := by
  unfold State.unpark
  dsimp only
  split
  · rfl
  · rw [State.signal_sessions, State.withSession_sessions]

theorem unpark_attention (s : State) (m n : Master) (k : Serial) :
    (s.unpark m k).attention[n] =
      if n = m ∧ s.nextSerial ≠ k then s.attention[n].after .captureGap else s.attention[n] := by
  unfold State.unpark
  dsimp only
  by_cases hk : s.nextSerial = k
  · rw [if_pos hk, if_neg fun x => x.2 hk]
    rfl
  · rw [if_neg hk]
    by_cases hn : n = m
    · subst hn
      rw [signal_attention_self (by rw [State.withSession_sessions, at_set_self]; exact nofun), if_pos ⟨rfl, hk⟩]
      rfl
    · rw [signal_attention_ne _ hn, if_neg fun x => hn x.1]
      rfl

theorem unpark_answer_of_parked {s : State} {m : Master} {k : Serial} (h : s.sessions[m].standing = .parked k) :
    answerOf .unpark m [] s = (s.unpark m k).reply ((s.unpark m k).sessionView m ++ encodeSerial s.nextSerial) := by
  change unparkAnswer m [] s = _
  unfold unparkAnswer
  rw [h]

theorem unpark_answer_of_other {s : State} {m : Master} (h : ∀ k, s.sessions[m].standing ≠ .parked k) :
    answerOf .unpark m [] s = s.refuse .wrongState := by
  change unparkAnswer m [] s = _
  unfold unparkAnswer
  cases hs : s.sessions[m].standing with
  | parked k => exact absurd hs (h k)
  | _ => rfl

/-- Settles O24: the session resumes with a fresh timer, and the serials tell whether records were appended. -/
theorem unparkResumesTheSession : Obligations.UnparkResumesTheSession := by
  intro s m h
  by_cases parked : ∃ k, s.sessions[m].standing = .parked k
  · obtain ⟨k, hk⟩ := parked
    have frame := unpark_frame s m k
    obtain ⟨t, he, only, answered⟩ := exec_row_of_plain h rfl (unpark_answer_of_parked hk) (by rw [frame]) (by rw [frame])
      (by rw [frame])
    have sessions := only.only.sessions.trans (unpark_sessions s m k)
    refine ⟨t, he, by rw [only, frame], fun n hn => ⟨?_, ?_⟩, fun j hj => ⟨?_, ?_, ?_⟩, fun here => ?_⟩
    · rw [sessions]
      exact at_set_ne _ (Ne.symm hn) _
    · rw [only.only.attention, unpark_attention, if_neg fun x => hn x.1]
    · rw [sessions, at_set_self]
      cases s.sessions[m].mode <;> rfl
    · obtain rfl : k = j := Standing.parked.inj (hk.symm.trans hj)
      rw [only.only.attention, unpark_attention]
      by_cases same : s.nextSerial = k
      · rw [if_neg fun x => x.2 same, if_pos same]
      · rw [if_pos ⟨rfl, same⟩, if_neg same]
    · rw [sessionView_congr only]
      exact answered
    · unfold State.isAttached at here
      rw [hk] at here
      cases here
  · have other : ∀ k, s.sessions[m].standing ≠ .parked k := fun k hk => parked ⟨k, hk⟩
    obtain ⟨t, he, only, answered, kept⟩ := exec_row_of_plainRefuse h rfl (unpark_answer_of_other other)
    exact ⟨t, he, by rw [only], fun n _ => by rw [only]; exact ⟨rfl, rfl⟩, fun k hk => absurd hk (other k),
      fun _ => ⟨answered, kept⟩⟩

/-! ### Revocations and strikes seen through what follows them -/

theorem Revokes.answered {s u t : State} {m : Master} {reason : RevokeReason} (h : Revokes s u m reason)
    (k : OnlyAnswered u t) : Revokes s t m reason := by
  obtain ⟨ends, rest⟩ := h
  refine ⟨ends.answered k, ?_⟩
  rw [k.sessions, k.attention, k.changeSets]
  exact rest

theorem revoke_onlySessionEnd (s : State) (m : Master) (reason : RevokeReason) :
    OnlySessionEnd s (s.revoke m reason) := by
  unfold OnlySessionEnd
  rw [revoke_frame]

theorem recordStrike_onlySessionEnd (s : State) (m : Master) : OnlySessionEnd s (s.recordStrike m) := by
  unfold OnlySessionEnd
  ext1 <;> simp

theorem Strikes.answered {s u t : State} {m : Master} (h : Strikes s u m) (k : OnlyAnswered u t) : Strikes s t m := by
  obtain ⟨zone, self, others, queue, ring, sets, told, warned⟩ := h
  refine ⟨fun z => ?_, ?_, fun n hn => ?_, ?_, ?_, fun n => ?_, fun n => ?_, ?_⟩
  · unfold Redriven
    rw [k.zones]
    exact zone z
  · rw [k.sessions]
    exact self
  · rw [k.sessions]
    exact others n hn
  · rw [k.queue, queue]
  · rw [← ring, k]
  · unfold GainsZones
    rw [k.changeSets]
    exact sets n
  · rw [k.attention]
    exact told n
  · rw [k.attention]
    exact warned

/-- A strike leaves every timer; one that is set after it is the master's own. -/
theorem Strikes.withTimer {s u : State} {m : Master} (h : Strikes s u m) (timer : SupervisionTimer) :
    Strikes s (u.withTimer m timer) m := by
  obtain ⟨zone, self, others, queue, ring, sets, told, warned⟩ := h
  have mine : (u.withTimer m timer).sessions[m] = { u.sessions[m] with timer := timer } := at_set_self ..
  refine ⟨zone, ?_, fun n hn => ?_, queue, ring, sets, told, warned⟩
  · rw [mine, self]
  · exact (at_set_ne _ (Ne.symm hn) _).trans (others n hn)

theorem recordStrike_timer (s : State) (m : Master) : (s.recordStrike m).sessions[m].timer = s.sessions[m].timer := by
  rw [recordStrike_sessions, at_set_self]

/-! ### RENEW (R41) -/

theorem renew_ports (s : State) (m : Master) :
    (s.renew m).ports = s.ports ∧ (s.renew m).lastServed = s.lastServed ∧ (s.renew m).chosen = s.chosen := by
  unfold State.renew
  split <;> simp

/-- Settles O25: the timer RENEW finds decides between a revocation, a fresh timer and nothing. -/
theorem renewByTheTimerItFinds : Obligations.RenewByTheTimerItFinds := by
  intro s m h
  obtain ⟨ports, lastServed, chosen⟩ := renew_ports s m
  obtain ⟨t, he, only, answered⟩ := exec_row_of_plain (u := s.renew m) h rfl rfl ports lastServed chosen
  refine ⟨t, he, by rw [sessionView_congr only]; exact answered, ?_⟩
  have kept := only.only
  cases ht : s.sessions[m].timer with
  | closed since =>
    have hr : s.renew m = s.revoke m .earlyRenewal := by unfold State.renew; rw [ht]
    rw [hr] at kept
    exact ⟨(revoke_spec m _ s).answered kept, (revoke_onlySessionEnd s m _).answered kept⟩
  | opened since =>
    have hr : s.renew m = s.withTimer m (.closed s.timeCount) := by unfold State.renew; rw [ht]
    rw [hr] at only
    refine ⟨by rw [only]; rfl, ?_⟩
    rw [only]
    rfl
  | running since =>
    have hr : s.renew m = s.withTimer m (.running s.timeCount) := by unfold State.renew; rw [ht]
    rw [hr] at only
    refine ⟨by rw [only]; rfl, ?_⟩
    rw [only]
    rfl
  | stopped =>
    have hr : s.renew m = s := by unfold State.renew; rw [ht]
    rwa [hr] at kept

/-! ### SUPERVISE (R33, R34, R43) -/

theorem protects_iff (s : State) (m : Master) :
    s.protects m = true ↔ s.device = .operational ∧ s.heldCount m ≠ 0 := by
  unfold State.protects
  cases s.device <;> simp

theorem supervise_refused {s : State} {m : Master} {mb pb : Byte} {st : Status} (h : s.serves m .supervise [mb, pb])
    (ha : answerOf .supervise m [mb, pb] s = s.refuse st) :
    ∃ t, exec (.supervise m [mb, pb]) s = .next t ∧ OnlySessionEnd s t ∧ Answered s t m .supervise st [] ∧
      OnlyAnswered s t := by
  obtain ⟨t, he, only, answered⟩ := exec_row_of_refuse h ha
  exact ⟨t, he, only.onlySessionEnd, answered, only⟩

/-- A protection refusal changes state (R34, R166): what the failure made of it, and then the port alone. -/
theorem supervise_protected {s : State} {m : Master} {mb pb : Byte} (h : s.serves m .supervise [mb, pb])
    (ha : answerOf .supervise m [mb, pb] s = (s.protectionFailure m).refuse .protection) :
    ∃ t, exec (.supervise m [mb, pb]) s = .next t ∧ OnlySessionEnd s t ∧ Answered s t m .supervise .protection [] ∧
      (s.sessions[m].strike = true → Revokes s t m .reconfigure) ∧
      (s.sessions[m].strike = false → Strikes s t m ∧ t.sessions[m].timer = s.sessions[m].timer) := by
  have here := attached_ne_detached (serves_attached h rfl)
  have frame : OnlySessionEnd s (s.protectionFailure m) := by
    unfold State.protectionFailure
    split
    · exact revoke_onlySessionEnd s m _
    · exact recordStrike_onlySessionEnd s m
  have ports : (s.protectionFailure m).ports = s.ports ∧ (s.protectionFailure m).lastServed = s.lastServed ∧
      (s.protectionFailure m).chosen = s.chosen := by
    unfold State.protectionFailure
    split <;> simp
  have kept : OnlyAnswered (s.protectionFailure m) (State.finish .supervise m ((s.protectionFailure m).refuse .protection)) :=
    finish_onlyAnswered .supervise m _
  refine ⟨_, exec_row_of_serves h, ?_⟩
  rw [ha]
  refine ⟨frame.answered kept, State.finish_answered .supervise m ((s.protectionFailure m).refuse .protection) ports.1
    ports.2.1 ports.2.2, fun strike => ?_, fun clean => ?_⟩
  · have hp : s.protectionFailure m = s.revoke m .reconfigure := if_pos strike
    rw [hp] at kept ⊢
    exact (revoke_spec m _ s).answered kept
  · have hp : s.protectionFailure m = s.recordStrike m := if_neg (by rw [clean]; exact Bool.false_ne_true)
    rw [hp] at kept ⊢
    refine ⟨(recordStrike_spec m s here).answered kept, ?_⟩
    rw [kept.sessions, recordStrike_timer]

theorem supervise_sessions (s : State) (m : Master) (mode : Mode) (period : Period) :
    (s.supervise m mode period).sessions = s.sessions.set m
      { s.sessions[m] with mode := mode, period := period, timer := s.supervisedTimer m mode } := rfl

/-- Settles O26: the checks in R43's order, the failure of the last of which strikes or revokes. -/
theorem superviseIsCheckedAndTaken : Obligations.SuperviseIsCheckedAndTaken := by
  intro s m mb pb h
  have checked : ∀ r, (answerOf .supervise m [mb, pb] s = r ↔ superviseAnswer m [mb, pb] s = r) := fun _ => Iff.rfl
  cases hm : modeOf mb with
  | none =>
    exact supervise_refused (st := .codeError) h ((checked _).mpr (by unfold superviseAnswer; dsimp only; rw [hm]))
  | some mode =>
    cases hp : periodOf pb with
    | none =>
      exact supervise_refused (st := .codeError) h ((checked _).mpr (by unfold superviseAnswer; dsimp only; rw [hm, hp]))
    | some period =>
      dsimp only
      simp only [superviseAnswer, hm, hp, policyRefuses_iff, protects_iff] at checked
      split
      next lax => exact supervise_refused (st := .policy) h ((checked _).mpr (if_pos lax))
      next strict =>
        simp only [strict, if_false] at checked
        split
        next holding => exact supervise_protected h ((checked _).mpr (if_pos holding))
        next free =>
          obtain ⟨t, he, only, answered⟩ := exec_row_of_plain h rfl ((checked _).mpr (if_neg free)) rfl rfl rfl
          have sessions := only.only.sessions.trans (supervise_sessions s m mode period)
          have frame : s.supervise m mode period = { s with sessions := (s.supervise m mode period).sessions } := rfl
          have same : t = { s with sessions := t.sessions, ports := t.ports } := by rw [only, frame]
          refine ⟨t, he, by unfold OnlySessionEnd; rw [same], ?_, same, by rw [sessionView_congr only]; exact answered⟩
          rw [sessions]
          congr 2
          unfold State.supervisedTimer freshTimer
          cases mode with
          | auto => by_cases hk : s.heldCount m = 0 <;> simp [hk]
          | _ => rfl

/-! ### SUPERVISION_EXPIRY and WINDOW_OPEN (R25 to R28) -/

theorem supervisionExpiry_of_away {s : State} {m : Master} (h : s.isAttached m ≠ true) : s.supervisionExpiry m = s := by
  have hd : s.supervisionDue m = false := by
    unfold State.supervisionDue
    rw [Bool.eq_false_iff.mpr h]
    rfl
  simp only [State.supervisionExpiry, hd, Bool.false_eq_true, if_false]

theorem supervisionExpiry_of_due {s : State} {m : Master} (here : s.isAttached m = true)
    (due : s.sessions[m].timer.hasRun s s.sessions[m].period.micros = true) :
    s.supervisionExpiry m = s.supervisionFailure m := by
  simp only [State.supervisionExpiry, State.supervisionDue, here, due, Bool.true_and, if_true]

theorem supervisionExpiry_of_early {s : State} {m : Master}
    (early : s.sessions[m].timer.hasRun s s.sessions[m].period.micros = false) : s.supervisionExpiry m = s := by
  simp only [State.supervisionExpiry, State.supervisionDue, early, Bool.and_false, Bool.false_eq_true, if_false]

theorem supervisionExpiry_onlySessionEnd (s : State) (m : Master) : OnlySessionEnd s (s.supervisionExpiry m) := by
  unfold State.supervisionExpiry
  split
  · unfold State.supervisionFailure
    split
    · exact revoke_onlySessionEnd s m _
    · exact revoke_onlySessionEnd s m _
    · split
      · exact revoke_onlySessionEnd s m _
      · have only := recordStrike_onlySessionEnd s m
        unfold OnlySessionEnd at only ⊢
        unfold State.withTimer State.withSession
        rw [only]
    · rfl
  · rfl

/-- An expiry in TIMEOUT or AUTO: a strike and a fresh timer, or with a strike pending a revocation (R27, R28). -/
theorem supervisionFailure_of_running {s : State} {m : Master} {since : TimeCount} (here : s.isAttached m = true)
    (timer : s.sessions[m].timer = .running since) :
    (s.sessions[m].strike = true → Revokes s (s.supervisionFailure m) m .secondExpiry) ∧
      (s.sessions[m].strike = false →
        Strikes s (s.supervisionFailure m) m ∧ (s.supervisionFailure m).sessions[m].timer = .running s.timeCount) := by
  unfold State.supervisionFailure
  rw [timer]
  dsimp only
  refine ⟨fun strike => ?_, fun clean => ?_⟩
  · rw [if_pos strike]
    exact revoke_spec m _ s
  · rw [if_neg (by rw [clean]; exact Bool.false_ne_true)]
    exact ⟨(recordStrike_spec m s (attached_ne_detached here)).withTimer _, congrArg Session.timer (at_set_self ..)⟩

theorem supervisionFailure_of_window {s : State} {m : Master} {since : TimeCount}
    (timer : s.sessions[m].timer = .closed since ∨ s.sessions[m].timer = .opened since) :
    Revokes s (s.supervisionFailure m) m .expiry := by
  have hr : s.supervisionFailure m = s.revoke m .expiry := by
    unfold State.supervisionFailure
    rcases timer with h | h <;> rw [h]
  rw [hr]
  exact revoke_spec m _ s

theorem supervisionExpiryStrikesOrRevokes : Clauses.SupervisionExpiryStrikesOrRevokes := by
  intro s m
  refine ⟨_, rfl, supervisionExpiry_onlySessionEnd s m, ?_⟩
  split
  next here =>
    cases timer : s.sessions[m].timer with
    | stopped => exact supervisionExpiry_of_early (by rw [timer]; rfl)
    | closed since =>
      dsimp only
      split
      next due =>
        rw [supervisionExpiry_of_due here (by rw [timer]; exact decide_eq_true due)]
        exact supervisionFailure_of_window (.inl timer)
      next early => exact supervisionExpiry_of_early (by rw [timer]; exact decide_eq_false early)
    | opened since =>
      dsimp only
      split
      next due =>
        rw [supervisionExpiry_of_due here (by rw [timer]; exact decide_eq_true due)]
        exact supervisionFailure_of_window (.inr timer)
      next early => exact supervisionExpiry_of_early (by rw [timer]; exact decide_eq_false early)
    | running since =>
      dsimp only
      split
      next due =>
        rw [supervisionExpiry_of_due here (by rw [timer]; exact decide_eq_true due)]
        exact supervisionFailure_of_running here timer
      next early => exact supervisionExpiry_of_early (by rw [timer]; exact decide_eq_false early)
  next away => exact supervisionExpiry_of_away away

theorem windowOpen_of_closed {s : State} {m : Master} {since : TimeCount} (timer : s.sessions[m].timer = .closed since) :
    s.windowOpen m =
      if s.sessions[m].period.micros / 2 ≤ (s.timeCount - since).toNat then s.withTimer m (.opened since) else s := by
  unfold State.windowOpen
  rw [timer]
  rfl

theorem windowOpen_of_other {s : State} {m : Master} (timer : ∀ since, s.sessions[m].timer ≠ .closed since) :
    s.windowOpen m = s := by
  unfold State.windowOpen
  cases ht : s.sessions[m].timer with
  | closed since => exact absurd ht (timer since)
  | _ => rfl

theorem windowOpensAtHalfThePeriod : Clauses.WindowOpensAtHalfThePeriod := by
  intro s m
  have frame : s.windowOpen m = { s with sessions := (s.windowOpen m).sessions } := by
    unfold State.windowOpen
    split
    · split <;> rfl
    · rfl
  refine ⟨_, rfl, frame, fun since timer half => ?_, fun since timer early => ?_, windowOpen_of_other⟩
  · rw [windowOpen_of_closed timer, if_pos half]
    rfl
  · rw [windowOpen_of_closed timer, if_neg (by omega)]

/-- Settles O49: the timer found decides what its expiry does, and the passage to OPEN writes one timer. -/
theorem supervisionTimerEvents : Obligations.SupervisionTimerEvents :=
  ⟨supervisionExpiryStrikesOrRevokes, windowOpensAtHalfThePeriod⟩

/-! ### ACKNOWLEDGE and SET ENABLES (R157, R159) -/

theorem flagSetOf_eq (hi lo : Byte) :
    flagSetOf hi lo = if hi.getLsbD 7 = true then none else some ((hi ++ lo).setWidth 15) := rfl

theorem acknowledge_attention (s : State) (m : Master) (named : FlagSet) :
    (s.acknowledge m named).attention =
      s.attention.set m { s.attention[m] with flags := s.attention[m].flags &&& ~~~named } := by
  unfold State.acknowledge
  dsimp only
  split <;> rfl

theorem acknowledge_sessions (s : State) (m : Master) (named : FlagSet) :
    (s.acknowledge m named).sessions = s.sessions.set m
      { s.sessions[m] with strike := s.sessions[m].strike && !Flag.supervisionWarning.mem named } := by
  unfold State.acknowledge
  dsimp only
  cases hw : Flag.supervisionWarning.mem named with
  | true =>
    rw [if_pos rfl, Bool.not_true, Bool.and_false]
    rfl
  | false =>
    rw [if_neg Bool.false_ne_true, Bool.not_false, Bool.and_true]
    exact (set_at_self s.sessions m).symm

theorem acknowledgeClearsTheFlagsNamed : Clauses.AcknowledgeClearsTheFlagsNamed := by
  intro s m hi lo h
  have checked : ∀ r, (answerOf .acknowledge m [hi, lo] s = r ↔ acknowledgeAnswer m [hi, lo] s = r) := fun _ => Iff.rfl
  simp only [acknowledgeAnswer, flagSetOf_eq] at checked
  split
  next outside =>
    obtain ⟨t, he, only, rest⟩ := exec_row_of_plainRefuse (st := .range) h rfl ((checked _).mpr (by rw [if_pos outside]))
    exact ⟨t, he, by rw [only], rest⟩
  next inside =>
    have frame := acknowledge_frame s m ((hi ++ lo).setWidth 15)
    obtain ⟨t, he, only, answered⟩ := exec_row_of_plain h rfl ((checked _).mpr (by rw [if_neg inside])) (by rw [frame])
      (by rw [frame]) (by rw [frame])
    exact ⟨t, he, by rw [only, frame], only.only.attention.trans (acknowledge_attention ..),
      only.only.sessions.trans (acknowledge_sessions ..), by rw [only.only.attention]; exact answered⟩

theorem attn_congr {u t : State} (h : OnlyPorts u t) (m : Master) : t.attn m = u.attn m := by
  rw [h]
  rfl

theorem setEnablesReplacesEnablesAndMask : Clauses.SetEnablesReplacesEnablesAndMask := by
  intro s m hi lo mask h
  have checked : ∀ r, (answerOf .setEnables m [hi, lo, mask] s = r ↔ setEnablesAnswer m [hi, lo, mask] s = r) :=
    fun _ => Iff.rfl
  simp only [setEnablesAnswer, flagSetOf_eq] at checked
  split
  next outside =>
    obtain ⟨t, he, only, rest⟩ := exec_row_of_plainRefuse (st := .range) h rfl ((checked _).mpr (by rw [if_pos outside]))
    exact ⟨t, he, by rw [only], rest⟩
  next inside =>
    obtain ⟨t, he, only, answered⟩ := exec_row_of_plain (u := s.setEnables m ((hi ++ lo).setWidth 15) mask) h rfl
      ((checked _).mpr (by rw [if_neg inside])) rfl rfl rfl
    have frame : s.setEnables m ((hi ++ lo).setWidth 15) mask =
        { s with attention := (s.setEnables m ((hi ++ lo).setWidth 15) mask).attention } := rfl
    exact ⟨t, he, by rw [only, frame], only.only.attention, by rw [attn_congr only]; exact answered⟩

/-- Settles O57: bit 15 alone is refused; a taken request writes the master's own flags. -/
theorem acknowledgeAndSetEnables : Obligations.AcknowledgeAndSetEnables :=
  ⟨acknowledgeClearsTheFlagsNamed, setEnablesReplacesEnablesAndMask⟩

end Sys2Proof.Machine

/-! PROOFS. Posting actions and sequences (R90, R93, R94, R112, R113), and the records of WRITE STEPS (R108, R109). -/

namespace Sys2Proof.Machine

/-! ### The place of a new entry (R90) -/

/-- A new entry stands after every entry due no later. -/
theorem insertEntry_eq (e : Entry) (q : List Entry) :
    insertEntry e q = q.takeWhile (fun h => decide (h.due ≤ e.due)) ++ e :: q.dropWhile fun h => decide (h.due ≤ e.due) := by
  induction q with
  | nil => rfl
  | cons h t ih =>
    unfold insertEntry
    by_cases hle : h.due ≤ e.due
    · simp [hle, ih]
    · simp [hle]

/-! ### The checks of a post, in their order (R93, R112) -/

/-- What the operand byte of a post spells: a value with its notify mark, or the index of a first step. -/
def postKind (c : Command) (x : Byte) : Option EntryKind :=
  if c = .postAction then (valueOf (x &&& 0x7F)).map fun v => .single v (x.getLsbD 7)
  else (stepIndexOf x).map .sequence

theorem postKind_action (x : Byte) :
    postKind .postAction x = (valueOf (x &&& 0x7F)).map fun v => .single v (x.getLsbD 7) := if_pos rfl

theorem postKind_sequence (x : Byte) : postKind .postSequence x = (stepIndexOf x).map .sequence := if_neg (by decide)

/-- A post once its zone is known. -/
def State.postOn (s : State) (m : Master) (kind? : Option EntryKind) (due : TimeCount) (tag : Tag) (z : ZoneId) :
    Answer :=
  if !s.holds m z then s.refuse .notHolder
  else
    match kind? with
    | none => s.refuse .range
    | some kind =>
      match s.postRefusal m due with
      | some st => s.refuse st
      | none => s.postReply ⟨m, z, due, kind, tag⟩

theorem postAction_answer (s : State) (m : Master) (zb d5 d4 d3 d2 d1 d0 x t1 t0 : Byte) :
    answerOf .postAction m [zb, d5, d4, d3, d2, d1, d0, x, t1, t0] s =
      s.onZone zb (s.postOn m (postKind .postAction x) (timeOf [d5, d4, d3, d2, d1, d0]) (tagOf [t1, t0])) := by
  change s.onZone zb _ = _
  congr 1
  funext z
  rw [postKind_action]
  unfold State.postOn valueOfNotifyByte
  cases s.holds m z <;> cases valueOf (x &&& 0x7F) <;> rfl

theorem postSequence_answer (s : State) (m : Master) (zb d5 d4 d3 d2 d1 d0 x t1 t0 : Byte) :
    answerOf .postSequence m [zb, d5, d4, d3, d2, d1, d0, x, t1, t0] s =
      s.onZone zb (s.postOn m (postKind .postSequence x) (timeOf [d5, d4, d3, d2, d1, d0]) (tagOf [t1, t0])) := by
  change s.onZone zb _ = _
  congr 1
  funext z
  rw [postKind_sequence]
  unfold State.postOn
  cases s.holds m z <;> cases stepIndexOf x <;> rfl

theorem post_answer {c : Command} (hc : c = .postAction ∨ c = .postSequence) (s : State) (m : Master)
    (zb d5 d4 d3 d2 d1 d0 x t1 t0 : Byte) :
    answerOf c m [zb, d5, d4, d3, d2, d1, d0, x, t1, t0] s =
      s.onZone zb (s.postOn m (postKind c x) (timeOf [d5, d4, d3, d2, d1, d0]) (tagOf [t1, t0])) := by
  rcases hc with rfl | rfl
  · exact postAction_answer ..
  · exact postSequence_answer ..

section PostOn

variable {s : State} {m : Master} {z : ZoneId} {due : TimeCount} {kind : EntryKind} {tag : Tag}

theorem postOn_notHolder (kind? : Option EntryKind) (h : s.holds m z = false) :
    s.postOn m kind? due tag z = s.refuse .notHolder := by
  simp [State.postOn, h]

theorem postOn_range (h : s.holds m z = true) : s.postOn m none due tag z = s.refuse .range := by
  simp [State.postOn, h]

theorem postOn_refused {st : Status} (h : s.holds m z = true) (hr : s.postRefusal m due = some st) :
    s.postOn m (some kind) due tag z = s.refuse st := by
  simp [State.postOn, h, hr]

theorem postOn_taken (h : s.holds m z = true) (hr : s.postRefusal m due = none) :
    s.postOn m (some kind) due tag z = s.postReply ⟨m, z, due, kind, tag⟩ := by
  simp [State.postOn, h, hr]

end PostOn

/-- A post that is taken: one entry in the queue, and then the port alone. -/
theorem exec_row_of_post {s : State} {m : Master} {c : Command} {o : List Byte} {e : Entry} (h : s.serves m c o)
    (hc : c.atTable = false) (ha : answerOf c m o s = s.postReply e) :
    ∃ t, exec (c.row m o) s = .next t ∧ OnlyPorts (s.post e) t ∧
      Answered s t m c .ok (encodeEpoch s.zones[e.zone].epoch ++
        [byteOf ((s.post e).entryCount e.poster), byteOf (s.post e).queue.length, byteOf (s.postPosition e)]) :=
  exec_row_of_plain h hc ha rfl rfl rfl

theorem postsInsertOneEntry : Clauses.PostsInsertOneEntry := by
  intro s m zb x d5 d4 d3 d2 d1 d0 t1 t0 z due kind c hz hd hk h holder ahead room quota
  have hc : c = .postAction ∨ c = .postSequence := hk.imp (·.1) (·.1)
  have hkind : postKind c x = some kind := by
    rcases hk with ⟨rfl, v, hv, rfl⟩ | ⟨rfl, k, hv, rfl⟩
    · rw [postKind_action, hv]
      rfl
    · rw [postKind_sequence, hv]
      rfl
  have hr : s.postRefusal m due = none := by
    unfold State.postRefusal
    rw [if_neg (by bv_omega), if_neg (by unfold queueCapacity; omega), if_neg (by unfold queueQuota; omega)]
  have answer := post_answer hc s m zb d5 d4 d3 d2 d1 d0 x t1 t0
  rw [s.onZone_of_some _ hz, hkind, show timeOf [d5, d4, d3, d2, d1, d0] = due from hd.symm,
    postOn_taken (decide_eq_true holder) hr] at answer
  obtain ⟨t, he, only, answered⟩ := exec_row_of_post h (by rcases hc with rfl | rfl <;> rfl) answer
  refine ⟨t, s.queue.takeWhile fun h => decide (h.due ≤ due), s.queue.dropWhile fun h => decide (h.due ≤ due), he, ?_,
    (List.takeWhile_append_dropWhile ..).symm, ?_, fun e he => ?_, fun e he => ?_, ?_⟩
  · rw [only]
    rfl
  · rw [only.only.queue]
    exact insertEntry_eq _ _
  · have := List.mem_takeWhile_imp (p := fun h : Entry => decide (h.due ≤ due)) he
    exact of_decide_eq_true this
  · have := List.head?_dropWhile_not (fun h : Entry => decide (h.due ≤ due)) s.queue
    rw [Option.mem_def.mp he] at this
    have := of_decide_eq_false this
    bv_omega
  · rw [post_entryCount, post_length, if_pos rfl] at answered
    exact answered

theorem postsRefusedByTheFirstCheck : Clauses.PostsRefusedByTheFirstCheck := by
  intro s m zb x d5 d4 d3 d2 d1 d0 t1 t0 c inRange hk h
  have hc : c = .postAction ∨ c = .postSequence := hk.imp (·.1) (·.1)
  have table : c.atTable = false := by rcases hc with rfl | rfl <;> rfl
  have hkind : (postKind c x).isSome = inRange := by
    rcases hk with ⟨rfl, rfl⟩ | ⟨rfl, rfl⟩ <;> simp [postKind_action, postKind_sequence]
  have answer := post_answer hc s m zb d5 d4 d3 d2 d1 d0 x t1 t0
  cases hz : zoneOf zb with
  | none =>
    rw [s.onZone_of_none _ hz] at answer
    obtain ⟨t, he, _, rest⟩ := exec_row_of_plainRefuse h table answer
    exact ⟨t, he, rest⟩
  | some z =>
    rw [s.onZone_of_some _ hz] at answer
    dsimp only
    split
    next notHolder =>
      obtain ⟨t, he, _, rest⟩ :=
        exec_row_of_plainRefuse h table (answer.trans (postOn_notHolder _ (decide_eq_false notHolder)))
      exact ⟨t, he, rest⟩
    next holder =>
      have holds : s.holds m z = true := decide_eq_true (not_not.mp holder)
      cases hkx : postKind c x with
      | none =>
        rw [hkx] at answer hkind
        have unknown : inRange = false := hkind.symm
        simp only [unknown, if_true]
        obtain ⟨t, he, _, rest⟩ := exec_row_of_plainRefuse h table (answer.trans (postOn_range holds))
        exact ⟨t, he, rest⟩
      | some kind =>
        rw [hkx] at answer hkind
        have known : inRange = true := hkind.symm
        simp only [known, Bool.true_eq_false, if_false]
        have refused : ∀ st, s.postRefusal m (timeOf [d5, d4, d3, d2, d1, d0]) = some st →
            ∃ t, exec (c.row m [zb, d5, d4, d3, d2, d1, d0, x, t1, t0]) s = .next t ∧ Answered s t m c st [] ∧
              OnlyAnswered s t := fun st hst => by
          obtain ⟨t, he, _, rest⟩ := exec_row_of_plainRefuse h table (answer.trans (postOn_refused holds hst))
          exact ⟨t, he, rest⟩
        split
        next past => exact refused .past (if_pos past)
        next ahead =>
          split
          next full => exact refused .queueFull ((if_neg ahead).trans (if_pos full))
          next room =>
            split
            next many => exact refused .quota (((if_neg ahead).trans (if_neg room)).trans (if_pos many))
            next few =>
              have hr : s.postRefusal m (timeOf [d5, d4, d3, d2, d1, d0]) = none :=
                ((if_neg ahead).trans (if_neg room)).trans (if_neg few)
              obtain ⟨t, he, only, _⟩ := exec_row_of_post h table (answer.trans (postOn_taken holds hr))
              refine ⟨t, he, ?_⟩
              rw [only.only.queue]
              exact post_length ..

/-- Settles O54: a post that passes its checks inserts one entry after those due no later. -/
theorem postsAreCheckedAndInserted : Obligations.PostsAreCheckedAndInserted :=
  ⟨postsInsertOneEntry, postsRefusedByTheFirstCheck⟩

end Sys2Proof.Machine

/-! PROOFS. WRITE STEPS (R108, R109), and step records as bytes (R108, R171). -/

namespace Sys2Proof.Machine

/-! ### The records written (R109) -/

theorem writeBank_outside (records : List Step) :
    ∀ (b : Vector Step 16) (first : Nat) (k : StepIndex), k.val < first ∨ first + records.length ≤ k.val →
      (writeBank b first records)[k] = b[k] := by
  induction records with
  | nil => exact fun _ _ _ _ => rfl
  | cons r rest ih =>
    intro b first k out
    rw [List.length_cons] at out
    unfold writeBank
    rw [ih _ _ _ (by omega)]
    split
    next h => exact at_set_ne b (i := ⟨first, h⟩) (fun x => by rw [← x] at out; simp at out) r
    next => rfl

theorem writeBank_inside (records : List Step) :
    ∀ (b : Vector Step 16) (first : Nat) (k : StepIndex), first ≤ k.val → ∀ r, records[k.val - first]? = some r →
      (writeBank b first records)[k] = r := by
  induction records with
  | nil => exact fun _ _ _ _ _ hr => nomatch hr
  | cons x rest ih =>
    intro b first k hk r hr
    unfold writeBank
    by_cases here : k.val = first
    · rw [writeBank_outside rest _ _ _ (.inl (by omega)), dif_pos (by omega)]
      rw [here, Nat.sub_self] at hr
      obtain rfl := Option.some.inj hr
      obtain ⟨k, hk'⟩ := k
      obtain rfl : k = first := here
      exact at_set_self b ⟨k, hk'⟩ x
    · refine ih _ _ _ (by omega) r ?_
      rwa [show k.val - first = (k.val - (first + 1)) + 1 by omega, List.getElem?_cons_succ] at hr

/-! ### Numbers of bytes -/

theorem toNat_append_byte {n : Nat} (x : BitVec n) (y : Byte) : (x ++ y).toNat = x.toNat * 256 + y.toNat := by
  rw [BitVec.toNat_append, ← Nat.shiftLeft_add_eq_or_of_lt y.isLt, Nat.shiftLeft_eq]

theorem toNat_delay (d2 d1 d0 : Byte) : (d2 ++ d1 ++ d0).toNat = numberOf [d2, d1, d0] := by
  rw [toNat_append_byte, toNat_append_byte]
  simp [numberOf]

theorem numberOf_three (d2 d1 d0 : Byte) : numberOf [d2, d1, d0] = (d2.toNat * 256 + d1.toNat) * 256 + d0.toNat := by
  simp [numberOf]

theorem bytesOf_three (w : Nat) :
    bytesOf 3 w = [BitVec.ofNat 8 (w / 65536), BitVec.ofNat 8 (w / 256), BitVec.ofNat 8 w] := by
  simp [bytesOf, List.range_succ, Nat.shiftRight_eq_div_pow]

theorem bytesOf_numberOf (d2 d1 d0 : Byte) : bytesOf 3 (numberOf [d2, d1, d0]) = [d2, d1, d0] := by
  have top : BitVec.ofNat 8 (numberOf [d2, d1, d0] / 65536) = d2 := by
    rw [numberOf_three]
    refine BitVec.eq_of_toNat_eq ?_
    rw [BitVec.toNat_ofNat]
    omega
  have middle : BitVec.ofNat 8 (numberOf [d2, d1, d0] / 256) = d1 := by
    rw [numberOf_three]
    refine BitVec.eq_of_toNat_eq ?_
    rw [BitVec.toNat_ofNat]
    omega
  have low : BitVec.ofNat 8 (numberOf [d2, d1, d0]) = d0 := by
    rw [numberOf_three]
    refine BitVec.eq_of_toNat_eq ?_
    rw [BitVec.toNat_ofNat]
    omega
  rw [bytesOf_three, top, middle, low]

theorem delay_of_bytes (d : BitVec 24) :
    BitVec.ofNat 8 (d.toNat / 65536) ++ BitVec.ofNat 8 (d.toNat / 256) ++ BitVec.ofNat 8 d.toNat = d := by
  refine BitVec.eq_of_toNat_eq ?_
  rw [toNat_append_byte, toNat_append_byte, BitVec.toNat_ofNat, BitVec.toNat_ofNat, BitVec.toNat_ofNat]
  have := d.isLt
  omega

/-! ### Items of a step record -/

theorem valueOf_some {b : Byte} {v : Value} (h : valueOf b = some v) : b.toNat < 16 ∧ v = b.setWidth 4 := by
  unfold valueOf at h
  split at h
  next hb => exact ⟨hb, (Option.some.inj h).symm⟩
  next => cases h

theorem valueOf_none_iff (b : Byte) : valueOf b = none ↔ 16 ≤ b.toNat := by
  unfold valueOf
  split
  next h => exact ⟨nofun, fun k => by omega⟩
  next h => exact ⟨fun _ => by omega, fun _ => rfl⟩

theorem valueNotify_decode (v : Value) (notify : Bool) :
    valueOfNotifyByte (encodeValueNotify v notify) = some v ∧ notifyOf (encodeValueNotify v notify) = notify := by
  revert v notify
  decide

theorem valueNotify_encode {b : Byte} {v : Value} (h : valueOfNotifyByte b = some v) :
    encodeValueNotify v (notifyOf b) = b := by
  have all : ∀ b : Byte, (b &&& 0x7F).toNat < 16 → encodeValueNotify ((b &&& 0x7F).setWidth 4) (notifyOf b) = b := by
    decide
  obtain ⟨hb, rfl⟩ := valueOf_some h
  exact all b hb

theorem stepIndexOf_some {b : Byte} {k : StepIndex} (h : stepIndexOf b = some k) : b.toNat = k.val := by
  unfold stepIndexOf at h
  split at h
  next hb => rw [← Option.some.inj h]
  next => cases h

theorem link_decode (l : Option StepIndex) : linkOf (encodeLink l) = some l := by
  revert l
  decide

theorem link_encode {b : Byte} {l : Option StepIndex} (h : linkOf b = some l) : encodeLink l = b := by
  unfold linkOf at h
  split at h
  next hb =>
    rw [← Option.some.inj h]
    exact hb.symm
  next =>
    obtain ⟨k, hk, rfl⟩ := Option.map_eq_some_iff.mp h
    refine BitVec.eq_of_toNat_eq ?_
    change (BitVec.ofNat 8 k.val).toNat = b.toNat
    rw [stepIndexOf_some hk, BitVec.toNat_ofNat]
    omega

/-- A link is out of range, or it is END exactly at FF hex. -/
theorem linkOf_cases (b : Byte) :
    linkOf b = none ∧ 16 ≤ b.toNat ∧ b ≠ 0xFF ∨ linkOf b = some none ∧ b = 0xFF ∨
      ∃ k, linkOf b = some (some k) ∧ b.toNat < 16 ∧ b ≠ 0xFF := by
  unfold linkOf stepIndexOf
  by_cases hb : b = 0xFF
  · exact .inr (.inl ⟨if_pos hb, hb⟩)
  · rw [if_neg hb]
    by_cases hk : b.toNat < 16
    · exact .inr (.inr ⟨⟨b.toNat, hk⟩, by rw [dif_pos hk]; rfl, hk, hb⟩)
    · exact .inl ⟨by rw [dif_neg hk]; rfl, by omega, hb⟩

/-! ### One record, and several -/

theorem encodeStep_eq (r : Step) :
    encodeStep r = [encodeValueNotify r.value r.notify, encodeLink r.link, BitVec.ofNat 8 (r.delay.toNat / 65536),
      BitVec.ofNat 8 (r.delay.toNat / 256), BitVec.ofNat 8 r.delay.toNat] := by
  unfold encodeStep encodeDelay
  rw [bytesOf_three]
  rfl

theorem stepOf_encode {r : Step} (linked : r.link.isSome = true → r.delay ≠ 0) :
    stepOf (encodeValueNotify r.value r.notify) (encodeLink r.link) (BitVec.ofNat 8 (r.delay.toNat / 65536))
      (BitVec.ofNat 8 (r.delay.toNat / 256)) (BitVec.ofNat 8 r.delay.toNat) = some r := by
  obtain ⟨hv, hn⟩ := valueNotify_decode r.value r.notify
  unfold stepOf
  rw [hv, link_decode, hn, delay_of_bytes]
  exact if_neg fun x => linked x.1 x.2

theorem stepsOf_cons (vn link d2 d1 d0 : Byte) (rest : List Byte) :
    stepsOf (vn :: link :: d2 :: d1 :: d0 :: rest) =
      (stepOf vn link d2 d1 d0).bind fun r => (stepsOf rest).map (r :: ·) := by
  rw [stepsOf]
  cases stepOf vn link d2 d1 d0 <;> cases stepsOf rest <;> rfl

theorem stepsOf_encode {records : List Step} (linked : ∀ r ∈ records, r.link.isSome = true → r.delay ≠ 0) :
    stepsOf (records.flatMap encodeStep) = some records := by
  induction records with
  | nil => rw [List.flatMap_nil, stepsOf]
  | cons r rest ih =>
    rw [List.flatMap_cons, encodeStep_eq]
    simp only [List.cons_append, List.nil_append]
    rw [stepsOf_cons, stepOf_encode (linked r (by simp)), ih fun x hx => linked x (by simp [hx])]
    rfl

theorem stepOf_some {vn link d2 d1 d0 : Byte} {r : Step} (h : stepOf vn link d2 d1 d0 = some r) :
    encodeStep r = [vn, link, d2, d1, d0] := by
  unfold stepOf at h
  split at h
  next v l hv hl =>
    dsimp only at h
    split at h
    · cases h
    · obtain rfl := Option.some.inj h
      unfold encodeStep encodeDelay
      dsimp only
      rw [valueNotify_encode hv, link_encode hl, toNat_delay, bytesOf_numberOf]
      rfl
  next => cases h

theorem stepsOf_some {b : List Byte} {records : List Step} (h : stepsOf b = some records) :
    records.flatMap encodeStep = b ∧ b.length = 5 * records.length := by
  fun_induction stepsOf b generalizing records with
  | case1 =>
    cases h
    exact ⟨rfl, rfl⟩
  | case2 vn link d2 d1 d0 rest r rs hr hrs ih =>
    obtain rfl := Option.some.inj h
    obtain ⟨bytes, length⟩ := ih hr
    refine ⟨?_, ?_⟩
    · rw [List.flatMap_cons, stepOf_some hrs, bytes]
      rfl
    · simp only [List.length_cons, length]
      omega
  | case3 => cases h
  | case4 => cases h

theorem stepOf_none_iff (vn link d2 d1 d0 : Byte) :
    stepOf vn link d2 d1 d0 = none ↔
      16 ≤ (vn &&& 0x7F).toNat ∨ 16 ≤ link.toNat ∧ link ≠ 0xFF ∨ link ≠ 0xFF ∧ numberOf [d2, d1, d0] = 0 := by
  have zero : (d2 ++ d1 ++ d0 : BitVec 24) = 0 ↔ numberOf [d2, d1, d0] = 0 := by
    rw [← toNat_delay, BitVec.toNat_eq]
    rfl
  unfold stepOf
  cases hv : valueOfNotifyByte vn with
  | none =>
    have out := (valueOf_none_iff _).mp hv
    simp only [out, true_or]
  | some v =>
    have inside := (valueOf_some hv).1
    rcases linkOf_cases link with ⟨hl, big, other⟩ | ⟨hl, hend⟩ | ⟨k, hl, small, other⟩
    · rw [hl]
      exact ⟨fun _ => .inr (.inl ⟨big, other⟩), fun _ => rfl⟩
    · rw [hl]
      simp only [Option.isSome_none, Bool.false_eq_true, false_and, if_false]
      refine ⟨nofun, fun x => ?_⟩
      rcases x with out | ⟨_, other⟩ | ⟨other, _⟩
      · omega
      · exact absurd hend other
      · exact absurd hend other
    · rw [hl]
      simp only [Option.isSome_some, true_and]
      split
      next h0 => exact ⟨fun _ => .inr (.inr ⟨other, zero.mp h0⟩), fun _ => rfl⟩
      next h0 =>
        refine ⟨nofun, fun x => ?_⟩
        rcases x with out | ⟨big, _⟩ | ⟨_, none⟩
        · omega
        · omega
        · exact absurd (zero.mpr none) h0

theorem stepRecordsEncodeAndDecode : Clauses.StepRecordsEncodeAndDecode := by
  refine ⟨fun records linked => stepsOf_encode linked, fun b records h => ?_, fun vn link d2 d1 d0 rest => ?_⟩
  · obtain ⟨bytes, length⟩ := stepsOf_some h
    exact ⟨bytes, length, stepsOf_linked h⟩
  · rw [stepsOf_cons, Option.bind_eq_none_iff]
    have first := stepOf_none_iff vn link d2 d1 d0
    cases hs : stepOf vn link d2 d1 d0 with
    | none =>
      have refused := first.mp hs
      exact ⟨fun _ => by tauto, fun _ => nofun⟩
    | some r =>
      have taken := mt first.mpr (by rw [hs]; exact nofun)
      simp only [Option.some.injEq, forall_eq', Option.map_eq_none_iff]
      tauto

/-! ### WRITE STEPS -/

/-- The layout allows one to four records. -/
theorem writeSteps_count {s : State} {m : Master} {first : Byte} {rest : List Byte} {records : List Step}
    (h : s.serves m .writeSteps (first :: rest)) (hr : stepsOf rest = some records) :
    1 ≤ records.length ∧ records.length ≤ 4 := by
  have allowed := of_decide_eq_true (serves_length h)
  have length := (stepsOf_some hr).2
  rw [List.length_cons] at allowed
  omega

theorem writeSteps_refused {s : State} {m : Master} {first : Byte} {rest : List Byte}
    (h : s.serves m .writeSteps (first :: rest)) (ha : answerOf .writeSteps m (first :: rest) s = s.refuse .range) :
    ∃ t, exec (.writeSteps m (first :: rest)) s = .next t ∧ t = { s with banks := t.banks, ports := t.ports } ∧
      (∀ n : Master, n ≠ m → t.banks[n] = s.banks[n]) ∧ Answered s t m .writeSteps .range [] ∧ t.banks = s.banks := by
  obtain ⟨t, he, only, answered, _⟩ := exec_row_of_plainRefuse h rfl ha
  exact ⟨t, he, by rw [only], fun n _ => by rw [only], answered, by rw [only]⟩

theorem writeStepsIsCheckedAndTaken : Clauses.WriteStepsIsCheckedAndTaken := by
  intro s m first rest h
  have checked : ∀ r, (answerOf .writeSteps m (first :: rest) s = r ↔ writeStepsAnswer m (first :: rest) s = r) :=
    fun _ => Iff.rfl
  simp only [writeStepsAnswer] at checked
  cases hr : stepsOf rest with
  | none => exact writeSteps_refused h ((checked _).mpr (by rw [hr]; exact ite_self _))
  | some records =>
    obtain ⟨atLeast, atMost⟩ := writeSteps_count h hr
    simp only [hr] at checked
    dsimp only
    split
    next fits =>
      obtain ⟨t, he, only, answered⟩ := exec_row_of_plain (u := s.writeSteps m first.toNat records) h rfl
        ((checked _).mpr ((if_neg (by omega)).trans (if_neg (by omega)))) rfl rfl rfl
      have banks : t.banks = s.banks.set m (writeBank s.banks[m] first.toNat records) := by rw [only]; rfl
      refine ⟨t, he, ?_, fun n hn => ?_, fun k hk r hkr => ?_, fun k out => ?_, answered⟩
      · rw [only]
        rfl
      · rw [banks]
        exact at_set_ne _ (Ne.symm hn) _
      · rw [banks, at_set_self]
        exact writeBank_inside records _ _ k hk r hkr
      · rw [banks, at_set_self]
        exact writeBank_outside records _ _ k out
    next past =>
      refine writeSteps_refused h ((checked _).mpr ?_)
      split
      · rfl
      · exact if_pos (.inr (.inr (by omega)))

/-- Settles O35: the records replace those at their indices, and are spelt by their bytes. -/
theorem writeStepsReplacesTheRecords : Obligations.WriteStepsReplacesTheRecords :=
  ⟨writeStepsIsCheckedAndTaken, stepRecordsEncodeAndDecode⟩

end Sys2Proof.Machine

/-! PROOFS. A fault as its masters see it (R62, R127, R128), and READBACK_CHECK_EXPIRY. -/

namespace Sys2Proof.Machine

/-! ### Events after one another -/

/-- A part of the attention state that none of these events touches. -/
theorem fold_keeps {β : Type} (g : Attention → β) {l : List Signal} (keeps : ∀ e ∈ l, ∀ a : Attention, g (a.after e) = g a)
    (a : Attention) : g (l.foldl Attention.after a) = g a := by
  induction l generalizing a with
  | nil => rfl
  | cons e l ih =>
    rw [List.foldl_cons, ih (fun x hx => keeps x (by simp [hx])), keeps e (by simp)]

/-- A flag is set by the events that carry it (R152). -/
theorem fold_flag (f : Flag) (l : List Signal) (a : Attention) :
    f.mem (l.foldl Attention.after a).flags = (f.mem a.flags || l.any fun e => decide (f = e.flag)) := by
  induction l generalizing a with
  | nil => simp
  | cons e l ih => rw [List.foldl_cons, ih, Attention.after_flag, List.any_cons, Bool.or_assoc]

/-- A record is that of the last event that writes it. -/
theorem fold_last {β : Type} (g : Attention → β) {l₁ l₂ : List Signal} {e : Signal} {b : β}
    (writes : ∀ a : Attention, g (a.after e) = b) (keeps : ∀ e ∈ l₂, ∀ a : Attention, g (a.after e) = g a) (a : Attention) :
    g ((l₁ ++ e :: l₂).foldl Attention.after a) = b := by
  rw [List.foldl_append, List.foldl_cons, fold_keeps g keeps, writes]

theorem told_of_here {s : State} {n : Master} (h : s.sessions[n].standing ≠ .detached) (l : List Signal) :
    s.told n l = l.foldl Attention.after s.attention[n] := if_neg h

/-! ### Change sets -/

/-- A change of one zone, as a change set gains it (R9). -/
theorem notedSet_of_gains {s t : State} {z : ZoneId} {n : Master} (h : GainsZones s t n fun y => decide (y = z)) :
    t.changeSets[n] = s.notedSet z n := by
  refine BitVec.eq_of_getLsbD_eq fun i hi => ?_
  have hz := h ⟨i, hi⟩
  unfold State.notedSet
  rw [show t.changeSets[n].getLsbD i = _ from hz]
  cases s.isAttached n with
  | false => simp
  | true =>
    have same : decide ((⟨i, hi⟩ : ZoneId) = z) = decide (i = z.val) := decide_eq_decide.mpr Fin.ext_iff
    rw [if_pos rfl, BitVec.getLsbD_or, BitVec.getLsbD_twoPow, decide_eq_true z.isLt]
    dsimp only
    rw [same, Bool.true_and, Bool.true_and, decide_eq_decide.mpr eq_comm]

/-! ### What a fault of one zone tells -/

/-- The reports of the one zone that is hit. -/
theorem flatMap_hit (z : ZoneId) (f : ZoneId → List Signal) :
    (allZones.flatMap fun y => if decide (y = z) then f y else []) = f z := by
  have key : ∀ l : List ZoneId, l.Nodup →
      (l.flatMap fun y => if decide (y = z) then f y else []) = if z ∈ l then f z else [] := by
    intro l hl
    induction l with
    | nil => rfl
    | cons y l ih =>
      obtain ⟨hy, hl⟩ := List.nodup_cons.mp hl
      rw [List.flatMap_cons, ih hl]
      by_cases h : y = z
      · subst h
        simp [hy]
      · simp [h, Ne.symm h]
  rw [key allZones (by decide), if_pos (mem_allZones z)]

section Fault

variable {s t : State} {z : ZoneId} (faults : Faults s t fun y => decide (y = z))

include faults

theorem Faults.reports (n : Master) :
    t.attention[n] = s.told n (s.changeReport n (fun y => decide (y = z)) ++ s.faultReports n z) := by
  rw [(faults.2.2.2.2 n).2, flatMap_hit]

theorem Faults.setsFollow : SetsFollow s t z := fun n => notedSet_of_gains (faults.2.2.2.2 n).1

theorem Faults.othersKept : OtherZonesKept s t z := fun y hy => (faults.2.1 y).2 (decide_eq_false hy)

/-- The holder has lost the zone with cause FAULT (R128). -/
theorem Faults.holder_told {h : Master} (holder : s.zones[z].authority.holder = some h) (attached : s.isAttached h = true) :
    Flag.lost.mem t.attention[h].flags = true ∧ t.attention[h].loss = some ⟨z, .fault⟩ := by
  have holds : s.holds h z = true := decide_eq_true holder
  have list : s.changeReport h (fun y => decide (y = z)) ++ s.faultReports h z =
      (s.changeReport h (fun y => decide (y = z)) ++ s.removalReports h z) ++ Signal.lost z .fault ::
        ((if s.requests h z then [.handoverResult z .dropped] else []) ++
          if s.isAttached h && s.permits z h then [.zoneFault] else []) := by
    unfold State.faultReports
    rw [holds]
    simp
  rw [faults.reports, told_of_here (attached_ne_detached attached), list]
  refine ⟨?_, fold_last Attention.loss (fun _ => rfl) (fun e he a => ?_) _⟩
  · rw [fold_flag, List.any_append, List.any_cons]
    simp [Signal.flag]
  · rcases List.mem_append.mp he with he | he
    · split at he <;> simp at he
      subst he
      rfl
    · split at he <;> simp at he
      subst he
      rfl

omit faults in
theorem request_some {a : Authority} {p : Pending} (h : a.request = some p) : ∃ k, a = .transfer k p := by
  cases a with
  | transfer k q => exact ⟨k, congrArg _ (Option.some.inj h)⟩
  | _ => cases h

/-- The requester is told that its request was dropped (R62, R128). -/
theorem Faults.requester_told {p : Pending} (asked : s.zones[z].authority.request = some p)
    (attached : s.isAttached p.requester = true) : t.attention[p.requester].result = some ⟨z, .dropped⟩ := by
  have requests : s.requests p.requester z = true := by
    obtain ⟨k, ha⟩ := request_some asked
    unfold State.requests
    rw [ha]
    exact decide_eq_true rfl
  have list : s.changeReport p.requester (fun y => decide (y = z)) ++ s.faultReports p.requester z =
      (s.changeReport p.requester (fun y => decide (y = z)) ++
          (if s.holds p.requester z then s.removalReports p.requester z ++ [.lost z .fault] else [])) ++
        Signal.handoverResult z .dropped ::
          if s.isAttached p.requester && s.permits z p.requester then [.zoneFault] else [] := by
    unfold State.faultReports
    rw [requests]
    simp
  rw [faults.reports, told_of_here (attached_ne_detached attached), list]
  refine fold_last Attention.result (fun _ => rfl) (fun e he a => ?_) _
  split at he <;> simp at he
  subst he
  rfl

omit faults in
/-- Only a fault sets ZONE_FAULT, for the ATTACHED masters of the permitted set (R127). -/
theorem faultReports_zoneFault (n : Master) :
    (s.changeReport n (fun y => decide (y = z)) ++ s.faultReports n z).any (fun e => decide (Flag.zoneFault = e.flag)) =
      (s.isAttached n && s.permits z n) := by
  have change : (s.changeReport n fun y => decide (y = z)).any (fun e => decide (Flag.zoneFault = e.flag)) = false := by
    unfold State.changeReport
    split <;> rfl
  have removed : (s.removalReports n z).any (fun e => decide (Flag.zoneFault = e.flag)) = false := by
    unfold State.removalReports
    rw [List.any_map]
    exact List.any_eq_false.mpr fun _ _ => Bool.false_ne_true
  have lost : (if s.holds n z then s.removalReports n z ++ [Signal.lost z .fault] else []).any
      (fun e => decide (Flag.zoneFault = e.flag)) = false := by
    split
    · rw [List.any_append, removed]
      rfl
    · rfl
  have dropped : (if s.requests n z then [Signal.handoverResult z .dropped] else []).any
      (fun e => decide (Flag.zoneFault = e.flag)) = false := by
    split <;> rfl
  rw [List.any_append, change]
  unfold State.faultReports
  rw [List.any_append, List.any_append, lost, dropped]
  cases s.isAttached n && s.permits z n <;> rfl

theorem Faults.zoneFault_flag (n : Master) :
    Flag.zoneFault.mem t.attention[n].flags =
      (Flag.zoneFault.mem s.attention[n].flags || (s.isAttached n && s.permits z n)) := by
  rw [faults.reports]
  by_cases gone : s.sessions[n].standing = .detached
  · rw [told_of_detached gone, away_of_detached gone, Bool.false_and, Bool.or_false]
  · rw [told_of_here gone, fold_flag, faultReports_zoneFault]

end Fault

/-- The entries of a zone's holder are those that leave the queue at its fault (R128). -/
theorem Faults.queue_held {s t : State} {z : ZoneId} {h : Master} (faults : Faults s t fun y => decide (y = z))
    (holder : s.zones[z].authority.holder = some h) :
    t.queue = s.queue.filter fun e => decide (¬ (e.poster = h ∧ e.zone = z)) := by
  rw [faults.2.2.1]
  refine List.filter_congr fun e _ => ?_
  by_cases he : e.zone = z
  · unfold State.holds
    rw [he, holder]
    simp [eq_comm]
  · simp [he]

theorem Faults.queue_free {s t : State} {z : ZoneId} (faults : Faults s t fun y => decide (y = z))
    (holder : s.zones[z].authority.holder = none) : t.queue = s.queue := by
  rw [faults.2.2.1, List.filter_eq_self]
  intro e _
  by_cases he : e.zone = z
  · unfold State.holds
    rw [he, holder]
    simp
  · simp [he]

/-! ### READBACK_CHECK_EXPIRY (R124, R127, R128) -/

theorem checkExpired_of_checking {s : State} {z : ZoneId} {since : TimeCount} {l : LineSet}
    (h : s.zones[z].monitor = .checking since l) :
    s.checkExpired z = decide (s.config.zones[z].checkTime.toNat * 1000 ≤ (s.timeCount - since).toNat) := by
  unfold State.checkExpired
  rw [h]
  rfl

theorem checkExpired_of_other {s : State} {z : ZoneId} (h : ∀ since l, s.zones[z].monitor ≠ .checking since l) :
    s.checkExpired z = false := by
  unfold State.checkExpired
  cases hm : s.zones[z].monitor with
  | checking since l => exact absurd hm (h since l)
  | _ => rfl

theorem checkExpired_checking {s : State} {z : ZoneId} (h : s.checkExpired z = true) :
    ∃ since l, s.zones[z].monitor = .checking since l := by
  by_contra none
  rw [checkExpired_of_other fun since l hm => none ⟨since, l, hm⟩] at h
  cases h

theorem checkExpiry_of_early {s : State} {z : ZoneId} (h : s.checkExpired z = false) : s.checkExpiry z = s := by
  unfold State.checkExpiry
  rw [h]
  rfl

theorem checkExpiry_of_expired {s : State} {z : ZoneId} (h : s.checkExpired z = true) :
    s.checkExpiry z = s.faultZone z := by
  unfold State.checkExpiry
  rw [h]
  rfl

/-- A zone under check drives a value, so it is not FAULTED (R120, R123). -/
theorem ZoneDrives.not_faulted {s : State} {z : ZoneId} (drives : ZoneDrives s z) {since : TimeCount} {l : LineSet}
    (checking : s.zones[z].monitor = .checking since l) : s.zones[z].authority ≠ .faulted := by
  obtain ⟨law, fits⟩ := drives
  rw [checking] at fits
  obtain ⟨_, v, hv, _⟩ := fits
  intro faulted
  rw [hv, faulted] at law
  cases law

/-- Settles O37: the expiry is one fault, and the fault's reports give each master's flags and records. -/
theorem checkExpiryFaultsTheZone : Obligations.CheckExpiryFaultsTheZone := by
  intro s z drives
  refine ⟨_, rfl, ?_⟩
  cases checking : s.zones[z].monitor with
  | checking since l =>
    have due := checkExpired_of_checking checking
    dsimp only
    split
    next expired =>
      rw [checkExpiry_of_expired (due.trans (decide_eq_true expired))]
      have faults := faultZone_spec s z (drives.not_faulted checking)
      generalize s.faultZone z = t at faults
      obtain ⟨authority, driven, commanded, epoch, inhibit, _, record⟩ := (faults.2.1 z).1 (decide_eq_true rfl)
      rw [checking] at record
      exact ⟨faults.othersKept, authority, driven, record, commanded, epoch, inhibit, faults.setsFollow,
        faults.2.2.2.1, fun h holder => ⟨faults.queue_held holder, fun attached => faults.holder_told holder attached⟩,
        faults.queue_free, fun p asked attached => faults.requester_told asked attached,
        fun n attached permitted => by rw [faults.zoneFault_flag, attached, permitted, Bool.true_and, Bool.or_true],
        fun n outside => by rw [faults.zoneFault_flag]; rcases outside with h | h <;> simp [h], faults, faults.1⟩
    next early => exact checkExpiry_of_early (due.trans (decide_eq_false early))
  | idle => exact checkExpiry_of_early (checkExpired_of_other (by rw [checking]; exact nofun))
  | off => exact checkExpiry_of_early (checkExpired_of_other (by rw [checking]; exact nofun))
  | matching => exact checkExpiry_of_early (checkExpired_of_other (by rw [checking]; exact nofun))
  | fault f => exact checkExpiry_of_early (checkExpired_of_other (by rw [checking]; exact nofun))

end Sys2Proof.Machine

/-! PROOFS. The due event (R96 to R99, R114 to R117, R119, R125): one entry, none, several, and the expiries that the
entries overtake. -/

namespace Sys2Proof.Machine

/-! ### One entry due -/

section One

variable {s : State} {e : Entry} (only : s.queue.filter (fun x => decide (x.due = s.timeCount)) = [e])

include only

theorem takeDueEntries_one : s.takeDueEntries = (s.removeEntries s.isDue).takeEntry e := by
  unfold State.takeDueEntries
  rw [isDue_filter, only]
  rfl

theorem one_zone (z : ZoneId) :
    s.takeDueEntries.zones[z] =
      if e.zone = z ∧ s.zones[z].inhibit = 0 then
        s.zones[z].take (s.fallback z) s.config.zones[z].checkTime s.timeCount (s.dueValue e)
      else s.zones[z] := by
  rw [takeDueEntries_one only, takeEntry_zone]
  rfl

theorem one_other {z : ZoneId} (h : z ≠ e.zone) : s.takeDueEntries.zones[z] = s.zones[z] := by
  rw [one_zone only, if_neg fun x => h x.1.symm]

theorem one_taken (clear : s.zones[e.zone].inhibit = 0) :
    s.takeDueEntries.zones[e.zone] =
      s.zones[e.zone].take (s.fallback e.zone) s.config.zones[e.zone].checkTime s.timeCount (s.dueValue e) := by
  rw [one_zone only, if_pos ⟨rfl, clear⟩]

theorem one_dropped (inhibited : s.zones[e.zone].inhibit ≠ 0) : s.takeDueEntries.zones = s.zones := by
  have same : ∀ z : ZoneId, s.takeDueEntries.zones[z] = s.zones[z] := fun z => by
    rw [one_zone only, if_neg]
    rintro ⟨rfl, clear⟩
    exact inhibited clear
  exact Vector.ext fun i hi => same ⟨i, hi⟩

omit only in
theorem one_frame :
    s.takeDueEntries = { s with zones := s.takeDueEntries.zones, queue := s.takeDueEntries.queue,
                                attention := s.takeDueEntries.attention } := (takeDueEntries_taken s).1

theorem one_attention_ne {n : Master} (h : n ≠ e.poster) : s.takeDueEntries.attention[n] = s.attention[n] := by
  have told := (takeDueEntries_taken s).2.2.1 n
  rw [only, List.filter_cons_of_neg (by simp [Ne.symm h])] at told
  exact told.trans (s.told_nil n)

theorem one_attention_poster (here : s.sessions[e.poster].standing ≠ .detached) :
    s.takeDueEntries.attention[e.poster] = (s.entryReports e).foldl Attention.after s.attention[e.poster] := by
  have told := (takeDueEntries_taken s).2.2.1 e.poster
  rw [only, List.filter_cons_of_pos (by simp), told_of_here here] at told
  simpa using told

theorem one_queue_gone (gone : s.requeued e = none) :
    s.takeDueEntries.queue = s.queue.filter fun x => decide (x.due ≠ s.timeCount) := by
  have queue := (takeDueEntries_taken s).2.1
  rwa [only, List.filterMap_cons_none gone] at queue

theorem one_queue_again {x : Entry} (again : s.requeued e = some x) :
    s.takeDueEntries.queue = insertEntry x (s.queue.filter fun x => decide (x.due ≠ s.timeCount)) := by
  have queue := (takeDueEntries_taken s).2.1
  rwa [only, List.filterMap_cons_some again] at queue

/-- With no expired timer at the entry's zone the event is the entry alone. -/
theorem one_dueEvent (calm : s.checkExpired e.zone = false) : s.dueEvent = s.takeDueEntries := by
  refine dueEvent_of_none fun z => ?_
  unfold State.overtaken
  by_cases hz : z = e.zone
  · rw [hz, calm]
    rfl
  · have context : SameContext s s.takeDueEntries := by
      rw [one_frame]
      exact .of_sessions rfl rfl rfl
    rw [checkExpired_congr context (one_other only hz)]
    cases s.checkExpired z <;> rfl

theorem exec_dueEvent_one (calm : s.checkExpired e.zone = false) : exec .dueEvent s = .next s.takeDueEntries :=
  congrArg Host.Outcome.next (one_dueEvent only calm)

/-- A zone that an entry of its holder is taken at drives the entry's value, and the monitor responds (R125). -/
theorem one_redriven (holds : s.holds e.poster e.zone = true) (clear : s.zones[e.zone].inhibit = 0) :
    Redriven s s.takeDueEntries e.zone (s.dueValue e) := by
  have holder : s.zones[e.zone].authority.holder = some e.poster := of_decide_eq_true holds
  have drives : drivenBy s.zones[e.zone].authority (s.dueValue e) (s.fallback e.zone) s.zones[e.zone].inhibit =
      some (s.dueValue e) := by
    rw [clear]
    exact drivenBy_held _ (by rw [holder]; rfl) _
  unfold Redriven
  rw [one_taken only clear]
  exact Zone.drive_some _ _ _ { s.zones[e.zone] with commanded := s.dueValue e } _ drives

end One

theorem entryReports_inhibited {s : State} {e : Entry} (h : s.zones[e.zone].inhibit ≠ 0) :
    s.entryReports e = [.actionDropped e.tag e.zone .inhibited] := if_pos h

theorem requeued_inhibited {s : State} {e : Entry} (h : s.zones[e.zone].inhibit ≠ 0) : s.requeued e = none := by
  unfold State.requeued
  split
  · rfl
  · dsimp only
    split
    · rfl
    · exact if_neg fun x => h x.1

theorem dueSingleIsAppliedOrDropped : Clauses.DueSingleIsAppliedOrDropped := by
  intro s e v notify only single here calm
  have value : s.dueValue e = v := by unfold State.dueValue; rw [single]
  have gone : s.requeued e = none := by unfold State.requeued; rw [single]
  refine ⟨_, exec_dueEvent_one only calm, one_frame, fun y hy => one_other only hy,
    one_queue_gone only gone, fun n hn => one_attention_ne only hn, ?_⟩
  rw [one_attention_poster only here]
  split
  next clear =>
    have reports : s.entryReports e = if notify then [.actionDone e.tag e.zone .applied] else [] := by
      unfold State.entryReports
      rw [if_neg (not_not.mpr clear), single]
    rw [reports, ← value]
    refine ⟨?_, ?_, ?_, ?_, ?_, fun holds => one_redriven only holds clear, ?_⟩
    all_goals try rw [one_taken only clear]
    · exact (take_fields _ _ _ _ _).1
    · exact (take_fields _ _ _ _ _).2.1
    · exact (take_fields _ _ _ _ _).2.2.1
    · exact (take_fields _ _ _ _ _).2.2.2.1
    · exact (take_fields _ _ _ _ _).2.2.2.2.2
    · cases notify <;> rfl
  next inhibited =>
    rw [entryReports_inhibited inhibited]
    exact ⟨one_dropped only inhibited, rfl⟩

theorem requeued_eq {s : State} {e : Entry} {k : StepIndex} (sequence : e.kind = .sequence k)
    (clear : s.zones[e.zone].inhibit = 0) :
    s.requeued e = s.banks[e.poster][k].link.bind fun next =>
      if e.due.toNat + s.banks[e.poster][k].delay.toNat < 2 ^ 48 then
        some { e with due := e.due + s.banks[e.poster][k].delay.setWidth 48, kind := .sequence next }
      else none := by
  unfold State.requeued
  rw [sequence]
  dsimp only
  cases s.banks[e.poster][k].link with
  | none => rfl
  | some next => exact if_congr (and_iff_right clear) rfl rfl

theorem dueStepIsAppliedAndGoesOn : Clauses.DueStepIsAppliedAndGoesOn := by
  intro s e k r only sequence hr here calm
  have value : s.dueValue e = r.value := by unfold State.dueValue; rw [sequence, hr]
  refine ⟨_, exec_dueEvent_one only calm, one_frame, fun y hy => one_other only hy,
    fun n hn => one_attention_ne only hn, ?_⟩
  rw [one_attention_poster only here]
  split
  next clear =>
    have again := requeued_eq sequence clear
    have reports : s.entryReports e =
        (if r.notify then [.actionDone e.tag e.zone .step] else []) ++ goOnReports e r := by
      unfold State.entryReports
      rw [if_neg (not_not.mpr clear), sequence, hr]
      rfl
    rw [← hr] at again
    rw [reports, List.foldl_append, ← value]
    have stepped : ∀ a : Attention, (if r.notify then [Signal.actionDone e.tag e.zone .step] else []).foldl Attention.after a =
        if r.notify then a.after (.actionDone e.tag e.zone .step) else a := fun a => by
      cases r.notify <;> rfl
    rw [stepped]
    refine ⟨?_, ?_, ?_, fun holds => one_redriven only holds clear, ?_⟩
    · rw [one_taken only clear]
      exact (take_fields _ _ _ _ _).1
    · rw [one_taken only clear]
      exact (take_fields _ _ _ _ _).2.1
    · rw [one_taken only clear]
      exact (take_fields _ _ _ _ _).2.2.1
    · dsimp only
      unfold goOnReports
      cases hl : r.link with
      | none =>
        rw [hl] at again
        exact ⟨one_queue_gone only again, rfl⟩
      | some next =>
        rw [hl] at again
        dsimp only [Option.bind] at again
        dsimp only
        split
        next fits =>
          rw [if_pos fits] at again
          exact ⟨one_queue_again only again, rfl⟩
        next past =>
          rw [if_neg past] at again
          exact ⟨one_queue_gone only again, rfl⟩
  next inhibited =>
    rw [entryReports_inhibited inhibited]
    exact ⟨one_dropped only inhibited, one_queue_gone only (requeued_inhibited inhibited), rfl⟩

/-! ### None due, and several -/

theorem takeDueEntries_of_none {s : State} (h : ∀ e ∈ s.queue, e.due ≠ s.timeCount) : s.takeDueEntries = s := by
  have none : s.queue.filter s.isDue = [] :=
    List.filter_eq_nil_iff.mpr fun e he => Bool.eq_false_iff.mp (decide_eq_false (h e he))
  have kept : s.removeEntries s.isDue = s := by
    have all : (s.queue.filter fun e => !s.isDue e) = s.queue :=
      List.filter_eq_self.mpr fun e he => by rw [State.isDue, decide_eq_false (h e he)]; rfl
    unfold State.removeEntries
    rw [all]
    rfl
  unfold State.takeDueEntries
  rw [none, kept]
  rfl

theorem noEntryDueChangesNothing : Clauses.NoEntryDueChangesNothing := by
  intro s h
  have same := takeDueEntries_of_none h
  have none : ∀ z, State.overtaken s s.takeDueEntries z = false := fun z => by
    rw [same]
    exact Bool.and_not_self _
  exact congrArg Host.Outcome.next ((dueEvent_of_none none).trans same)

theorem overtaken_expired {b s : State} {z : ZoneId} (h : State.overtaken b s z = true) : b.checkExpired z = true :=
  ((Bool.and_eq_true ..).mp h).1

/-- A zone that an overtaken expiry faults drove, and so was not FAULTED. -/
theorem overtaken_not_faulted {s : State} {z : ZoneId} (drives : ZoneDrives s z)
    (h : State.overtaken s s.takeDueEntries z = true) : s.takeDueEntries.zones[z].authority ≠ .faulted := by
  obtain ⟨since, l, checking⟩ := checkExpired_checking (overtaken_expired h)
  rw [takeDueEntries_authority]
  exact drives.not_faulted checking

theorem dueEntriesAreTakenInQueueOrder : Clauses.DueEntriesAreTakenInQueueOrder := by
  refine fun s => ⟨s.takeDueEntries, _, rfl, takeDueEntries_taken s, fun calm => dueEvent_of_none fun z => ?_,
    fun drives => dueEvent_faults s fun z h => overtaken_not_faulted (drives z) h⟩
  unfold State.overtaken
  cases expired : s.checkExpired z with
  | false => rfl
  | true =>
    rw [calm z expired]
    rfl

/-! ### At an expired check timer (R99) -/

theorem dueEvent_context (s : State) : SameContext s.takeDueEntries s.dueEvent :=
  fold_context (State.faultOvertaken s) (faultOvertaken_context s) allZones s.takeDueEntries

theorem anExpiryFollowsTheDueEvent : Clauses.AnExpiryFollowsTheDueEvent := by
  intro s z expired
  refine ⟨_, _, rfl, rfl, ?_⟩
  have fault : ∀ t : State, t.checkExpired z = true → (t.checkExpiry z).zones[z].authority = .faulted := fun t h => by
    rw [checkExpiry_of_expired h]
    exact faultZone_authority t z
  cases taken : State.overtaken s s.takeDueEntries z with
  | true =>
    have faulted : s.dueEvent.zones[z].authority = .faulted := by
      rw [dueEvent_zone, faultOvertaken_eq, if_pos taken]
      exact faultZone_authority _ z
    cases again : s.dueEvent.checkExpired z with
    | true => exact fault _ again
    | false =>
      rw [checkExpiry_of_early again]
      exact faulted
  | false =>
    have still : s.takeDueEntries.checkExpired z = true := by
      unfold State.overtaken at taken
      rw [expired] at taken
      simpa using taken
    refine fault _ ?_
    rw [checkExpired_congr (dueEvent_context s) (by rw [dueEvent_zone, faultOvertaken_eq, taken]; rfl)]
    exact still

/-- A fault carries over what stood before the entries: what it needs of them is the zone's record alone. -/
theorem TimersFollow.carry {s u t : State} (h : TimersFollow u t) (hs : u.sessions = s.sessions)
    (hh : ∀ n : Master, u.heldCount n = s.heldCount n) (ht : u.timeCount = s.timeCount) : TimersFollow s t := fun n => by
  rw [h n, hs, hh n, ht]

theorem SetsFollow.carry {s u t : State} {z : ZoneId} (h : SetsFollow u t z) (hc : u.changeSets = s.changeSets)
    (hs : u.sessions = s.sessions) : SetsFollow s t z := fun n => by
  rw [h n]
  unfold State.notedSet State.isAttached
  rw [hc, hs]

section Overtake

variable {s : State} {e : Entry} (only : s.queue.filter (fun x => decide (x.due = s.timeCount)) = [e])
  (drives : ZoneDrives s e.zone) (holds : s.holds e.poster e.zone = true) (clear : s.zones[e.zone].inhibit = 0)
  (expired : s.checkExpired e.zone = true) (moved : s.zones[e.zone].driven ≠ some (s.dueValue e))

include only drives holds clear expired moved

/-- An entry that moves the lines of a zone under check restarts or stops its timer; what is mismatched then stays in
the monitor's lines (R125). -/
theorem overtaken_monitor :
    s.takeDueEntries.zones[e.zone].driven = some (s.dueValue e) ∧
      s.takeDueEntries.zones[e.zone].monitor.lines = s.zones[e.zone].sensed ^^^ s.dueValue e ∧
      s.takeDueEntries.checkExpired e.zone = false := by
  obtain ⟨since, l, checking⟩ := checkExpired_checking expired
  obtain ⟨_, fits⟩ := drives
  rw [checking] at fits
  obtain ⟨timed, d, driven, _⟩ := fits
  obtain ⟨now, respond, _⟩ := one_redriven only holds clear
  have differs : d ≠ s.dueValue e := fun x => moved (by rw [driven, x])
  have monitor := respond d driven
  rw [checking] at monitor
  have response : (Monitor.checking since l).respond s.timeCount s.zones[e.zone].sensed d (s.dueValue e) =
      if s.zones[e.zone].sensed = s.dueValue e then .matching
      else .checking s.timeCount (s.zones[e.zone].sensed ^^^ s.dueValue e) := if_neg differs
  rw [response] at monitor
  refine ⟨now, ?_⟩
  split at monitor
  next same =>
    refine ⟨?_, checkExpired_of_other (by rw [monitor]; exact nofun)⟩
    rw [monitor, same, BitVec.xor_self]
    rfl
  next =>
    refine ⟨by rw [monitor]; rfl, (checkExpired_of_checking monitor).trans (decide_eq_false ?_)⟩
    have frame := (takeDueEntries_taken s).1
    have config : s.takeDueEntries.config = s.config := by rw [frame]
    have time : s.takeDueEntries.timeCount = s.timeCount := by rw [frame]
    have positive : s.config.zones[e.zone].checkTime.toNat ≠ 0 := fun x => timed (BitVec.eq_of_toNat_eq x)
    rw [config, time, BitVec.sub_self, BitVec.toNat_ofNat]
    omega

theorem overtaken_one : State.overtaken s s.takeDueEntries = fun z => decide (z = e.zone) := by
  funext z
  unfold State.overtaken
  by_cases hz : z = e.zone
  · obtain ⟨_, _, calm⟩ := overtaken_monitor only drives holds clear expired moved
    rw [hz, expired, calm]
    simp
  · have context : SameContext s s.takeDueEntries := by
      rw [one_frame]
      exact .of_sessions rfl rfl rfl
    rw [checkExpired_congr context (one_other only hz), Bool.and_not_self]
    exact (decide_eq_false hz).symm

theorem overtaken_faults : Faults s.takeDueEntries s.dueEvent fun z => decide (z = e.zone) := by
  have faults := dueEvent_faults s fun z hz => by
    rw [overtaken_one only drives holds clear expired moved] at hz
    obtain rfl := of_decide_eq_true hz
    obtain ⟨since, l, checking⟩ := checkExpired_checking expired
    rw [takeDueEntries_authority]
    exact drives.not_faulted checking
  rwa [overtaken_one only drives holds clear expired moved] at faults

end Overtake

/-- A fault's reports leave the record of the last action done. -/
theorem faultReports_done {s : State} {n : Master} {z : ZoneId} {e : Signal}
    (h : e ∈ s.changeReport n (fun y => decide (y = z)) ++ s.faultReports n z) (a : Attention) :
    (a.after e).done = a.done := by
  unfold State.changeReport State.faultReports State.removalReports at h
  simp only [List.mem_append] at h
  rcases h with h | (h | h) | h
  · split at h <;> simp at h
    subst h
    rfl
  · split at h
    · rcases List.mem_append.mp h with h | h
      · obtain ⟨x, _, rfl⟩ := List.mem_map.mp h
        rfl
      · obtain rfl := List.mem_singleton.mp h
        rfl
    · simp at h
  · split at h <;> simp at h
    subst h
    rfl
  · split at h <;> simp at h
    subst h
    rfl

theorem anEntryAtAnExpiredTimerIsAppliedThenFaults : Clauses.AnEntryAtAnExpiredTimerIsAppliedThenFaults := by
  intro s e v notify only single drives holds attached clear expired moved
  have value : s.dueValue e = v := by unfold State.dueValue; rw [single]
  rw [← value] at moved ⊢
  obtain ⟨driven, lines, _⟩ := overtaken_monitor only drives holds clear expired moved
  have faults := overtaken_faults only drives holds clear expired moved
  have here := attached_ne_detached attached
  have holder : s.zones[e.zone].authority.holder = some e.poster := of_decide_eq_true holds
  have frame := (takeDueEntries_taken s).1
  have sessions : s.takeDueEntries.sessions = s.sessions := by rw [frame]
  have authority : ∀ z : ZoneId, s.takeDueEntries.zones[z].authority = s.zones[z].authority :=
    takeDueEntries_authority s
  have attached' : s.takeDueEntries.isAttached e.poster = true := by
    unfold State.isAttached at attached ⊢
    rwa [sessions]
  have holder' : s.takeDueEntries.zones[e.zone].authority.holder = some e.poster := by rw [authority, holder]
  obtain ⟨faulted, undriven, commanded, epoch, _, _, record⟩ := (faults.2.1 e.zone).1 (decide_eq_true rfl)
  refine ⟨_, rfl, fun y hy => ?_, faulted, ?_, undriven, ?_, ?_, ?_, ?_, ?_, ?_, fun told => ?_⟩
  · rw [faults.othersKept y hy, one_other only hy]
  · unfold EpochFollows at epoch
    rw [faulted, holder', if_neg (by exact nofun)] at epoch
    rw [epoch, one_taken only clear]
    exact congrArg (· + 1) (take_fields _ _ _ _ _).2.2.1
  · rw [commanded]
    unfold State.fallback
    rw [frame]
  · rw [record _ driven, lines]
  · rw [faults.queue_held holder', one_queue_gone only (by unfold State.requeued; rw [single]), List.filter_filter]
    refine List.filter_congr fun x _ => ?_
    rw [← Bool.decide_and]
    exact decide_eq_decide.mpr and_comm
  · exact faults.setsFollow.carry (by rw [frame]) sessions
  · exact faults.2.2.2.1.carry sessions (heldCount_of_holders fun z => by rw [authority]) (by rw [frame])
  · exact (faults.holder_told holder' attached').2
  · have reports : s.entryReports e = [.actionDone e.tag e.zone .applied] := by
      unfold State.entryReports
      rw [if_neg (not_not.mpr clear), single, told]
      rfl
    rw [faults.reports, told_of_here (attached_ne_detached attached'),
      fold_keeps Attention.done (fun x hx a => faultReports_done hx a), one_attention_poster only here, reports]
    rfl

/-- Settles O55: entries are taken in queue order, and the faults they overtook follow. -/
theorem dueEventTakesTheDueEntry : Obligations.DueEventTakesTheDueEntry :=
  ⟨dueSingleIsAppliedOrDropped, dueStepIsAppliedAndGoesOn, noEntryDueChangesNothing, dueEntriesAreTakenInQueueOrder,
    anExpiryFollowsTheDueEvent, anEntryAtAnExpiredTimerIsAppliedThenFaults⟩

end Sys2Proof.Machine


/-! PROOFS. The step, the reset state and the code tables: what holds by evaluation of the model. -/

namespace Sys2Proof.Machine

/-! ### The step -/

/-- Settles O1: the step is defined by these two cases. -/
theorem stepTakesTheFrontCommand : Obligations.StepTakesTheFrontCommand := by
  refine ⟨fun c s rest => ?_, fun s => ?_⟩
  · rfl
  · rfl

/-- A request is served, refused at the gate, or does not wait: in each case there is a next state. -/
theorem serve_next (c : Command) (m : Master) (o : List Byte) (body : State → Answer) (s : State) :
    ∃ t, serve c m o body s = .next t := by
  unfold serve
  split
  · split
    · exact ⟨_, rfl⟩
    · exact ⟨_, rfl⟩
  · exact ⟨_, rfl⟩

theorem exec_next (c : Instr) (s : State) : ∃ t, exec c s = .next t := by
  cases c
  case transactionBegin | transactionEnd | storeWriteEnd | powerOn | resetPin | startUpDecision | supervisionExpiry |
      windowOpen | handoverTimeout | settleExpiry | sensedValueChange | readbackCheckExpiry | dueEvent |
      firstRecognition | recognisedChange | rawLevelChange | timeCountAdvance => exact ⟨_, rfl⟩
  all_goals exact serve_next _ _ _ _ s

/-- Settles O2: an idle step answers the state, any other what `exec` answers. -/
theorem everyStepAnswersANextState : Obligations.EveryStepAnswersANextState := by
  intro s
  unfold step
  split
  · exact ⟨s, rfl⟩
  · exact exec_next _ _

/-! ### The reset state -/

theorem reset_zone (z : ZoneId) : State.reset.zones[z] = .afterReset 0 := by revert z; decide

theorem reset_session (m : Master) : State.reset.sessions[m] = .afterReset := by revert m; decide

theorem reset_attention (m : Master) : State.reset.attention[m] = .afterReset := by revert m; decide

theorem reset_input (i : InputId) : State.reset.inputs[i] = .afterReset .low := by revert i; decide

theorem reset_bank (m : Master) (k : StepIndex) : State.reset.banks[m][k] = .afterReset := by revert m k; decide

theorem reset_port (m : Master) : State.reset.ports[m] = .afterReset false := by revert m; decide

theorem reset_changeSet (m : Master) : State.reset.changeSets[m] = 0 := by revert m; decide

theorem reset_heldCount (m : Master) : State.reset.heldCount m = 0 :=
  heldCount_zero_iff.mpr fun z => by revert m z; decide

theorem reset_store_blank : State.reset.store.read = .blank := by decide

/-- Settles O3: the fields of the reset state, one master, zone and input at a time. -/
theorem resetStateHoldsTheStatedValues : Obligations.ResetStateHoldsTheStatedValues := by
  refine ⟨rfl, rfl, rfl, rfl, reset_bank, reset_zone, fun m => ?_, fun i => ?_, rfl, rfl, rfl, rfl, rfl,
    reset_store_blank, rfl, rfl⟩
  · refine ⟨reset_session m, reset_attention m, reset_changeSet m, reset_heldCount m, ?_, ?_, ?_⟩
    · revert m; decide
    · rw [reset_port]; rfl
    · rw [reset_port]; rfl
  · rw [reset_input]; rfl

/-- The law of the turn holds after a reset: no port waits and none is chosen. -/
theorem lawOfTurn_of_idle {s : State} (none_chosen : s.chosen = none) (idle : ∀ q : Master, s.waitsAtTable q = false) :
    LawOfTurn s :=
  ⟨⟨fun _ => idle, fun _ => none_chosen⟩, fun q h => by rw [none_chosen] at h; cases h⟩

theorem default_inRange : WorkingConfig.default.InRange := by decide

/-- A reset from the reset state gives the reset state, so that the laws of every reset are laws of this one. -/
theorem reset_restart : State.reset.restart .powerOn .low = State.reset := by
  simp [State.restart, State.reset, Zone.afterReset, Input.afterReset, Port.afterReset]

/-- No record is held and no master is ATTACHED. -/
theorem lawOfRing_reset : LawOfRing State.reset := by
  refine ⟨Nat.zero_le _, trivial, fun m c attached => ?_, fun r held => ?_⟩
  · rw [reset_session] at attached
    cases attached
  · cases held

/-- Settles O5: the laws of a reset, and the turn and the configuration of the reset state. -/
theorem resetMeetsTheInvariants : Obligations.ResetMeetsTheInvariants := by
  have driving := lawOfDriving_restart State.reset .powerOn .low
  have holder := lawOfHolder_restart State.reset .powerOn .low
  have queue := lawOfQueue_restart State.reset .powerOn .low
  have supervision := lawOfSupervision_restart State.reset .powerOn .low
  have inhibit := lawOfInhibit_restart State.reset .powerOn .low
  rw [reset_restart] at driving holder queue supervision inhibit
  exact ⟨driving, holder, queue, lawOfRing_reset, supervision, inhibit, lawOfTurn_of_idle rfl (by decide), default_inRange⟩

/-! ### Resets -/

@[simp] theorem restart_zone (s : State) (cause : ResetCause) (cfg : Level) (z : ZoneId) :
    (s.restart cause cfg).zones[z] = .afterReset s.zones[z].sensed := by
  simp [State.restart]

@[simp] theorem restart_input (s : State) (cause : ResetCause) (cfg : Level) (i : InputId) :
    (s.restart cause cfg).inputs[i] = .afterReset s.inputs[i].raw := by
  simp [State.restart]

@[simp] theorem restart_port (s : State) (cause : ResetCause) (cfg : Level) (m : Master) :
    (s.restart cause cfg).ports[m] = .afterReset s.ports[m].cs := by
  simp [State.restart]

/-- What a reset of any cause leaves, whatever the state it comes in. -/
theorem restart_afterReset (s : State) (cause : ResetCause) (cfg : Level) :
    AfterReset s (s.restart cause cfg) cause cfg s.store :=
  ⟨rfl, rfl, rfl, rfl, rfl, rfl, rfl, rfl, rfl, rfl, rfl, rfl, rfl, rfl, reset_bank, restart_zone s cause cfg,
    restart_input s cause cfg, fun m =>
      ⟨reset_session m, reset_attention m, reset_changeSet m, restart_port s cause cfg m⟩⟩

theorem pinCause_of_starting {s : State} (h : s.device = .starting) : s.pinCause = s.resetCause := by
  simp only [State.pinCause, h]

theorem pinCause_of_ne {s : State} (h : s.device ≠ .starting) : s.pinCause = .resetPin := by
  unfold State.pinCause
  split
  case h_1 starting => exact absurd starting h
  case h_2 => rfl

/-- Settles O4: both resets are `restart`, with the cause that R175 gives. -/
theorem resetsGiveTheResetValues : Obligations.ResetsGiveTheResetValues := by
  intro s cfg
  refine ⟨⟨_, rfl, restart_afterReset s .powerOn cfg⟩, fun running => ⟨_, rfl, ?_⟩, fun starting => ⟨_, rfl, ?_⟩⟩
  · rw [pinCause_of_ne running]
    exact restart_afterReset s .resetPin cfg
  · rw [pinCause_of_starting starting]
    exact restart_afterReset s s.resetCause cfg

/-! ### Frames and codes -/

theorem knownFrames : Clauses.KnownFrames := by
  refine ⟨?_, ?_⟩
  · decide +kernel
  · decide +kernel

theorem modeOf_iff (b : Byte) (mode : Mode) : modeOf b = some mode ↔ b = mode.code := by
  constructor
  · intro h
    unfold modeOf at h
    split_ifs at h with h1 h2 h3 h4
    all_goals cases h; assumption
  · rintro rfl
    cases mode <;> rfl

theorem periodOf_iff (b : Byte) (period : Period) : periodOf b = some period ↔ b = period.code := by
  constructor
  · intro h
    unfold periodOf at h
    split_ifs at h with h1 h2 h3 h4 h5 h6 h7 h8
    all_goals cases h; assumption
  · rintro rfl
    cases period <;> rfl

/-- The mode codes differ pairwise in at least two bit positions. -/
theorem modeCodes_apart : ∀ a b : Mode, a ≠ b →
    2 ≤ (List.range 8).countP (fun k => a.code.getLsbD k != b.code.getLsbD k) := by
  intro a b
  cases a <;> cases b <;> decide

/-- The period codes differ pairwise in at least two bit positions. -/
theorem periodCodes_apart : ∀ a b : Period, a ≠ b →
    2 ≤ (List.range 8).countP (fun k => a.code.getLsbD k != b.code.getLsbD k) := by
  intro a b
  cases a <;> cases b <;> decide

theorem codeTables : Clauses.CodeTables :=
  ⟨by decide, by decide, modeOf_iff, periodOf_iff, modeCodes_apart, periodCodes_apart⟩

/-- Settles O44: the frames and the code tables are evaluated. -/
theorem knownFramesAndCodes : Obligations.KnownFramesAndCodes := ⟨knownFrames, codeTables⟩

end Sys2Proof.Machine


/-! PROOFS. The ports: the frame checks (R163), the beginning and the end of a transaction (R161, R165), the round robin
and the law of the turn (R167). -/

namespace Sys2Proof.Machine

/-- Settles O14: the frame checks find in an encoded request the command and the operands it was made of. -/
theorem everyRequestFrameIsRead : Obligations.EveryRequestFrameIsRead :=
  fun c _ fill h => checkFrame_encodeRequest_append c fill h

/-! ### The beginning of a transaction -/

theorem transactionBegin_of_asserted {s : State} {p : Master} (h : s.ports[p].cs = true) : s.transactionBegin p = s := by
  simp only [State.transactionBegin, h, if_true]

theorem transactionBegin_of_released {s : State} {p : Master} (h : s.ports[p].cs = false) :
    s.transactionBegin p = s.withPort p s.ports[p].begin := by
  simp only [State.transactionBegin, h, Bool.false_eq_true, if_false]

@[simp] theorem Port.begin_cs (p : Port) : p.begin.cs = true := by
  unfold Port.begin; split <;> rfl

@[simp] theorem Port.begin_buffer (p : Port) : p.begin.buffer = p.buffer := by
  unfold Port.begin; split <;> rfl

@[simp] theorem Port.begin_sdo (p : Port) : p.begin.sdo = p.sdo := by
  unfold Port.begin; split <;> rfl

/-- No request comes or goes at the beginning of a transaction. -/
@[simp] theorem Port.begin_request (p : Port) : p.begin.request = p.request := by
  cases h : p.phase <;> simp only [Port.begin, Port.request, h]

/-- Settles O15: what chip select asserted makes of the port, by its phase. -/
theorem transactionBegins : Obligations.TransactionBegins := by
  refine ⟨fun s p released => ⟨_, rfl, ?_⟩, fun s p asserted => ?_⟩
  · rw [transactionBegin_of_released released]
    refine ⟨rfl, fun q hq => at_set_ne _ hq.symm _, ?_⟩
    simp only [State.withPort_ports, at_set_self, Port.begin_cs, Port.begin_buffer, Port.begin_sdo, true_and]
    refine ⟨fun idle => ?_, fun r waiting => ?_, fun shifting => ?_⟩
    · simp only [Port.begin, idle, and_self]
    · simp only [Port.begin, waiting, and_self]
    · simp only [Port.begin, shifting, and_self]
  · exact congrArg Host.Outcome.next (transactionBegin_of_asserted asserted)

/-! ### The round robin -/

/-- The order of the turn counts upward from the port after the one served last. -/
theorem turn_order (last : Master) :
    [last + 1, last + 2, last + 3, last] = [0, 1, 2, 3].map fun k : Master => last + 1 + k := by
  revert last; decide

/-- The first of four in their order is the least. -/
theorem find_first_iff (v : Master → Bool) (k : Master) :
    [0, 1, 2, 3].find? v = some k ↔ v k = true ∧ ∀ j, v j = true → k ≤ j := by
  have all : ∀ P : Master → Prop, (∀ j, P j) ↔ P 0 ∧ P 1 ∧ P 2 ∧ P 3 := fun P => by
    simp [Fin.forall_fin_succ]
  rw [all]
  rcases h0 : v 0 with _ | _ <;> rcases h1 : v 1 with _ | _ <;> rcases h2 : v 2 with _ | _ <;>
    rcases h3 : v 3 with _ | _ <;> revert h0 h1 h2 h3 <;> fin_cases k <;> simp +contextual [List.find?]

theorem nextInTurn_some_iff (s : State) (last q : Master) :
    s.nextInTurn last = some q ↔
      s.waitsAtTable q = true ∧ ∀ p : Master, s.waitsAtTable p = true → q - last - 1 ≤ p - last - 1 := by
  have place : ∀ last p : Master, last + 1 + (p - last - 1) = p := by decide
  have unique : ∀ last q k : Master, last + 1 + k = q ↔ k = q - last - 1 := by decide
  have back : ∀ last k : Master, last + 1 + k - last - 1 = k := by decide
  rw [State.nextInTurn, turn_order, List.find?_map, Option.map_eq_some_iff]
  simp only [unique, exists_eq_right, find_first_iff, Function.comp_apply, place]
  refine and_congr_right fun _ => ⟨fun first p waits => first _ (by rwa [place]), fun first k waits => ?_⟩
  exact back last k ▸ first _ waits

theorem nextInTurn_none_iff (s : State) (last : Master) :
    s.nextInTurn last = none ↔ ∀ p : Master, s.waitsAtTable p = false := by
  have everywhere : ∀ p : Master, p ∈ [last + 1, last + 2, last + 3, last] := by revert last; decide
  rw [State.nextInTurn, List.find?_eq_none]
  exact ⟨fun h p => by simpa using h p (everywhere p), fun h p _ => by simp [h p]⟩

/-- Settles O16: the search goes through the four ports upward from the one after the last. -/
theorem roundRobinTakesTheFirstPortAfter : Obligations.RoundRobinTakesTheFirstPortAfter :=
  fun s last q => ⟨nextInTurn_some_iff s last q, nextInTurn_none_iff s last⟩

end Sys2Proof.Machine


/-! PROOFS. The end of a transaction (R161, R163, R165) and the law of the turn (R167). -/

namespace Sys2Proof.Machine

/-! ### The frame checks (R163) -/

/-- A frame of two bytes at least, with its third check or its fourth failed. -/
theorem checkFrame_of_body {len id : Byte} {rest : List Byte}
    (bad : 24 < len.toNat ∨ (len :: id :: rest).length < len.toNat + 3 ∨
      (len :: id :: rest)[len.toNat + 2]? ≠ some (crc8 ((len :: id :: rest).take (len.toNat + 2)))) :
    checkFrame (len :: id :: rest) 0 = .frameError := by
  simp only [checkFrame, ne_eq, not_true_eq_false, if_false]
  split_ifs with empty outside wrong
  · rfl
  · rfl
  · rw [List.head?_drop] at wrong
    rw [← or_assoc] at bad
    exact absurd (by simpa using wrong) (bad.resolve_left outside)
  · rfl

/-- A frame that fails one of the first four checks of R163. -/
theorem checkFrame_of_fault {received : List Byte} {strayBits : Nat}
    (bad : strayBits ≠ 0 ∨ received.length < 3 ∨
      ∃ len, received[0]? = some len ∧ (24 < len.toNat ∨ received.length < len.toNat + 3 ∨
        received[len.toNat + 2]? ≠ some (crc8 (received.take (len.toNat + 2))))) :
    checkFrame received strayBits = .frameError := by
  by_cases stray : strayBits = 0
  · subst stray
    replace bad := bad.resolve_left (by simp)
    match received with
    | [] => rfl
    | [_] => rfl
    | [_, _] => rfl
    | len :: id :: b :: rest =>
      obtain ⟨l, first, bad⟩ := bad.resolve_left (by simp)
      obtain rfl : len = l := Option.some.inj first
      exact checkFrame_of_body bad
  · simp only [checkFrame, ne_eq, stray, not_false_eq_true, if_true]

/-- A frame of the right length and check byte is its length, its identifier, its operands, the check byte and fill. -/
theorem frame_split {received : List Byte} {len id : Byte} (first : received[0]? = some len)
    (second : received[1]? = some id)
    (check : received[len.toNat + 2]? = some (crc8 (received.take (len.toNat + 2)))) :
    ∃ operands fill, operands = (received.drop 2).take len.toNat ∧ operands.length = len.toNat ∧
      received = len :: id :: (operands ++ crc8 (len :: id :: operands) :: fill) := by
  match received with
  | [] => cases first
  | [_] => cases second
  | l :: i :: rest =>
    obtain rfl : l = len := Option.some.inj first
    obtain rfl : i = id := Option.some.inj second
    have at_check : rest[l.toNat]? = some (crc8 (l :: i :: rest.take l.toNat)) := by simpa using check
    obtain ⟨inside, value⟩ := List.getElem?_eq_some_iff.mp at_check
    refine ⟨rest.take l.toNat, rest.drop (l.toNat + 1), rfl, List.length_take_of_le inside.le, ?_⟩
    rw [← value, List.getElem_cons_drop, List.take_append_drop]

/-- A frame that passes the first four checks with an identifier that no command has. -/
theorem checkFrame_of_unknown {len id : Byte} {operands : List Byte} (fill : List Byte)
    (hlen : operands.length = len.toNat) (short : len.toNat ≤ 24) (hid : commandOfId id = none) :
    checkFrame (len :: id :: (operands ++ crc8 (len :: id :: operands) :: fill)) 0 = .unknownCommand id := by
  have nonempty : operands ++ crc8 (len :: id :: operands) :: fill ≠ [] := by simp
  have fits : ¬ (24 < operands.length ∨
      (len :: id :: (operands ++ crc8 (len :: id :: operands) :: fill)).length < operands.length + 3) := by
    simp only [List.length_cons, List.length_append]
    omega
  simp only [checkFrame, ← hlen, nonempty, fits, List.take_left, List.drop_left, List.head?_cons, hid, ne_eq,
    not_true_eq_false, if_false]

/-! ### Requests that wait -/

theorem waitsAtTable_of_request {s : State} {p : Master} {r : Request} (h : s.ports[p].request = some r) :
    s.waitsAtTable p = r.command.atTable := by
  simp only [State.waitsAtTable, h]

theorem waitsAtTable_of_none {s : State} {p : Master} (h : s.ports[p].request = none) : s.waitsAtTable p = false := by
  simp only [State.waitsAtTable, h]

theorem waitsAtTable_congr {s t : State} {p : Master} (h : t.ports[p].request = s.ports[p].request) :
    t.waitsAtTable p = s.waitsAtTable p := by
  simp only [State.waitsAtTable, h]

theorem nextInTurn_congr {s t : State} (h : t.ports = s.ports) (last : Master) : t.nextInTurn last = s.nextInTurn last := by
  have same : t.waitsAtTable = s.waitsAtTable := funext fun p => waitsAtTable_congr (by rw [h])
  rw [State.nextInTurn, same, State.nextInTurn]

theorem request_of_waiting {p : Port} {r : Request} (h : p.phase = .waiting r) : p.request = some r := by
  simp only [Port.request, h]

theorem request_of_shifting {p : Port} (h : p.phase = .shifting) : p.request = none := by
  simp only [Port.request, h]

theorem request_of_idle {p : Port} (h : p.phase = .idle) : p.request = none := by
  simp only [Port.request, h]

/-! ### The end of a transaction -/

theorem transactionEnd_of_released {s : State} {p : Master} (received : List Byte) (strayBits : Nat)
    (h : s.ports[p].cs = false) : s.transactionEnd p received strayBits = s := by
  simp only [State.transactionEnd, h, Bool.false_eq_true, if_false]

/-- The end of a transaction begun from IDLE: the port has checked the frame, and what waits then has arrived. -/
theorem transactionEnd_of_checked {s : State} {p : Master} (received : List Byte) (strayBits : Nat)
    (h : s.ports[p].cs = true) (shifting : s.ports[p].phase = .shifting) :
    s.transactionEnd p received strayBits =
      (s.withPort p ((s.ports[p].release received).receive s.timeCount (checkFrame received strayBits))).arrive p := by
  simp only [State.transactionEnd, h, if_true, Port.finish, shifting]

/-- The end of any other transaction: the frame is discarded. -/
theorem transactionEnd_of_discarded {s : State} {p : Master} (received : List Byte) (strayBits : Nat)
    (h : s.ports[p].cs = true) (other : s.ports[p].phase ≠ .shifting) :
    s.transactionEnd p received strayBits = s.withPort p (s.ports[p].release received) := by
  cases phase : s.ports[p].phase with
  | shifting => exact absurd phase other
  | idle => simp only [State.transactionEnd, h, if_true, Port.finish, phase]
  | waiting r => simp only [State.transactionEnd, h, if_true, Port.finish, phase]

theorem arrive_of_away {s : State} {p : Master} (h : s.waitsAtTable p = false) : s.arrive p = s := by
  simp only [State.arrive, h, Bool.false_eq_true, if_false]

theorem arrive_of_waiting {s : State} {p : Master} (h : s.waitsAtTable p = true) :
    s.arrive p = s.withService s.lastServed (s.chosenAfterArrival p) := by
  simp only [State.arrive, h, if_true]

theorem chosenAfterArrival_of_none {s : State} {p : Master} (h : s.chosen = none) :
    s.chosenAfterArrival p = some p := by
  simp only [State.chosenAfterArrival, h]

theorem chosenAfterArrival_of_some {s : State} {p q : Master} {r : Request} (h : s.chosen = some q)
    (hr : s.ports[q].request = some r) :
    s.chosenAfterArrival p = if r.releasedAt = s.timeCount then s.nextInTurn s.lastServed else some q := by
  simp only [State.chosenAfterArrival, h, hr]

theorem arrive_frame (s : State) (p : Master) : s.arrive p = { s with chosen := (s.arrive p).chosen } := by
  unfold State.arrive
  split <;> rfl

@[simp] theorem Port.receive_cs (now : TimeCount) (p : Port) (f : FrameCheck) : (p.receive now f).cs = p.cs := by
  cases f <;> rfl

@[simp] theorem Port.receive_out (now : TimeCount) (p : Port) (f : FrameCheck) : (p.receive now f).out = p.out := by
  cases f <;> rfl

@[simp] theorem Port.receive_sdo (now : TimeCount) (p : Port) (f : FrameCheck) : (p.receive now f).sdo = p.sdo := by
  cases f <;> rfl

/-- The request that a frame leaves waiting, if it is one. -/
theorem receive_request (now : TimeCount) (p : Port) (c : Command) (o : List Byte) :
    (p.receive now (.request c o)).request = some ⟨c, o, now⟩ := rfl

theorem frameChecksAtTheRelease : Clauses.FrameChecksAtTheRelease := by
  intro s p received strayBits asserted shifting
  refine ⟨_, rfl, ?_⟩
  rw [transactionEnd_of_checked received strayBits asserted shifting]
  set checked := (s.ports[p].release received).receive s.timeCount (checkFrame received strayBits) with hchecked
  set u := s.withPort p checked with hu
  have port : u.ports[p] = checked := by simp only [hu, State.withPort_ports, at_set_self]
  have others : ∀ q : Master, q ≠ p → u.ports[q] = s.ports[q] := fun q hq => by
    simp only [hu, State.withPort_ports, at_set_ne _ hq.symm]
  refine ⟨?_, ?_, ?_, ?_, ?_⟩
  · rw [State.arrive_ports]; exact arrive_frame u p
  · rw [State.arrive_ports]; exact others
  · rw [State.arrive_ports, port, hchecked, Port.receive_cs, Port.release]
  · intro bad
    rw [checkFrame_of_fault bad] at hchecked
    have away : u.waitsAtTable p = false := waitsAtTable_of_none (by rw [port, hchecked]; rfl)
    rw [arrive_of_away away, port, hchecked]
    exact ⟨rfl, rfl, rfl⟩
  · rintro len id rfl first second short check
    obtain ⟨operands, fill, taken, hlen, whole⟩ := frame_split first second check
    refine ⟨fun unknown => ?_, fun c known => ?_⟩
    · rw [whole, checkFrame_of_unknown fill hlen short unknown] at hchecked
      have away : u.waitsAtTable p = false := waitsAtTable_of_none (by rw [port, hchecked]; rfl)
      rw [arrive_of_away away, port, hchecked]
      exact ⟨rfl, rfl, rfl⟩
    · have command : checkFrame received 0 = .request c operands := by
        rw [whole]
        exact checkFrame_of_command fill hlen.symm (hlen ▸ short) known
      rw [command] at hchecked
      have request : u.ports[p].request = some ⟨c, operands, s.timeCount⟩ := by rw [port, hchecked]; rfl
      have waits := waitsAtTable_of_request request
      refine ⟨?_, ?_, fun off => ?_, fun table => ⟨fun free => ?_, fun q r chosen waiting => ?_⟩⟩
      · rw [State.arrive_ports, port, hchecked, ← taken]; rfl
      · rw [State.arrive_ports, port, hchecked]; rfl
      · rw [arrive_of_away (waits.trans off)]; rfl
      · rw [arrive_of_waiting (waits.trans table)]
        exact chosenAfterArrival_of_none free
      · have hq : q ≠ p := fun h => by rw [h, shifting] at waiting; cases waiting
        rw [nextInTurn_congr (State.arrive_ports u p), arrive_of_waiting (waits.trans table)]
        exact chosenAfterArrival_of_some chosen (by rw [others q hq]; exact request_of_waiting waiting)

theorem otherFramesAreDiscarded : Clauses.OtherFramesAreDiscarded := by
  intro s p received strayBits asserted other
  refine ⟨_, rfl, ?_⟩
  rw [transactionEnd_of_discarded received strayBits asserted other]
  refine ⟨rfl, fun q hq => at_set_ne _ hq.symm _, ?_⟩
  simp only [State.withPort_ports, at_set_self, Port.release, true_and]
  intro fill
  simp only [fill, shiftedOut, List.nil_append, List.take_replicate, Nat.min_self]

theorem transactionsShiftOutTheResponse : Clauses.TransactionsShiftOutTheResponse := by
  intro s p received bytes strayBits asserted going
  refine ⟨_, rfl, ?_⟩
  have released : (s.ports[p].release received).sdo =
      (bytes ++ List.replicate received.length 0xFF).take received.length ∧ (s.ports[p].release received).out = none := by
    simp only [Port.release, going, shiftedOut, and_self]
  by_cases shifting : s.ports[p].phase = .shifting
  · rw [State.transactionEnd_of_shifting received strayBits asserted shifting, Port.receive_sdo, Port.receive_out]
    exact released
  · rw [transactionEnd_of_discarded received strayBits asserted shifting, State.withPort_ports, at_set_self]
    exact released

theorem noTransactionEndsWhereNoneRuns : Clauses.NoTransactionEndsWhereNoneRuns :=
  fun _ _ received strayBits released =>
    congrArg Host.Outcome.next (transactionEnd_of_released received strayBits released)

/-! ### The law of the turn (R167) -/

theorem LawOfTurn.congr {s t : State} (h : LawOfTurn s) (hc : t.chosen = s.chosen)
    (hp : ∀ q : Master, t.waitsAtTable q = s.waitsAtTable q) : LawOfTurn t := by
  simpa only [LawOfTurn, hc, hp] using h

theorem LawOfTurn.kept {s t : State} (h : LawOfTurn s) (hc : t.chosen = s.chosen) (hp : t.ports = s.ports) :
    LawOfTurn t :=
  h.congr hc fun _ => waitsAtTable_congr (by rw [hp])

/-- With the next in turn chosen, one is chosen exactly while one waits. -/
theorem lawOfTurn_of_next {t : State} {last : Master} (h : t.chosen = t.nextInTurn last) : LawOfTurn t := by
  refine ⟨?_, fun q chosen => ?_⟩
  · rw [h]; exact nextInTurn_none_iff t last
  · rw [h] at chosen; exact ((nextInTurn_some_iff t last q).mp chosen).1

/-- With a port chosen at which a request waits, the law holds. -/
theorem lawOfTurn_of_some {t : State} {q : Master} (h : t.chosen = some q) (waits : t.waitsAtTable q = true) :
    LawOfTurn t := by
  refine ⟨⟨fun free => ?_, fun idle => ?_⟩, fun r chosen => ?_⟩
  · rw [h] at free; cases free
  · rw [idle q] at waits; cases waits
  · rw [h] at chosen
    exact Option.some.inj chosen ▸ waits

theorem LawOfTurn.transactionBegin {s : State} (h : LawOfTurn s) (p : Master) : LawOfTurn (s.transactionBegin p) := by
  by_cases asserted : s.ports[p].cs = true
  · rwa [transactionBegin_of_asserted asserted]
  · rw [transactionBegin_of_released (by simpa using asserted)]
    refine h.congr rfl fun q => waitsAtTable_congr ?_
    rw [State.withPort_ports, at_set]
    split
    next same => rw [Port.begin_request, same]
    next => rfl

/-- A request arrives at a port where none waited. -/
theorem LawOfTurn.arrive {s u : State} {p : Master} (h : LawOfTurn s) (hc : u.chosen = s.chosen)
    (empty : s.waitsAtTable p = false) (others : ∀ q : Master, q ≠ p → u.ports[q] = s.ports[q]) :
    LawOfTurn (u.arrive p) := by
  have same : ∀ q : Master, q ≠ p → u.waitsAtTable q = s.waitsAtTable q := fun q hq =>
    waitsAtTable_congr (by rw [others q hq])
  cases waits : u.waitsAtTable p with
  | false =>
    rw [arrive_of_away waits]
    refine h.congr hc fun q => ?_
    by_cases hq : q = p
    · rw [hq, waits, empty]
    · exact same q hq
  | true =>
    have ports : ∀ q : Master, (u.arrive p).waitsAtTable q = u.waitsAtTable q := fun q =>
      waitsAtTable_congr (by rw [State.arrive_ports])
    rw [arrive_of_waiting waits] at ports ⊢
    cases chosen : s.chosen with
    | none => exact lawOfTurn_of_some (chosenAfterArrival_of_none (hc.trans chosen)) ((ports p).trans waits)
    | some q =>
      have waiting := h.2 q chosen
      have hq : q ≠ p := fun same => by rw [same, empty] at waiting; cases waiting
      rw [← same q hq] at waiting
      cases request : u.ports[q].request with
      | none => rw [waitsAtTable_of_none request] at waiting; cases waiting
      | some r =>
        have after := chosenAfterArrival_of_some (p := p) (hc.trans chosen) request
        by_cases together : r.releasedAt = u.timeCount
        · rw [if_pos together] at after
          exact lawOfTurn_of_next (after.trans (nextInTurn_congr rfl _).symm)
        · rw [if_neg together] at after
          exact lawOfTurn_of_some after ((ports q).trans waiting)

theorem LawOfTurn.transactionEnd {s : State} (h : LawOfTurn s) (p : Master) (received : List Byte) (strayBits : Nat) :
    LawOfTurn (s.transactionEnd p received strayBits) := by
  by_cases asserted : s.ports[p].cs = true
  · by_cases shifting : s.ports[p].phase = .shifting
    · rw [transactionEnd_of_checked received strayBits asserted shifting]
      exact h.arrive rfl (waitsAtTable_of_none (request_of_shifting shifting)) fun q hq => at_set_ne _ hq.symm _
    · rw [transactionEnd_of_discarded received strayBits asserted shifting]
      refine h.congr rfl fun q => waitsAtTable_congr ?_
      rw [State.withPort_ports, at_set]
      split
      next same => rw [← same]; rfl
      next => rfl
  · rwa [transactionEnd_of_released received strayBits (by simpa using asserted)]

/-- A request that waited is served: the next in turn is chosen if it was one for the authority table, and if it was
not the table's requests wait as they did. -/
theorem LawOfTurn.finish {s : State} (h : LawOfTurn s) {c : Command} {m : Master} {o : List Byte}
    (ready : s.ready m c o = true) (a : Answer) (hp : a.state.ports = s.ports) (hc : a.state.chosen = s.chosen) :
    LawOfTurn (State.finish c m a) := by
  rw [State.finish_eq]
  cases table : c.atTable with
  | true =>
    refine lawOfTurn_of_next (last := m) ?_
    simp only [if_true]
    exact nextInTurn_congr rfl m
  | false =>
    refine h.congr (by simpa using hc) fun q => ?_
    by_cases hq : m = q
    · subst hq
      have after : (a.state.ports.set m { a.state.ports[m] with phase := .idle, buffer := ⟨a.status, c.id, a.payload⟩ })[m].request
          = none := by rw [at_set_self]; rfl
      have before : s.waitsAtTable m = false := by
        cases request : s.ports[m].request with
        | none => exact waitsAtTable_of_none request
        | some r =>
          simp only [State.ready, request, Bool.and_eq_true, decide_eq_true_eq] at ready
          rw [waitsAtTable_of_request request, ready.1.1, table]
      rw [before]
      exact waitsAtTable_of_none after
    · refine waitsAtTable_congr ?_
      simp only [at_set_ne _ hq, hp]

/-! ### The law at every step -/

theorem Follows.ports {u t : State} (h : Follows u t) : t.ports = u.ports := by rw [h.frame]

theorem Follows.chosen {u t : State} (h : Follows u t) : t.chosen = u.chosen := by rw [h.frame]

/-- No effect touches the ports or the port chosen: they change as the ports' own events and the
end of a service say. -/
theorem Effect.turn {s t : State} (h : Effect s t) :
    t.ports = s.ports ∧ t.chosen = s.chosen := by
  cases h with
  | follow _ f => exact ⟨f.ports, f.chosen⟩
  | move _ _ _ _ _ f _ => rw [f.ports, f.chosen, State.setAuthority_ports, State.setAuthority_chosen]; exact ⟨rfl, rfl⟩
  | acknowledge m named _ => rw [acknowledge_frame]; exact ⟨rfl, rfl⟩
  | readCaptures m c n _ => rw [readCaptures_frame]; exact ⟨rfl, rfl⟩
  | detach m _ => rw [detach_frame]; exact ⟨rfl, rfl⟩
  | park m _ _ => rw [park_frame]; exact ⟨rfl, rfl⟩
  | unpark m k _ => rw [unpark_frame]; exact ⟨rfl, rfl⟩
  | revoke m r _ => rw [revoke_frame]; exact ⟨rfl, rfl⟩
  | change i l _ _ _ => rw [recogniseChange_frame]; exact ⟨rfl, rfl⟩
  | startUp _ => rw [startUp_frame]; exact ⟨rfl, rfl⟩
  | _ =>
    simp [State.setEnables, State.attach, State.supervise, State.sensedChange, State.writeSteps, State.writeZoneConfig,
      State.writeInputConfig, State.withStrictness, State.withZoneConfig, State.withInputConfig, State.commit]

theorem LawOfTurn.effect {s t : State} (h : LawOfTurn s) (made : Effect s t) : LawOfTurn t :=
  h.kept made.turn.2 made.turn.1

theorem lawOfTurn_kept : KeptByEffects LawOfTurn := fun _ _ h made => h.effect made

theorem lawOfTurn_restart (s : State) (cause : ResetCause) (cfg : Level) : LawOfTurn (s.restart cause cfg) :=
  lawOfTurn_of_idle rfl fun q => waitsAtTable_of_none (by rw [restart_port]; rfl)

/-- The request that a command is the service of, if it is one. -/
def requestOf : Instr → Option (Command × Master × List Byte)
  | .nop m o => some (.nop, m, o)
  | .status m o => some (.status, m, o)
  | .attach m o => some (.attach, m, o)
  | .detach m o => some (.detach, m, o)
  | .park m o => some (.park, m, o)
  | .unpark m o => some (.unpark, m, o)
  | .renew m o => some (.renew, m, o)
  | .supervise m o => some (.supervise, m, o)
  | .claim m o => some (.claim, m, o)
  | .release m o => some (.release, m, o)
  | .setOutput m o => some (.setOutput, m, o)
  | .readZone m o => some (.readZone, m, o)
  | .readZoneChanges m o => some (.readZoneChanges, m, o)
  | .clearFault m o => some (.clearFault, m, o)
  | .requestHandover m o => some (.requestHandover, m, o)
  | .withdraw m o => some (.withdraw, m, o)
  | .yield m o => some (.yield, m, o)
  | .refuse m o => some (.refuse, m, o)
  | .readTime m o => some (.readTime, m, o)
  | .postAction m o => some (.postAction, m, o)
  | .postSequence m o => some (.postSequence, m, o)
  | .cancelTag m o => some (.cancelTag, m, o)
  | .cancelZone m o => some (.cancelZone, m, o)
  | .readQueue m o => some (.readQueue, m, o)
  | .writeSteps m o => some (.writeSteps, m, o)
  | .readSteps m o => some (.readSteps, m, o)
  | .readInputs m o => some (.readInputs, m, o)
  | .readCaptures m o => some (.readCaptures, m, o)
  | .readFlags m o => some (.readFlags, m, o)
  | .acknowledge m o => some (.acknowledge, m, o)
  | .setEnables m o => some (.setEnables, m, o)
  | .readConfig m o => some (.readConfig, m, o)
  | .writeZoneConfig m o => some (.writeZoneConfig, m, o)
  | .writeInputConfig m o => some (.writeInputConfig, m, o)
  | .writeMasterPolicy m o => some (.writeMasterPolicy, m, o)
  | .commit m o => some (.commit, m, o)
  | _ => none

theorem row_of_request {c : Instr} {k : Command} {m : Master} {o : List Byte} (h : requestOf c = some (k, m, o)) :
    c = k.row m o := by
  cases c <;> cases h <;> rfl

theorem LawOfTurn.row {s t : State} (h : LawOfTurn s) {c : Command} {m : Master} {o : List Byte}
    (hs : exec (c.row m o) s = .next t) : LawOfTurn t := by
  rw [exec_row] at hs
  by_cases ready : s.ready m c o = true
  · cases gate : s.gate m c o with
    | some st =>
      rw [serve_gated _ ready gate] at hs
      cases hs
      exact h.finish ready (s.refuse st) rfl rfl
    | none =>
      rw [serve_taken _ ⟨ready, gate⟩] at hs
      cases hs
      have made := answerOf_effect ⟨ready, gate⟩
      exact h.finish ready _ made.turn.1 made.turn.2
  · rw [serve_idle _ (by simpa using ready)] at hs
    cases hs
    exact h

/-- The events that are no service of a request. -/
theorem LawOfTurn.event {s t : State} (h : LawOfTurn s) {c : Instr} (none : requestOf c = none)
    (hs : exec c s = .next t) : LawOfTurn t := by
  cases c with
  | transactionBegin p => cases hs; exact h.transactionBegin p
  | transactionEnd p r b => cases hs; exact h.transactionEnd p r b
  | storeWriteEnd v cfg =>
    cases hs
    unfold State.storeWriteEnd
    cases hd : s.device with
    | storing m image =>
      cases v with
      | false => exact h.effect (.storeFailed m image hd)
      | true => exact lawOfTurn_restart _ _ cfg
    | _ => exact h
  | powerOn cfg => cases hs; exact lawOfTurn_restart s _ cfg
  | resetPin cfg => cases hs; exact lawOfTurn_restart s _ cfg
  | startUpDecision => cases hs; exact h.effect (startUp_effect s)
  | supervisionExpiry m => cases hs; exact h.effect (supervisionExpiry_effect s m)
  | windowOpen m => cases hs; exact h.effect (windowOpen_effect s m)
  | handoverTimeout z => cases hs; exact h.effect (handoverTimeout_effect s z)
  | settleExpiry z => cases hs; exact h.effect (settleExpiry_effect s z)
  | sensedValueChange z v => cases hs; exact h.effect (.sense z v)
  | readbackCheckExpiry z => cases hs; exact h.effect (checkExpiry_effect s z)
  | dueEvent => cases hs; exact h.effect .due
  | firstRecognition i => cases hs; exact h.effect (firstRecognition_effect s i)
  | recognisedChange i => cases hs; exact h.effect (recognisedChange_effect s i)
  | rawLevelChange i l => cases hs; exact h.effect (.sample i l)
  | timeCountAdvance =>
    have advanced : t = s.closeSampling.takeDue.tick := (Host.Outcome.next.inj hs).symm
    rw [advanced]
    exact advance_keeps lawOfTurn_kept (fun _ law => law) s h
  | _ => cases none

theorem LawOfTurn.exec {s t : State} (h : LawOfTurn s) {c : Instr} (hs : exec c s = .next t) : LawOfTurn t := by
  cases request : requestOf c with
  | none => exact h.event request hs
  | some row =>
    obtain ⟨k, m, o⟩ := row
    rw [row_of_request request] at hs
    exact h.row hs

theorem everyStepKeepsTheLawOfTheTurn : Clauses.EveryStepKeepsTheLawOfTheTurn := by
  intro s t h hs
  unfold step at hs
  split at hs
  next => cases hs; exact h
  next rest _ => exact LawOfTurn.exec (s := { s with pending := rest }) (h.kept rfl rfl) hs

/-- Settles O45: the port checks the frame of a transaction begun from IDLE and discards any other; a request that
arrives is chosen by R167. -/
theorem transactionEndChecksOrDiscards : Obligations.TransactionEndChecksOrDiscards :=
  ⟨frameChecksAtTheRelease, otherFramesAreDiscarded, transactionsShiftOutTheResponse, noTransactionEndsWhereNoneRuns,
    everyStepKeepsTheLawOfTheTurn⟩

end Sys2Proof.Machine


/-! PROOFS. Sensing (R124) and sampling (R134, R135, R137); the ranges of the working configuration (R2, R177); the
epochs of the zones (R7). -/

namespace Sys2Proof.Machine

/-! ### Sensing -/

/-- A sensing moves the monitor alone. -/
theorem Zone.sense_frame (c : Byte) (now : TimeCount) (r : Zone) :
    r.sense c now = { r with monitor := (r.sense c now).monitor } := by
  unfold Zone.sense
  split
  · split <;> rfl
  · rfl

theorem sense_monitor_of_unmonitored {c : Byte} {r : Zone} (now : TimeCount) (h : r.driven = none ∨ c = 0) :
    (r.sense c now).monitor = r.monitor := by
  unfold Zone.sense
  split
  next v driven =>
    obtain undriven | off := h
    · rw [driven] at undriven; cases undriven
    · rw [if_pos off]
  next => rfl

theorem sense_monitor_of_driven {c : Byte} {r : Zone} {d : Value} (now : TimeCount) (h : r.driven = some d) (on : c ≠ 0) :
    (r.sense c now).monitor = r.monitor.compare now d r.sensed := by
  simp only [Zone.sense, h, on, if_false]

/-- Settles O36: a sensing of the new value at the zone's record, and the comparison by the monitor's condition. -/
theorem sensingMovesTheMonitor : Obligations.SensingMovesTheMonitor := by
  intro s z v
  have zone : (s.sensedChange z v).zones[z] =
      Zone.sense s.config.zones[z].checkTime s.timeCount { s.zones[z] with sensed := v } := by
    simp only [State.sensedChange, State.withZone_zones, at_set_self]
  refine ⟨_, rfl, rfl, fun y hy => at_set_ne _ hy.symm _, ?_, ?_, ?_⟩
  · rw [zone]
    exact Zone.sense_frame _ _ _
  · intro h
    rw [zone]
    exact sense_monitor_of_unmonitored _ h
  · intro d driven on
    rw [zone, sense_monitor_of_driven s.timeCount (r := { s.zones[z] with sensed := v }) driven on]
    refine ⟨fun matching => ?_, fun since l checking => ?_⟩
    · simp only [matching, Monitor.compare]
    · simp only [checking, Monitor.compare]

/-! ### Sampling -/

/-- Settles O38: the sample's level is the raw level, and the filter acts by the live state and its progress. -/
theorem samplingMovesTheFilter : Obligations.SamplingMovesTheFilter := by
  intro s i level
  have input : (s.sampleInput i level).inputs[i] =
      { raw := level, live := s.inputs[i].live.sample s.timeCount level } := by
    simp only [State.sampleInput, State.withInput_inputs, at_set_self]
  refine ⟨s.sampleInput i level, rfl, rfl, fun j hj => at_set_ne _ hj.symm _, by rw [input], ?_⟩
  rw [input]
  cases s.inputs[i].live with
  | disabled => rfl
  | establishing progress =>
    cases progress with
    | none => rfl
    | some began =>
      change InputLive.sample s.timeCount level (.establishing (some (began.1, began.2))) = _
      by_cases same : level = began.1
      · simp only [InputLive.sample, same, if_true]
      · simp only [InputLive.sample, same, if_false]
  | tracking recognised progress =>
    cases progress with
    | none =>
      by_cases same : level = recognised
      · simp only [InputLive.sample, same, if_true]
      · simp only [InputLive.sample, same, if_false]
    | some since =>
      by_cases same : level = recognised
      · simp only [InputLive.sample, same, if_true]
      · simp only [InputLive.sample, same, if_false]

/-! ### The configuration in range -/

theorem readItems_forall {α : Type} {P : α → Prop} {width : Nat} {f : List Byte → Option α}
    (hf : ∀ b x, f b = some x → P x) : ∀ {n : Nat} {b : List Byte} {l : List α},
      readItems width f n b = some l → ∀ x ∈ l, P x := by
  intro n
  induction n with
  | zero =>
    intro b l h
    cases h
    exact fun x hx => by cases hx
  | succ n ih =>
    intro b l h
    unfold readItems at h
    split at h
    next x xs first rest =>
      cases h
      intro y hy
      obtain rfl | hy := List.mem_cons.mp hy
      · exact hf _ _ first
      · exact ih rest y hy
    next => cases h

theorem vectorOf_mem {α : Type} {n : Nat} {l : List α} {v : Vector α n} (h : vectorOf n l = some v) (i : Fin n) :
    v[i] ∈ l := by
  unfold vectorOf at h
  split at h
  · cases h
    simp
  · cases h

/-- What a VALID store image spells is in range (R173). -/
theorem readBody_inRange {b : List Byte} {c : WorkingConfig} {marked : Bool} (h : readBody b = some (c, marked)) :
    c.InRange := by
  unfold readBody at h
  split at h
  next zones inputs strictness m hz hi hs hm =>
    cases h
    obtain ⟨l, items, vector⟩ := Option.bind_eq_some_iff.mp hz
    intro z
    exact readItems_forall (fun _ _ found => zoneConfigOf_inRange found) items _ (vectorOf_mem vector z)
  next => cases h

theorem read_config_inRange (img : StoreImage) : img.read.config.InRange := by
  have image : ∀ b, (readImage b).config.InRange := by
    intro b
    unfold readImage
    split
    · exact default_inRange
    · split
      · split
        next found => exact readBody_inRange found
        next => exact default_inRange
      · exact default_inRange
  cases img with
  | image b => exact image b
  | invalidated => exact default_inRange

theorem startUp_config_inRange {s : State} (h : s.config.InRange) : s.startUp.config.InRange := by
  by_cases hs : s.device = .starting
  · have decided : (s.withDecision s.store.read).config.InRange := read_config_inRange s.store
    rw [startUp_of_starting hs]
    split
    · exact decided
    · rw [State.enterService_config]
      exact decided
  · rw [startUp_of_ne hs]
    exact h

/-- A zone configuration in range is written, and the other zones keep theirs. -/
theorem writeZoneConfig_inRange {s : State} (h : s.config.InRange) (z : ZoneId) {c : ZoneConfig} (range : c.InRange) :
    (s.writeZoneConfig z c).config.InRange := by
  intro y
  have config : (s.writeZoneConfig z c).config.zones[y] = if z = y then c else s.config.zones[y] := by
    rw [writeZoneConfig_config]
    exact at_set _ _ _ _
  rw [config]
  split
  · exact range
  · exact h y

/-- Only configuration writes and the start-up decision change the working configuration, and what they write has been
decoded in range. -/
theorem config_inRange_kept : KeptByEffects fun s => s.config.InRange := by
  intro s t h made
  have kept : ∀ {u : State}, u.config.zones = s.config.zones → u.config.InRange := fun hu z => by rw [hu]; exact h z
  cases made with
  | writeZoneConfig z c _ range => exact writeZoneConfig_inRange h z range
  | startUp _ => exact startUp_config_inRange h
  | follow _ f => exact kept (by rw [f.config])
  | move _ _ _ _ _ f _ => exact kept (by rw [f.config, State.setAuthority_config])
  | acknowledge m named _ => exact kept (by rw [acknowledge_frame])
  | readCaptures m c n _ => exact kept (by rw [readCaptures_frame])
  | detach m _ => exact kept (by rw [detach_frame])
  | park m _ _ => exact kept (by rw [park_frame])
  | unpark m k _ => exact kept (by rw [unpark_frame])
  | revoke m r _ => exact kept (by rw [revoke_frame])
  | change i l _ _ _ => exact kept (by rw [recogniseChange_frame])
  | _ =>
    refine kept ?_
    simp [State.setEnables, State.attach, State.supervise, State.sensedChange, State.writeSteps,
      State.writeInputConfig, State.withStrictness, State.withInputConfig, State.commit]

/-- Settles O12: the defaults, a decoded zone configuration and a decoded store image are in range. -/
theorem everyStepKeepsTheConfigurationInRange : Obligations.EveryStepKeepsTheConfigurationInRange := by
  intro s t h hs
  exact step_keeps config_inRange_kept (fun _ _ _ _ _ h => h) (fun _ _ _ => default_inRange)
    (advance_keeps config_inRange_kept fun _ h => h) h hs

/-! ### Epochs -/

theorem EpochFollows.of_kept {s t : State} {z : ZoneId} (ha : t.zones[z].authority = s.zones[z].authority)
    (he : t.zones[z].epoch = s.zones[z].epoch) : EpochFollows s t z := by
  rw [EpochFollows, ha, if_pos rfl, he]

theorem EpochFollows.of_zone {s t : State} {z : ZoneId} (h : t.zones[z] = s.zones[z]) : EpochFollows s t z :=
  .of_kept (by rw [h]) (by rw [h])

theorem EpochFollows.before {s s' t : State} {z : ZoneId} (h : EpochFollows s t z) (hs : s'.zones = s.zones) :
    EpochFollows s' t z := by
  rwa [EpochFollows, hs]

theorem EpochFollows.after {s t t' : State} {z : ZoneId} (h : EpochFollows s t z) (ht : t'.zones[z] = t.zones[z]) :
    EpochFollows s t' z := by
  rwa [EpochFollows, ht]

/-- The operation by which every change of holder is made steps the epoch with it. -/
theorem setAuthority_epochFollows (s : State) (z y : ZoneId) (a : Authority) (v : Value) :
    EpochFollows s (s.setAuthority z a v) y := by
  by_cases hy : z = y
  · subst hy
    rw [EpochFollows, State.setAuthority_zones_self, Zone.drive_epoch, Zone.drive_authority]
    rfl
  · exact .of_zone (State.setAuthority_zones_ne s hy a v)

theorem faultZone_epochFollows (s : State) (z y : ZoneId) : EpochFollows s (s.faultZone z) y :=
  (setAuthority_epochFollows s z y .faulted (s.fallback z)).after (faultZone_zone s z y)

theorem InhibitFollows.epochFollows {s t : State} {i : InputId} (h : InhibitFollows s t i) (z : ZoneId) :
    EpochFollows s t z := by
  obtain ⟨-, authority, epoch, -⟩ := h z
  exact .of_kept authority epoch

theorem refresh_epochFollows (s : State) (i : InputId) (z : ZoneId) : EpochFollows s (s.refresh i) z :=
  (refresh_spec s i).1.epochFollows z

theorem SessionEnds.epochFollows {s t : State} {m : Master} (h : SessionEnds s t m) (z : ZoneId) : EpochFollows s t z :=
  (h.1 z).2.1

theorem recordStrike_epochFollows {s : State} {m : Master} (here : s.isAttached m = true) (z : ZoneId) :
    EpochFollows s (s.recordStrike m) z := by
  obtain ⟨authority, epoch, -⟩ := (recordStrike_spec m s (attached_ne_detached here)).1 z
  rw [EpochFollows, authority, struckAuthority_holder]
  exact epoch.trans (if_pos rfl).symm

theorem setCommanded_epoch (s : State) (z y : ZoneId) (v : Value) :
    (s.setCommanded z v).zones[y].epoch = s.zones[y].epoch := by
  by_cases hy : z = y
  · subst hy
    rw [State.setCommanded, State.putZone_zones_self, Zone.drive_epoch]
  · rw [State.setCommanded, State.putZone_zones_ne s hy]

theorem sensedChange_epoch (s : State) (z y : ZoneId) (v : Value) :
    (s.sensedChange z v).zones[y].epoch = s.zones[y].epoch := by
  rw [State.sensedChange, State.withZone_zones, at_set]
  split
  next same => rw [Zone.sense_epoch, same]
  next => rfl

theorem takeEntry_epoch (s : State) (e : Entry) (z : ZoneId) : (s.takeEntry e).zones[z].epoch = s.zones[z].epoch := by
  rw [takeEntry_zone]
  split
  · exact (take_fields _ _ _ _ _).2.2.1
  · rfl

theorem takeDueEntries_epoch (s : State) (z : ZoneId) : s.takeDueEntries.zones[z].epoch = s.zones[z].epoch :=
  foldl_keeps (fun u : State => u.zones[z].epoch) _ (fun _ _ => takeEntry_epoch _ _ z) _ _

/-- The entries taken keep holders and epochs; a fault overtaken by them is one change of the zone. -/
theorem dueEvent_epochFollows (s : State) (z : ZoneId) : EpochFollows s s.dueEvent z := by
  have entries : EpochFollows s s.takeDueEntries z := .of_kept (takeDueEntries_authority s z) (takeDueEntries_epoch s z)
  have zone := dueEvent_zone s z
  rw [faultOvertaken_eq] at zone
  split at zone
  · have fault := faultZone_epochFollows s.takeDueEntries z z
    rw [EpochFollows, ← zone, takeDueEntries_authority, takeDueEntries_epoch] at fault
    exact fault
  · exact entries.after zone

theorem recogniseChange_epochFollows (s : State) (i : InputId) (level : Level) (z : ZoneId) :
    EpochFollows s (s.recogniseChange i level) z := by
  unfold State.recogniseChange
  dsimp only
  split
  · exact (refresh_epochFollows _ i z).before (by simp [State.recognise])
  · exact (refresh_epochFollows _ i z).before rfl

theorem detach_epochFollows (s : State) (m : Master) (z : ZoneId) : EpochFollows s (s.detach m) z := by
  cases here : s.isAttached m with
  | true => exact ((detach_ends here).epochFollows z).before rfl
  | false =>
    obtain ⟨zones, -⟩ := detach_away here
    exact .of_zone (by rw [zones])

theorem writeZoneConfig_epoch (s : State) (z y : ZoneId) (c : ZoneConfig) :
    (s.writeZoneConfig z c).zones[y].epoch = s.zones[y].epoch := by
  rw [writeZoneConfig_zones]
  split
  next same => rw [Zone.drive_epoch, retimed_eq, same]
  next => rfl

/-- Entry into service makes each zone VACANT, one change of it, and its inputs' memberships do not touch the holder. -/
theorem enterService_epochFollows (s : State) (z : ZoneId) : EpochFollows s s.enterService z := by
  have lit : s.enterService.zones[z].authority = .vacant ∧
      s.enterService.zones[z].epoch = (s.zones[z].reassign .vacant (s.fallback z)).epoch := by
    refine enterService_preserves (P := fun u => u.zones[z].authority = .vacant ∧
      u.zones[z].epoch = (s.zones[z].reassign .vacant (s.fallback z)).epoch) ?_ fun u i hu => ?_
    · rw [establishAll_zones, lightZones_zone, Zone.drive_authority, Zone.drive_epoch]
      exact ⟨rfl, rfl⟩
    · obtain ⟨-, authority, epoch, -⟩ := (refresh_spec u i).1 z
      rw [authority, epoch]
      exact hu
  rw [EpochFollows, lit.1]
  exact lit.2

theorem startUp_epochFollows (s : State) (z : ZoneId) : EpochFollows s s.startUp z := by
  by_cases hs : s.device = .starting
  · rw [startUp_of_starting hs]
    split
    · exact .of_zone rfl
    · exact (enterService_epochFollows (s.withDecision s.store.read) z).before rfl
  · rw [startUp_of_ne hs]
    exact .of_zone rfl

theorem Effect.epochFollows {s t : State} (made : Effect s t) (z : ZoneId) : EpochFollows s t z := by
  have kept : ∀ {u : State}, u.zones = s.zones → EpochFollows s u z := fun hu => .of_zone (by rw [hu])
  cases made with
  | follow _ f => exact kept f.zones
  | move y a v _ _ f _ => exact (setAuthority_epochFollows s y z a v).after (by rw [f.zones])
  | acknowledge m named _ => exact kept (by rw [acknowledge_frame])
  | readCaptures m c n _ => exact kept (by rw [readCaptures_frame])
  | detach m _ => exact detach_epochFollows s m z
  | park m _ _ => exact kept (by rw [park_frame])
  | unpark m k _ => exact kept (by rw [unpark_frame])
  | revoke m r _ => exact ((revoke_spec m r s).1.epochFollows z).before rfl
  | strike m here => exact recordStrike_epochFollows here z
  | expire m _ here _ => exact (recordStrike_epochFollows here z).after (by simp)
  | setOutput y m v _ _ => exact .of_kept (setCommanded_authority s y z v) (setCommanded_epoch s y z v)
  | sense y v => exact .of_kept (sensedChange_authority s y z v) (sensedChange_epoch s y z v)
  | due => exact dueEvent_epochFollows s z
  | establish i level _ _ => exact (refresh_epochFollows (s.recognise i level) i z).before rfl
  | change i level _ _ _ => exact recogniseChange_epochFollows s i level z
  | writeZoneConfig y c _ _ => exact .of_kept (writeZoneConfig_authority s y z c) (writeZoneConfig_epoch s y z c)
  | writeInputConfig i c _ =>
    exact (refresh_epochFollows ((s.withInputConfig i c).establish i) i z).before rfl
  | storeFailed m image _ => exact kept (by simp)
  | startUp _ => exact startUp_epochFollows s z
  | _ =>
    refine kept ?_
    simp [State.setEnables, State.attach, State.supervise, State.writeSteps, State.withStrictness, State.commit]

/-- Settles O13: every change of holder is made by one `setAuthority`, which steps the epoch, and each effect makes at
most one at a zone. -/
theorem epochStepsWithTheHolder : Obligations.EpochStepsWithTheHolder := by
  intro c s t z h noPower noPin noStore noAdvance
  cases exec_does h with
  | effect u made answered => exact (made.epochFollows z).after (by rw [answered.zones])
  | advance advances _ => exact absurd advances noAdvance
  | restart u cause cfg resets _ =>
    obtain ⟨cfg, hc⟩ | ⟨cfg, hc⟩ | ⟨cfg, hc⟩ := resets
    · exact absurd hc (noPower cfg)
    · exact absurd hc (noPin cfg)
    · exact absurd hc (noStore true cfg)

end Sys2Proof.Machine


/-! PROOFS. The recognition of inputs (R135, R137, R139, R140, R143, R144, R148 to R150). -/

namespace Sys2Proof.Machine

/-! ### What a recognition and an append leave of the state that the inhibits follow -/

theorem InhibitFollows.carry {s u t : State} {i : InputId} (h : InhibitFollows u t i) (hz : u.zones = s.zones)
    (hc : u.config.zones = s.config.zones) (ht : u.timeCount = s.timeCount) : InhibitFollows s t i := by
  simpa only [InhibitFollows, Redriven, State.fallback, hz, hc, ht] using h

theorem inhibitReports_congr {s u : State} (hz : u.zones = s.zones) (t : State) (n : Master) :
    u.inhibitReports t n = s.inhibitReports t n := by
  simp only [State.inhibitReports, State.holds, hz]
  congr

theorem told_congr {s u : State} {n : Master} (hs : u.sessions[n] = s.sessions[n]) (ha : u.attention[n] = s.attention[n])
    (l : List Signal) : u.told n l = s.told n l := by
  simp only [State.told, hs, ha]

/-- Reports on top of reports. -/
theorem told_append {s u : State} {n : Master} {first : List Signal}
    (hs : u.sessions[n].standing = .detached ↔ s.sessions[n].standing = .detached)
    (ha : u.attention[n] = s.told n first) (l : List Signal) : u.told n l = s.told n (first ++ l) := by
  by_cases away : s.sessions[n].standing = .detached
  · rw [told_of_detached (hs.mpr away), ha, told_of_detached away, told_of_detached away]
  · have here : ¬ u.sessions[n].standing = .detached := fun h => away (hs.mp h)
    rw [told_of_here away] at ha
    rw [told_of_here here, told_of_here away, ha, List.foldl_append]

theorem refresh_followed {s u : State} (i : InputId) (hz : u.zones = s.zones) (hc : u.config.zones = s.config.zones)
    (ht : u.timeCount = s.timeCount) :
    InhibitFollows s (u.refresh i) i ∧
      ∀ n : Master, (u.refresh i).attention[n] = u.told n (s.inhibitReports (u.refresh i) n) := by
  obtain ⟨follows, told, -⟩ := refresh_spec u i
  exact ⟨follows.carry hz hc ht, fun n => by rw [told n, inhibitReports_congr hz]⟩

/-! ### FIRST_RECOGNITION -/

/-- The count value since when the level of the last sample has stood. -/
def stoodSince (now : TimeCount) (raw : Level) (progress : Option (Level × TimeCount)) : TimeCount :=
  match progress with
  | some (candidate, began) => if raw = candidate then began else now
  | none => now

theorem sample_of_establishing (now : TimeCount) (raw : Level) (progress : Option (Level × TimeCount)) :
    InputLive.sample now raw (.establishing progress) = .establishing (some (raw, stoodSince now raw progress)) := by
  rcases progress with _ | ⟨candidate, began⟩
  · rfl
  · by_cases same : raw = candidate
    · simp only [InputLive.sample, stoodSince, same, if_true]
    · simp only [InputLive.sample, stoodSince, same, if_false]

theorem filterDue_iff (s : State) (i : InputId) (since : TimeCount) :
    s.filterDue i since = true ↔
      s.config.inputs[i].filterTime.toNat * 10 ≤ (s.timeCount - since).toNat :=
  decide_eq_true_iff

theorem firstRecognition_of_establishing {s : State} {i : InputId} {progress : Option (Level × TimeCount)}
    (h : s.inputs[i].live = .establishing progress) :
    s.firstRecognition i =
      if s.config.inputs[i].filterTime.toNat * 10 ≤ (s.timeCount - stoodSince s.timeCount s.inputs[i].raw progress).toNat
      then (s.recognise i s.inputs[i].raw).refresh i else s := by
  simp only [State.firstRecognition, h, sample_of_establishing]
  exact if_congr (filterDue_iff s i _) rfl rfl

theorem firstRecognition_of_other {s : State} {i : InputId} (h : ∀ progress, s.inputs[i].live ≠ .establishing progress) :
    s.firstRecognition i = s := by
  unfold State.firstRecognition
  split
  next sampled =>
    obtain ⟨q, live⟩ := sample_establishing sampled
    exact absurd live (h q)
  next => rfl

theorem refresh_recognise_frame (s : State) (i : InputId) (level : Level) :
    (s.recognise i level).refresh i =
      { s with inputs := ((s.recognise i level).refresh i).inputs, zones := ((s.recognise i level).refresh i).zones,
               attention := ((s.recognise i level).refresh i).attention } := by
  ext1 <;> simp [State.recognise]

theorem firstRecognition_frame (s : State) (i : InputId) :
    s.firstRecognition i =
      { s with inputs := (s.firstRecognition i).inputs, zones := (s.firstRecognition i).zones,
               attention := (s.firstRecognition i).attention } := by
  unfold State.firstRecognition
  split
  · split
    · exact refresh_recognise_frame s i _
    · rfl
  · rfl

theorem recognise_inputs (s : State) (i : InputId) (level : Level) :
    (s.recognise i level).inputs = s.inputs.set i { s.inputs[i] with live := .tracking level none } := rfl

theorem refresh_recognise (s : State) (i : InputId) (level : Level) :
    let t := (s.recognise i level).refresh i
    t.inputs = s.inputs.set i { s.inputs[i] with live := .tracking level none } ∧ InhibitFollows s t i ∧
      ∀ n : Master, t.attention[n] = s.told n (s.inhibitReports t n) := by
  obtain ⟨follows, told⟩ := refresh_followed (s := s) (u := s.recognise i level) i rfl rfl rfl
  exact ⟨by rw [State.refresh_inputs, recognise_inputs], follows, fun n => (told n).trans (told_congr rfl rfl _)⟩

theorem firstRecognitionEstablishes : Clauses.FirstRecognitionEstablishes := by
  intro s i
  refine ⟨s.firstRecognition i, rfl, firstRecognition_frame s i, fun progress live => ?_, firstRecognition_of_other⟩
  have established : let t := s.firstRecognition i
      if s.config.inputs[i].filterTime.toNat * 10 ≤
          (s.timeCount - stoodSince s.timeCount s.inputs[i].raw progress).toNat then
        t.inputs = s.inputs.set i { s.inputs[i] with live := .tracking s.inputs[i].raw none } ∧
          InhibitFollows s t i ∧ ∀ n : Master, t.attention[n] = s.told n (s.inhibitReports t n)
      else t = s := by
    dsimp only
    rw [firstRecognition_of_establishing live]
    split_ifs
    · exact refresh_recognise s i _
    · rfl
  rcases progress with _ | ⟨candidate, began⟩
  · exact established
  · exact established

/-! ### RECOGNISED_CHANGE -/

theorem Level.other_ne (l : Level) : Level.other l ≠ l := by cases l <;> decide

/-- A sample of the other level leaves the progress, or begins it. -/
theorem sample_of_other (now : TimeCount) (recognised : Level) (progress : Option TimeCount) :
    InputLive.sample now (Level.other recognised) (.tracking recognised progress) =
      .tracking recognised (some (progress.getD now)) := by
  cases progress <;> simp only [InputLive.sample, Level.other_ne, if_false, Option.getD]

theorem sample_of_same (now : TimeCount) (recognised : Level) (progress : Option TimeCount) :
    InputLive.sample now recognised (.tracking recognised progress) = .tracking recognised none := by
  cases progress <;> simp only [InputLive.sample, if_true]

theorem recognisedChange_of_other_level {s : State} {i : InputId} {recognised : Level} {progress : Option TimeCount}
    (h : s.inputs[i].live = .tracking recognised progress) (raw : s.inputs[i].raw = Level.other recognised) :
    s.recognisedChange i =
      if s.config.inputs[i].filterTime.toNat * 10 ≤ (s.timeCount - progress.getD s.timeCount).toNat
      then s.recogniseChange i (Level.other recognised) else s := by
  simp only [State.recognisedChange, h, raw, sample_of_other]
  exact if_congr (filterDue_iff s i _) rfl rfl

theorem recognisedChange_of_same_level {s : State} {i : InputId} {recognised : Level} {progress : Option TimeCount}
    (h : s.inputs[i].live = .tracking recognised progress) (raw : s.inputs[i].raw = recognised) :
    s.recognisedChange i = s := by
  simp only [State.recognisedChange, h, raw, sample_of_same]

theorem recognisedChange_of_untracked {s : State} {i : InputId}
    (h : ∀ recognised progress, s.inputs[i].live ≠ .tracking recognised progress) : s.recognisedChange i = s := by
  unfold State.recognisedChange
  split
  next sampled =>
    obtain ⟨q, live⟩ := sample_tracking sampled
    exact absurd live (h _ q)
  next => rfl

theorem recognisedChange_frame (s : State) (i : InputId) :
    s.recognisedChange i =
      { s with inputs := (s.recognisedChange i).inputs, zones := (s.recognisedChange i).zones,
               attention := (s.recognisedChange i).attention, sessions := (s.recognisedChange i).sessions,
               ring := (s.recognisedChange i).ring, nextSerial := (s.recognisedChange i).nextSerial } := by
  unfold State.recognisedChange
  split
  · split
    · exact recogniseChange_frame s i _
    · rfl
  · rfl

theorem captureReports_recognise (s : State) (i : InputId) (level : Level) (n : Master) :
    (s.recognise i level).captureReports i n = s.captureReports i n := rfl

theorem sessionAfterAppend_recognise (s : State) (i : InputId) (level : Level) (n : Master) :
    (s.recognise i level).sessionAfterAppend n = s.sessionAfterAppend n := rfl

theorem sessionAfterAppend_detached (s : State) (n : Master) :
    (s.sessionAfterAppend n).standing = .detached ↔ s.sessions[n].standing = .detached := by
  obtain same | ⟨here, c, moved⟩ := sessionAfterAppend_cases s n
  · rw [same]
  · rw [moved]
    exact iff_of_false (by simp) (attached_ne_detached here)

theorem capture_guard (s : State) (i : InputId) (level : Level) :
    (EdgeMode.captures level s.config.inputs[i].edge && allMasters.any s.isAttached) = true ↔
      EdgeMode.captures level s.config.inputs[i].edge = true ∧ ∃ n, s.isAttached n = true := by
  simp only [Bool.and_eq_true, List.any_eq_true, mem_allMasters, true_and]

/-- A recognised change that the edge mode selects, with a master ATTACHED: the append, then the inhibits. -/
theorem recogniseChange_captured (s : State) (i : InputId) (level : Level)
    (captures : EdgeMode.captures level s.config.inputs[i].edge = true ∧ ∃ n, s.isAttached n = true) :
    let t := s.recogniseChange i level
    t.inputs = s.inputs.set i { s.inputs[i] with live := .tracking level none } ∧ InhibitFollows s t i ∧
      t.nextSerial = s.nextSerial + 1 ∧
      t.ring = (if s.ring.length < 64 then s.ring else s.ring.drop 1) ++ [⟨s.nextSerial, i, level, s.timeCount⟩] ∧
      ∀ n : Master, t.sessions[n] = s.sessionAfterAppend n ∧
        t.attention[n] = s.told n (s.captureReports i n ++ s.inhibitReports t n) := by
  have taken : s.recogniseChange i level = ((s.recognise i level).appendCapture i level).refresh i := by
    unfold State.recogniseChange
    dsimp only
    rw [if_pos ((capture_guard s i level).mpr captures)]
  obtain ⟨next, ring, masters⟩ := appendCapture_spec (s.recognise i level) i level
  have zones : ((s.recognise i level).appendCapture i level).zones = s.zones := by simp [State.recognise]
  have config : ((s.recognise i level).appendCapture i level).config.zones = s.config.zones := by simp [State.recognise]
  have count : ((s.recognise i level).appendCapture i level).timeCount = s.timeCount := by simp [State.recognise]
  have inputs : ((s.recognise i level).appendCapture i level).inputs =
      s.inputs.set i { s.inputs[i] with live := .tracking level none } := by
    rw [State.appendCapture_inputs, recognise_inputs]
  rw [taken]
  generalize (s.recognise i level).appendCapture i level = u at next ring masters zones config count inputs
  obtain ⟨follows, told⟩ := refresh_followed i zones config count
  refine ⟨by rw [State.refresh_inputs, inputs], follows, by rw [State.refresh_nextSerial, next]; rfl,
    by rw [State.refresh_ring, ring]; rfl, fun n => ⟨?_, ?_⟩⟩
  · rw [State.refresh_sessions, (masters n).1, sessionAfterAppend_recognise]
  · have session := (masters n).1
    have attention := (masters n).2
    rw [sessionAfterAppend_recognise] at session
    rw [captureReports_recognise] at attention
    rw [told n]
    refine told_append ?_ (attention.trans (told_congr rfl rfl _)) _
    rw [session]
    exact sessionAfterAppend_detached s n

/-- A recognised change without a capture. -/
theorem recogniseChange_uncaptured (s : State) (i : InputId) (level : Level)
    (captures : ¬ (EdgeMode.captures level s.config.inputs[i].edge = true ∧ ∃ n, s.isAttached n = true)) :
    s.recogniseChange i level = (s.recognise i level).refresh i := by
  unfold State.recogniseChange
  dsimp only
  rw [if_neg fun guard => captures ((capture_guard s i level).mp guard)]

theorem recognisedChangeIsCaptured : Clauses.RecognisedChangeIsCaptured := by
  intro s i
  refine ⟨s.recognisedChange i, rfl, recognisedChange_frame s i, fun recognised progress live raw => ?_,
    fun _ _ live raw => recognisedChange_of_same_level live raw, recognisedChange_of_untracked⟩
  dsimp only
  rw [recognisedChange_of_other_level live raw]
  by_cases due : s.config.inputs[i].filterTime.toNat * 10 ≤ (s.timeCount - progress.getD s.timeCount).toNat
  · rw [if_pos due, if_pos due]
    by_cases captures : EdgeMode.captures (Level.other recognised) s.config.inputs[i].edge = true ∧
        ∃ n, s.isAttached n = true
    · rw [if_pos captures]
      exact recogniseChange_captured s i _ captures
    · rw [if_neg captures, recogniseChange_uncaptured s i _ captures]
      obtain ⟨inputs, follows, told⟩ := refresh_recognise s i (Level.other recognised)
      refine ⟨inputs, follows, ?_, ?_, ?_, told⟩ <;> simp [State.recognise]
  · rw [if_neg due, if_neg due]

/-- Settles O56: both rows take the sample of the count value, then the level's recognition and what follows it. -/
theorem recognitionOfInputs : Obligations.RecognitionOfInputs :=
  ⟨firstRecognitionEstablishes, recognisedChangeIsCaptured⟩

end Sys2Proof.Machine


/-! PROOFS. The writes of the input configurations and the master policies (R178), and the bytes of an input
configuration (R170). -/

namespace Sys2Proof.Machine

/-! ### The bytes of an input configuration -/

theorem boolOf_iff (b : Byte) (x : Bool) : boolOf b = some x ↔ b = yesNo x := by
  constructor
  · intro h
    unfold boolOf at h
    split_ifs at h with zero one
    all_goals cases h; assumption
  · rintro rfl
    cases x <;> rfl

theorem edgeOf_iff (b : Byte) (e : EdgeMode) : edgeOf b = some e ↔ b = e.code := by
  constructor
  · intro h
    unfold edgeOf at h
    split_ifs at h with zero one two
    all_goals cases h; assumption
  · rintro rfl
    cases e <;> rfl

theorem levelOf_iff (b : Byte) (l : Level) : levelOf b = some l ↔ b = l.code := by
  constructor
  · intro h
    unfold levelOf at h
    split_ifs at h with zero one
    all_goals cases h; assumption
  · rintro rfl
    cases l <;> rfl

theorem boolOf_none_iff (b : Byte) : boolOf b = none ↔ 2 ≤ b.toNat := by
  unfold boolOf
  split_ifs <;> simp only [true_iff, false_iff] <;> bv_omega

theorem edgeOf_none_iff (b : Byte) : edgeOf b = none ↔ 3 ≤ b.toNat := by
  unfold edgeOf
  split_ifs <;> simp only [true_iff, false_iff] <;> bv_omega

theorem levelOf_none_iff (b : Byte) : levelOf b = none ↔ 2 ≤ b.toNat := by
  unfold levelOf
  split_ifs <;> simp only [true_iff, false_iff] <;> bv_omega

theorem inputConfigOf_encode (c : InputConfig) : inputConfigOf (encodeInputConfig c) = some c := by
  simp only [encodeInputConfig, inputConfigOf, (boolOf_iff _ _).mpr rfl, (edgeOf_iff _ _).mpr rfl,
    (levelOf_iff _ _).mpr rfl]

theorem encode_inputConfigOf {b : List Byte} {c : InputConfig} (h : inputConfigOf b = some c) :
    encodeInputConfig c = b := by
  unfold inputConfigOf at h
  split at h
  next enabled edge filter zones forcing =>
    split at h
    next en ed f henabled hedge hforcing =>
      cases h
      rw [(boolOf_iff _ _).mp henabled, (edgeOf_iff _ _).mp hedge, (levelOf_iff _ _).mp hforcing]
      rfl
    next => cases h
  next => cases h

theorem inputConfigOf_none_iff (enabled edge filter zones forcing : Byte) :
    inputConfigOf [enabled, edge, filter, zones, forcing] = none ↔
      boolOf enabled = none ∨ edgeOf edge = none ∨ levelOf forcing = none := by
  dsimp only [inputConfigOf]
  split
  next en ed f henabled hedge hforcing => simp [henabled, hedge, hforcing]
  next missing =>
    refine iff_of_true rfl ?_
    by_contra present
    simp only [not_or, Option.ne_none_iff_exists', ← ne_eq] at present
    obtain ⟨⟨en, henabled⟩, ⟨ed, hedge⟩, ⟨f, hforcing⟩⟩ := present
    exact missing en ed f henabled hedge hforcing

theorem inputConfigurationsEncodeAndDecode : Clauses.InputConfigurationsEncodeAndDecode :=
  ⟨inputConfigOf_encode, fun _ _ h => encode_inputConfigOf h, fun enabled edge filter zones forcing => by
    rw [inputConfigOf_none_iff, boolOf_none_iff, edgeOf_none_iff, levelOf_none_iff]⟩

/-! ### The device-state check of the configuration requests (R177, check 1) -/

theorem configurable_of_operational {s : State} (h : s.device = .operational) (k : Unit → Answer) :
    s.configurable k = s.refuse .wrongState := by
  simp only [State.configurable, h, DeviceState.writeRefusal]

theorem configurable_of_storing {s : State} (h : s.device.isStoring = true) (k : Unit → Answer) :
    s.configurable k = s.refuse .busy := by
  cases hd : s.device with
  | storing m image => simp only [State.configurable, hd, DeviceState.writeRefusal]
  | _ => rw [hd] at h; cases h

theorem configurable_of_other {s : State} (h : s.device ≠ .operational) (h' : ¬ s.device.isStoring = true)
    (k : Unit → Answer) : s.configurable k = k () := by
  cases hd : s.device with
  | operational => exact absurd hd h
  | storing m image => rw [hd] at h'; exact absurd rfl h'
  | _ => simp only [State.configurable, hd, DeviceState.writeRefusal]

/-- The three ways of a configuration request, by the device state. -/
theorem configurable_cases {s : State} {m : Master} {c : Command} {o : List Byte} {P : State → Prop}
    {Q : State → Prop} {k : Unit → Answer} (h : s.serves m c o) (hc : c.atTable = false)
    (ha : answerOf c m o s = s.configurable k) (frame : ∀ t, OnlyPorts s t → P t)
    (taken : s.device ≠ .operational → answerOf c m o s = k () → ∃ t, exec (c.row m o) s = .next t ∧ P t ∧ Q t) :
    ∃ t, exec (c.row m o) s = .next t ∧ P t ∧
      if s.device = .operational then Answered s t m c .wrongState [] ∧ OnlyAnswered s t
      else if s.device.isStoring = true then Answered s t m c .busy [] ∧ OnlyAnswered s t
      else Q t := by
  by_cases operational : s.device = .operational
  · obtain ⟨t, ht, ports, answered, only⟩ :=
      exec_row_of_plainRefuse h hc (ha.trans (configurable_of_operational operational k))
    exact ⟨t, ht, frame t ports, by rw [if_pos operational]; exact ⟨answered, only⟩⟩
  · simp only [operational, if_false]
    by_cases storing : s.device.isStoring = true
    · obtain ⟨t, ht, ports, answered, only⟩ :=
        exec_row_of_plainRefuse h hc (ha.trans (configurable_of_storing storing k))
      exact ⟨t, ht, frame t ports, by rw [if_pos storing]; exact ⟨answered, only⟩⟩
    · simp only [storing]
      exact taken operational (ha.trans (configurable_of_other operational storing k))

/-! ### WRITE INPUT CONFIG -/

theorem writeInputConfig_frame (s : State) (i : InputId) (c : InputConfig) :
    s.writeInputConfig i c =
      { s with zones := (s.writeInputConfig i c).zones, inputs := (s.writeInputConfig i c).inputs,
               attention := (s.writeInputConfig i c).attention, config := (s.writeInputConfig i c).config } := by
  ext1 <;> simp [State.writeInputConfig, State.withInputConfig]

theorem writeInputConfig_config (s : State) (i : InputId) (c : InputConfig) :
    (s.writeInputConfig i c).config = { s.config with inputs := s.config.inputs.set i c } := by
  simp [State.writeInputConfig, State.withInputConfig]

theorem writeInputConfig_inputs (s : State) (i : InputId) (c : InputConfig) :
    (s.writeInputConfig i c).inputs =
      s.inputs.set i { s.inputs[i] with live := if c.enabled then .establishing none else .disabled } := by
  have config : (s.withInputConfig i c).config.inputs[i] = c := at_set_self _ i c
  rw [State.writeInputConfig, State.refresh_inputs, State.establish, State.withInput_inputs, config]
  rfl

theorem writeInputConfig_followed (s : State) (i : InputId) (c : InputConfig) :
    InhibitFollows s (s.writeInputConfig i c) i ∧
      ∀ n : Master, (s.writeInputConfig i c).attention[n] = s.told n (s.inhibitReports (s.writeInputConfig i c) n) := by
  obtain ⟨follows, told⟩ := refresh_followed (s := s) (u := (s.withInputConfig i c).establish i) i rfl rfl rfl
  exact ⟨follows, fun n => (told n).trans (told_congr rfl rfl _)⟩

theorem InhibitFollows.answered {s u t : State} {i : InputId} (h : InhibitFollows s u i) (k : OnlyPorts u t) :
    InhibitFollows s t i := by
  rw [k]
  exact h

theorem inhibitReports_answered {s u t : State} (k : OnlyPorts u t) (n : Master) :
    s.inhibitReports t n = s.inhibitReports u n := by
  rw [k]
  rfl

theorem OnlyPorts.config {u t : State} (h : OnlyPorts u t) : t.config = u.config := by rw [h]

theorem OnlyPorts.inputs {u t : State} (h : OnlyPorts u t) : t.inputs = u.inputs := by rw [h]

theorem OnlyPorts.attention {u t : State} (h : OnlyPorts u t) : t.attention = u.attention := by rw [h]

theorem writeInputConfigIsCheckedAndTaken : Clauses.WriteInputConfigIsCheckedAndTaken := by
  intro s m ib rest h
  refine configurable_cases (c := .writeInputConfig) h rfl (by unfold answerOf writeInputConfigAnswer; rfl) (fun t ports => by rw [ports]) fun _ ha => ?_
  dsimp only at ha
  cases input : inputOf ib with
  | none =>
    obtain ⟨t, ht, ports, answered, only⟩ := exec_row_of_plainRefuse (st := .range) h rfl (by rw [ha, input])
    exact ⟨t, ht, by rw [ports], answered, only⟩
  | some i =>
    cases config : inputConfigOf rest with
    | none =>
      obtain ⟨t, ht, ports, answered, only⟩ := exec_row_of_plainRefuse (st := .range) h rfl (by rw [ha, input, config])
      exact ⟨t, ht, by rw [ports], answered, only⟩
    | some c =>
      have frame := writeInputConfig_frame s i c
      have written := writeInputConfig_config s i c
      have live := writeInputConfig_inputs s i c
      obtain ⟨follows, told⟩ := writeInputConfig_followed s i c
      rw [input, config] at ha
      dsimp only at ha
      generalize s.writeInputConfig i c = u at ha frame written live follows told
      obtain ⟨t, ht, ports, answered⟩ :=
        exec_row_of_plain h rfl ha (by rw [frame]) (by rw [frame]) (by rw [frame])
      refine ⟨t, ht, by rw [ports, frame], by rw [ports.config, written], by rw [ports.inputs, live],
        follows.answered ports, fun n => ?_, answered⟩
      rw [ports.attention, told n, inhibitReports_answered ports]

/-! ### WRITE MASTER POLICY -/

theorem writeMasterPolicyIsCheckedAndTaken : Clauses.WriteMasterPolicyIsCheckedAndTaken := by
  intro s m mb code h
  refine configurable_cases (c := .writeMasterPolicy) h rfl (by unfold answerOf writeMasterPolicyAnswer; rfl) (fun t ports => by rw [ports]) fun _ ha => ?_
  dsimp only at ha
  cases master : masterOf mb with
  | none =>
    obtain ⟨t, ht, ports, answered, only⟩ := exec_row_of_plainRefuse (st := .range) h rfl (by rw [ha, master])
    exact ⟨t, ht, by rw [ports], answered, only⟩
  | some n =>
    cases mode : modeOf code with
    | none =>
      obtain ⟨t, ht, ports, answered, only⟩ := exec_row_of_plainRefuse (st := .codeError) h rfl (by rw [ha, master, mode])
      exact ⟨t, ht, by rw [ports], answered, only⟩
    | some strictness =>
      obtain ⟨t, ht, ports, answered⟩ :=
        exec_row_of_plain (u := s.withStrictness n strictness) (p := []) h rfl (by rw [ha, master, mode]) rfl rfl rfl
      exact ⟨t, ht, by rw [ports]; rfl, ports.config, answered⟩

/-- Settles O58: the device state, then the contents, then the write and, for an input, its memberships. -/
theorem inputAndPolicyWritesAreCheckedAndTaken : Obligations.InputAndPolicyWritesAreCheckedAndTaken :=
  ⟨writeInputConfigIsCheckedAndTaken, inputConfigurationsEncodeAndDecode, writeMasterPolicyIsCheckedAndTaken⟩

end Sys2Proof.Machine


/-! PROOFS. The write of a zone configuration (R177, R126), COMMIT and the end of the store write (R180), and the
start-up decision (R174). -/

namespace Sys2Proof.Machine

/-! ### WRITE ZONE CONFIG -/

theorem writeZoneConfig_frame (s : State) (z : ZoneId) (c : ZoneConfig) :
    s.writeZoneConfig z c =
      { s with zones := (s.writeZoneConfig z c).zones, config := (s.writeZoneConfig z c).config } := by
  ext1 <;> simp [State.writeZoneConfig, State.withZoneConfig]

/-- The monitor of a driven zone with a new check time (R126). -/
theorem retimed_monitor {r : Zone} {d : Value} (h : r.driven = some d) (old new : Byte) (now : TimeCount) :
    (r.retimed old new now).monitor =
      if new = old then r.monitor
      else if new = 0 then .off
      else if r.sensed = d then .matching else .checking now (r.sensed ^^^ d) := by
  unfold Zone.retimed
  rw [h]
  by_cases same : new = old
  · simp only [same, if_true]
  · have changed : old ≠ new := fun h => same h.symm
    simp only [same, changed, if_false, freshMonitor]

theorem Monitor.respond_same (now : TimeCount) (sensed v : Value) (m : Monitor) : m.respond now sensed v v = m := by
  unfold Monitor.respond
  rw [if_pos rfl]

theorem Monitor.respond_off (now : TimeCount) (sensed u v : Value) : Monitor.respond now sensed u v .off = .off := by
  unfold Monitor.respond
  split <;> rfl

/-- What the write makes of a VACANT zone: the new fallback value commanded and driven, and the monitor retimed and then
responding to it. -/
theorem writeZoneConfig_vacant {s : State} {z : ZoneId} (vacant : s.zones[z].authority = .vacant) (c : ZoneConfig) :
    let r := (s.writeZoneConfig z c).zones[z]
    r.authority = .vacant ∧ r.epoch = s.zones[z].epoch ∧ r.commanded = c.fallback ∧ r.driven = some c.fallback ∧
      r.inhibit = s.zones[z].inhibit ∧ r.sensed = s.zones[z].sensed ∧
      (∀ d, s.zones[z].driven = some d →
        r.monitor =
          (if c.checkTime = s.config.zones[z].checkTime then s.zones[z].monitor
            else if c.checkTime = 0 then .off
            else if s.zones[z].sensed = d then .matching
            else .checking s.timeCount (s.zones[z].sensed ^^^ d)).respond
            s.timeCount s.zones[z].sensed d c.fallback) ∧
      (s.zones[z].driven = none → r.monitor = freshMonitor c.checkTime s.timeCount c.fallback s.zones[z].sensed) := by
  have zone := writeZoneConfig_zones s z z c
  have monitor := fun d (h : s.zones[z].driven = some d) =>
    retimed_monitor h s.config.zones[z].checkTime c.checkTime s.timeCount
  rw [if_pos rfl] at zone
  rw [retimed_eq] at zone
  generalize (s.zones[z].retimed s.config.zones[z].checkTime c.checkTime s.timeCount).monitor = m at zone monitor
  obtain ⟨driven, responds, fresh⟩ := Zone.drive_some c.fallback c.checkTime s.timeCount
    { s.zones[z] with commanded := c.fallback, monitor := m } c.fallback (by rw [vacant]; rfl)
  dsimp only
  rw [zone]
  refine ⟨?_, ?_, ?_, driven, ?_, ?_, fun d hd => ?_, fresh⟩
  · rw [Zone.drive_authority, vacant]
  · rw [Zone.drive_epoch]
  · rw [Zone.drive_commanded]
  · rw [Zone.drive_inhibit]
  · rw [Zone.drive_sensed]
  · rw [responds d hd, monitor d hd]

theorem writeZoneConfig_other (s : State) (z : ZoneId) (c : ZoneConfig) : OtherZonesKept s (s.writeZoneConfig z c) z :=
  fun y hy => by rw [writeZoneConfig_zones, if_neg hy.symm]

theorem OnlyPorts.zones {u t : State} (h : OnlyPorts u t) : t.zones = u.zones := by rw [h]

/-- Settles O40: the device state, the zone, its VACANCY, the contents, then the write. -/
theorem writeZoneConfigIsCheckedAndTaken : Obligations.WriteZoneConfigIsCheckedAndTaken := by
  intro s m zb rest h
  refine configurable_cases (c := .writeZoneConfig) h rfl (by unfold answerOf writeZoneConfigAnswer; rfl)
    (fun t ports => by rw [ports]) fun _ ha => ?_
  dsimp only at ha
  have refused : ∀ {st : Status}, answerOf .writeZoneConfig m (zb :: rest) s = s.refuse st →
      ∃ t, exec (.writeZoneConfig m (zb :: rest)) s = .next t ∧
        t = { s with zones := t.zones, config := t.config, ports := t.ports } ∧
          Answered s t m .writeZoneConfig st [] ∧ OnlyAnswered s t := fun hr => by
    obtain ⟨t, ht, ports, answered, only⟩ := exec_row_of_plainRefuse h rfl hr
    exact ⟨t, ht, by rw [ports], answered, only⟩
  cases zone : zoneOf zb with
  | none => exact refused (ha.trans (s.onZone_of_none _ zone))
  | some z =>
    rw [s.onZone_of_some _ zone] at ha
    by_cases vacant : s.zones[z].authority = .vacant
    · simp only [vacant] at ha
      simp only [vacant, ne_eq, not_true_eq_false, if_false]
      cases config : zoneConfigOf rest with
      | none => exact refused (by rw [ha, config])
      | some c =>
        rw [config] at ha
        have frame := writeZoneConfig_frame s z c
        have written := writeZoneConfig_config s z c
        have others := writeZoneConfig_other s z c
        obtain ⟨authority, epoch, commanded, driven, inhibit, sensed, redriven, fresh⟩ := writeZoneConfig_vacant vacant c
        dsimp only at ha
        generalize s.writeZoneConfig z c = u at *
        obtain ⟨t, ht, ports, answered⟩ := exec_row_of_plain h rfl ha (by rw [frame]) (by rw [frame]) (by rw [frame])
        refine ⟨t, ht, by rw [ports, frame], ?_⟩
        dsimp only
        rw [ports.config, ports.zones]
        refine ⟨written, fun y hy => by rw [ports.zones]; exact others y hy, authority, epoch, commanded, driven, inhibit,
          sensed, fun same lines => ?_, fun changed off lines => ?_, redriven, fresh, answered⟩
        · rw [redriven _ lines, if_pos same, Monitor.respond_same]
        · obtain ⟨d, lines⟩ := Option.ne_none_iff_exists'.mp lines
          rw [redriven d lines, if_neg changed, if_pos off, Monitor.respond_off]
    · simp only [vacant, ne_eq, not_false_eq_true, if_true]
      refine refused (ha.trans ?_)
      split
      next v => exact absurd v vacant
      next => rfl

/-! ### COMMIT -/

theorem allVacant_iff (s : State) : s.allVacant = true ↔ ¬ ∃ z : ZoneId, s.zones[z].authority ≠ .vacant := by
  simp only [State.allVacant, List.all_eq_true, mem_allZones, decide_eq_true_eq, true_implies, ne_eq, not_exists,
    not_not]

/-- Settles O41: the device state, the VACANCY of every zone, then STORING with the image of this moment. -/
theorem commitEntersStoring : Obligations.CommitEntersStoring := by
  intro s m h
  refine configurable_cases (c := .commit) h rfl (by unfold answerOf commitAnswer; rfl) (fun t ports => by rw [ports])
    fun _ ha => ?_
  by_cases occupied : ∃ z : ZoneId, s.zones[z].authority ≠ .vacant
  · rw [if_neg fun vacant => (allVacant_iff s).mp vacant occupied] at ha
    obtain ⟨t, ht, ports, answered, only⟩ := exec_row_of_plainRefuse h rfl ha
    exact ⟨t, ht, by rw [ports], by rw [if_pos occupied]; exact ⟨answered, only⟩⟩
  · rw [if_pos ((allVacant_iff s).mpr occupied)] at ha
    obtain ⟨t, ht, ports, answered⟩ := exec_row_of_plain h rfl ha rfl rfl rfl
    have device : t.device = .storing m (imageOf s.config true) := by rw [ports]; rfl
    have present : t.presentStore = some .corrupt := by rw [ports]; rfl
    have store : t.store = .invalidated := by rw [ports]; rfl
    refine ⟨t, ht, by rw [ports]; rfl, ?_⟩
    rw [if_neg occupied, store]
    exact ⟨device, present, rfl, answered⟩

/-! ### STORE_WRITE_END -/

theorem storeWriteEnd_of_storing {s : State} {m : Master} {image : List Byte} (h : s.device = .storing m image)
    (cfg : Level) :
    s.storeWriteEnd true cfg = (s.withStore (.image image) (some .valid)).restart .commitRestart cfg ∧
      s.storeWriteEnd false cfg = (s.withDevice .commissioning).signal m .storeFailed := by
  simp only [State.storeWriteEnd, h, if_true, Bool.false_eq_true, if_false, and_self]

theorem storeWriteEnd_of_other {s : State} (h : ∀ m image, s.device ≠ .storing m image) (verified : Bool) (cfg : Level) :
    s.storeWriteEnd verified cfg = s := by
  unfold State.storeWriteEnd
  split
  next m image storing => exact absurd storing (h m image)
  next => rfl

/-- Settles O42: a match restarts the part on the image written, a mismatch goes back to COMMISSIONING with a report. -/
theorem storeWriteEndsEitherWay : Obligations.StoreWriteEndsEitherWay := by
  intro s cfg
  refine ⟨fun m image storing => ⟨⟨_, rfl, ?_⟩, _, rfl, ?_⟩, fun other v => ?_⟩
  · rw [(storeWriteEnd_of_storing storing cfg).1]
    exact restart_afterReset (s.withStore (.image image) (some .valid)) .commitRestart cfg
  · rw [(storeWriteEnd_of_storing storing cfg).2]
    refine ⟨State.signal_device .., by ext1 <;> simp, fun n hn => signal_attention_ne _ hn _, ?_⟩
    rw [State.signal_attention]
    by_cases away : s.sessions[m].standing = .detached
    · rw [if_neg fun h => h.2 away, if_pos away]
      rfl
    · rw [if_pos ⟨rfl, away⟩, if_neg away]
      rfl
  · exact congrArg Host.Outcome.next (storeWriteEnd_of_other other v cfg)

end Sys2Proof.Machine


/-! PROOFS. The start-up decision (R174): its table, and the zones and inputs that enter service (R4, R121, R125, R136,
R148). -/

namespace Sys2Proof.Machine

/-! ### The table of R174 -/

/-- What the start-up decision records: it is what `withDecision` writes, whether zones and inputs follow or not. -/
theorem startUp_recorded {s : State} (h : s.device = .starting) :
    s.startUp.device = s.store.read.device s.cfg ∧ s.startUp.config = s.store.read.config ∧
      s.startUp.source = s.store.read.source ∧ s.startUp.startupStore = some (s.store.read.startup s.cfg) ∧
      s.startUp.presentStore = some s.store.read.class := by
  rw [startUp_of_starting h]
  split
  · exact ⟨rfl, rfl, rfl, rfl, rfl⟩
  · rw [State.enterService_device, State.enterService_config, State.enterService_source, State.enterService_startupStore,
      State.enterService_presentStore]
    exact ⟨rfl, rfl, rfl, rfl, rfl⟩

/-! ### Zones that enter service -/

/-- The zone in service as the decided state `d` has it enter: VACANT, driving its fallback value with a fresh monitor. -/
structure EnteredZone (d u : State) (z : ZoneId) : Prop where
  config : u.config = d.config
  authority : u.zones[z].authority = .vacant
  driven : u.zones[z].driven = some (d.fallback z)
  sensed : u.zones[z].sensed = d.zones[z].sensed
  monitor : d.zones[z].driven = none →
    u.zones[z].monitor =
      freshMonitor d.config.zones[z].checkTime d.timeCount (d.fallback z) d.zones[z].sensed

theorem lightZones_entered (d : State) (z : ZoneId) :
    EnteredZone d (allInputs.foldl State.establish (allZones.foldl State.lightZone d)) z := by
  obtain ⟨driven, -, fresh⟩ := Zone.drive_some (d.fallback z) d.config.zones[z].checkTime d.timeCount
    (d.zones[z].reassign .vacant (d.fallback z)) (d.fallback z) rfl
  have zone := lightZones_zone d z
  rw [← establishAll_zones] at zone
  refine ⟨?_, ?_, ?_, ?_, ?_⟩
  · exact (foldl_keeps State.config _ (fun _ _ => by simp) _ _).trans
      (foldl_keeps State.config _ (fun s y => State.setAuthority_config ..) _ _)
  · rw [zone, Zone.drive_authority]; rfl
  · rw [zone, driven]
  · rw [zone, Zone.drive_sensed]; rfl
  · rw [zone]; exact fresh

/-- A change of an inhibit set leaves a VACANT zone driving its fallback value, and so its monitor. -/
theorem EnteredZone.refresh {d u : State} {z : ZoneId} (h : EnteredZone d u z) (i : InputId) :
    EnteredZone d (u.refresh i) z := by
  obtain ⟨-, authority, -, -, sensed, driven, redriven⟩ := (refresh_spec u i).1 z
  have fallback : u.fallback z = d.fallback z := by rw [State.fallback, State.fallback, h.config]
  have drives : (u.refresh i).zones[z].driven = some (d.fallback z) := by
    rw [driven, h.authority, fallback]; rfl
  refine ⟨(State.refresh_config ..).trans h.config, authority.trans h.authority, drives, sensed.trans h.sensed,
    fun dark => ?_⟩
  obtain ⟨-, responds, -⟩ := redriven _ drives
  rw [responds _ h.driven, Monitor.respond_same]
  exact h.monitor dark

theorem enterService_entered (d : State) (z : ZoneId) : EnteredZone d d.enterService z :=
  enterService_preserves (P := fun u => EnteredZone d u z) (lightZones_entered d z) fun _ i h => h.refresh i

/-! ### Inputs that enter service -/

theorem establish_input (s : State) (i j : InputId) :
    (s.establish i).inputs[j] =
      if i = j then { s.inputs[j] with live := liveFor s.config.inputs[j] } else s.inputs[j] := by
  rw [State.establish, State.withInput_inputs, at_set]
  split
  next same => rw [same]
  next => rfl

theorem establishAll_input (l : List InputId) (s : State) (j : InputId) :
    (l.foldl State.establish s).inputs[j] =
      if j ∈ l then { s.inputs[j] with live := liveFor s.config.inputs[j] } else s.inputs[j] := by
  induction l generalizing s with
  | nil => rfl
  | cons i l ih =>
    rw [List.foldl_cons, ih, establish_input, State.establish_config]
    by_cases here : i = j
    · simp [here]
    · have elsewhere : j ≠ i := fun h => here h.symm
      simp only [here, if_false, List.mem_cons, elsewhere, false_or]

theorem enterService_input (d : State) (j : InputId) :
    d.enterService.inputs[j] = { d.inputs[j] with live := liveFor d.config.inputs[j] } := by
  have refreshed : d.enterService.inputs =
      (allInputs.foldl State.establish (allZones.foldl State.lightZone d)).inputs :=
    foldl_keeps State.inputs _ (fun _ _ => State.refresh_inputs ..) _ _
  have lit : (allZones.foldl State.lightZone d).inputs = d.inputs :=
    foldl_keeps State.inputs _ (fun _ _ => State.setAuthority_inputs ..) _ _
  have config : (allZones.foldl State.lightZone d).config = d.config :=
    foldl_keeps State.config _ (fun _ _ => State.setAuthority_config ..) _ _
  rw [refreshed, establishAll_input, if_pos (mem_allInputs j), lit, config]

theorem liveFor_forces (c : InputConfig) (forcing : Level) : (liveFor c).forces forcing = c.enabled := by
  unfold liveFor
  cases c.enabled <;> rfl

/-- An input that has just been established forces its zones exactly if it is enabled. -/
theorem enterService_inhibits (d : State) (i : InputId) (z : ZoneId) :
    d.enterService.inhibits i z = (d.config.inputs[i].enabled && d.config.inputs[i].interlock.getLsbD z.val) := by
  rw [State.inhibits, State.forcing, enterService_input, State.enterService_config, liveFor_forces]

/-! ### The decision -/

/-- In service after the decision: the zones, the inputs, the memberships. -/
theorem startUp_entered {s : State} (h : s.device = .starting) (service : s.startUp.device ≠ .halted) :
    (∀ z : ZoneId, s.startUp.zones[z].authority = .vacant ∧ s.startUp.zones[z].commanded = s.startUp.fallback z ∧
      s.startUp.zones[z].driven = some (s.startUp.fallback z) ∧ s.startUp.zones[z].sensed = s.zones[z].sensed ∧
      (s.zones[z].driven = none →
        s.startUp.zones[z].monitor =
          freshMonitor s.startUp.config.zones[z].checkTime s.timeCount (s.startUp.fallback z) s.zones[z].sensed) ∧
      (s.zones[z].authority = .dark → s.startUp.zones[z].epoch = s.zones[z].epoch)) ∧
    (∀ i : InputId, s.startUp.inputs[i] =
      { s.inputs[i] with live := if s.startUp.config.inputs[i].enabled then .establishing none else .disabled }) ∧
    ∀ (z : ZoneId) (i : InputId), s.startUp.zones[z].inhibit.getLsbD i.val =
      (s.startUp.config.inputs[i].enabled && s.startUp.config.inputs[i].interlock.getLsbD z.val) := by
  have epochs := fun z => startUp_epochFollows s z
  obtain ⟨device, -⟩ := startUp_recorded h
  have taken : s.startUp = (s.withDecision s.store.read).enterService := by
    rw [startUp_of_starting h, if_neg]
    exact fun halted => service (device.trans halted)
  rw [taken] at epochs ⊢
  have zones : (s.withDecision s.store.read).zones = s.zones := rfl
  have inputs : (s.withDecision s.store.read).inputs = s.inputs := rfl
  have count : (s.withDecision s.store.read).timeCount = s.timeCount := rfl
  generalize s.withDecision s.store.read = d at *
  refine ⟨fun z => ?_, fun i => ?_, fun z i => ?_⟩
  · have entered := enterService_entered d z
    have monitor := entered.monitor
    have sensed := entered.sensed
    rw [zones] at monitor sensed
    rw [count] at monitor
    rw [State.enterService_fallback, State.enterService_config]
    refine ⟨entered.authority, enterService_commanded d z, entered.driven, sensed, monitor, fun dark => ?_⟩
    have epoch := epochs z
    rwa [EpochFollows, entered.authority, dark] at epoch
  · rw [enterService_input, inputs, State.enterService_config]
    rfl
  · rw [enterService_bit, enterService_inhibits, State.enterService_config]

/-- The decision to HALT leaves zones and inputs as they were. -/
theorem startUp_halted {s : State} (h : s.device = .starting) (halted : s.startUp.device = .halted) :
    s.startUp = s.withDecision s.store.read := by
  obtain ⟨device, -⟩ := startUp_recorded h
  rw [startUp_of_starting h, if_pos]
  exact device.symm.trans halted

/-- With every master DETACHED and every zone DARK, the decision tells no master and changes no session. -/
theorem startUp_idle {s : State} (h : s.device = .starting) (away : ∀ m : Master, s.sessions[m].standing = .detached)
    (dark : ∀ z : ZoneId, s.zones[z].authority = .dark) :
    s.startUp.sessions = s.sessions ∧ s.startUp.attention = s.attention ∧ s.startUp.changeSets = s.changeSets := by
  rw [startUp_of_starting h]
  split
  · exact ⟨rfl, rfl, rfl⟩
  · exact enterService_idle (s := s.withDecision s.store.read) away fun z =>
      (congrArg Authority.holder (dark z)).trans rfl

/-- Settles O43: the decision's record by the class of the store and the strap, and entry into service unless it is
HALTED. -/
theorem startUpDecidesByStrapAndStore : Obligations.StartUpDecidesByStrapAndStore := by
  intro s
  refine ⟨s.startUp, rfl, ?_⟩
  split
  next starting =>
    obtain ⟨device, config, source, startup, present⟩ := startUp_recorded starting
    refine ⟨?_, fun halted => ?_, startUp_entered starting, startUp_idle starting, startUp_frame s⟩
    · generalize s.startUp = t at device config source startup present
      rw [device, config, source, startup, present]
      cases s.store.read with
      | valid c marked => cases s.cfg <;> cases marked <;> exact ⟨rfl, rfl, rfl, rfl, rfl⟩
      | blank => cases s.cfg <;> exact ⟨rfl, rfl, rfl, rfl, rfl⟩
      | corrupt => cases s.cfg <;> exact ⟨rfl, rfl, rfl, rfl, rfl⟩
    · rw [startUp_halted starting halted]
      exact ⟨rfl, rfl, rfl, rfl, rfl⟩
  next other => exact startUp_of_ne other

end Sys2Proof.Machine


/-! PROOFS. READ CAPTURES (R141, R142, R145): what is unread by the serials of the ring. -/

namespace Sys2Proof.Machine

/-! ### The serials of the ring by place -/

theorem serialsTo_getElem {next : Serial} {l : List CaptureRecord} (h : serialsTo next l) {p : Nat}
    (hp : p < l.length) : l[p].serial = next - BitVec.ofNat 32 (l.length - p) := by
  induction l generalizing p with
  | nil => cases hp
  | cons r rest ih =>
    obtain ⟨first, others⟩ := h
    cases p with
    | zero => exact first
    | succ p =>
      have inside : p < rest.length := Nat.lt_of_succ_lt_succ hp
      rw [List.getElem_cons_succ, ih others inside, List.length_cons, Nat.add_sub_add_right]

/-- Dropping while the places are before `k` drops the first `k`. -/
theorem dropWhile_eq_drop {α : Type} {P : α → Bool} (l : List α) (k : Nat)
    (h : ∀ (p : Nat) (hp : p < l.length), P l[p] = decide (p < k)) : l.dropWhile P = l.drop k := by
  induction l generalizing k with
  | nil => simp
  | cons x rest ih =>
    have first := h 0 (Nat.zero_lt_succ _)
    cases k with
    | zero =>
      rw [List.dropWhile_cons_of_neg (by simpa using first)]
      rfl
    | succ k =>
      rw [List.dropWhile_cons_of_pos (by simpa using first), List.drop_succ_cons]
      refine ih k fun p hp => ?_
      have later := h (p + 1) (Nat.succ_lt_succ hp)
      simpa only [List.getElem_cons_succ, Nat.add_lt_add_iff_right] using later

/-- The place of a serial in a ring of at most 64 records that counts up to `next`. -/
theorem serialDistance_of_place {next oldest x : Serial} {length k : Nat} (hlen : length ≤ 64) (hk : k ≤ length)
    (ho : oldest = next - BitVec.ofNat 32 length) (hx : x = next - BitVec.ofNat 32 k) :
    serialDistance oldest x = length - k := by
  unfold serialDistance
  subst ho hx
  have hk' : (BitVec.ofNat 32 k).toNat = k := by rw [BitVec.toNat_ofNat]; omega
  have hl' : (BitVec.ofNat 32 length).toNat = length := by rw [BitVec.toNat_ofNat]; omega
  bv_omega

/-- The records that a cursor has not passed are the last ones, as many as its distance from the next serial. -/
theorem unread_eq_drop {s : State} (h : RingShape s) {m : Master} {cursor : Serial}
    (here : s.sessions[m].standing = .attached cursor) :
    s.unread cursor = s.ring.drop (s.ring.length - (s.nextSerial - cursor).toNat) := by
  obtain ⟨hlen, serials, cursors⟩ := h
  have hd := cursors m cursor here
  have place : cursor = s.nextSerial - BitVec.ofNat 32 (s.nextSerial - cursor).toNat := by
    rw [BitVec.ofNat_toNat, BitVec.setWidth_eq]
    bv_omega
  generalize (s.nextSerial - cursor).toNat = d at hd place ⊢
  unfold State.unread
  cases hr : s.ring with
  | nil => simp
  | cons r rest =>
    rw [hr] at hlen serials hd
    dsimp only
    have oldest : r.serial = s.nextSerial - BitVec.ofNat 32 (r :: rest).length := serials.1
    refine dropWhile_eq_drop (r :: rest) _ fun p hp => ?_
    rw [serialDistance_of_place hlen (Nat.sub_le _ p) oldest (serialsTo_getElem serials hp),
      serialDistance_of_place hlen hd oldest place]
    congr 1
    exact propext ⟨fun h => by omega, fun h => by omega⟩

/-- A cursor moves past as many records as are read. -/
theorem cursorPast_eq_add {s : State} (h : RingShape s) {m : Master} {cursor : Serial}
    (here : s.sessions[m].standing = .attached cursor) (n : Nat) :
    cursorPast cursor ((s.unread cursor).take n) =
      cursor + BitVec.ofNat 32 ((s.unread cursor).take n).length := by
  rw [unread_eq_drop h here]
  obtain ⟨hlen, serials, cursors⟩ := h
  have hd := cursors m cursor here
  have place : cursor = s.nextSerial - BitVec.ofNat 32 (s.nextSerial - cursor).toNat := by
    rw [BitVec.ofNat_toNat, BitVec.setWidth_eq]
    bv_omega
  generalize (s.nextSerial - cursor).toNat = d at hd place ⊢
  unfold cursorPast
  split
  next r last =>
    rw [List.getLast?_eq_getElem?] at last
    obtain ⟨inside, value⟩ := List.getElem?_eq_some_iff.mp last
    rw [List.getElem_take, List.getElem_drop] at value
    rw [← value, serialsTo_getElem serials, place]
    have some_read : ((s.ring.drop (s.ring.length - d)).take n).length ≤ d := by
      rw [List.length_take, List.length_drop]; omega
    clear value last
    generalize ((s.ring.drop (s.ring.length - d)).take n).length = k at inside some_read ⊢
    have bounded : s.ring.length ≤ 64 := hlen
    have back : s.ring.length - (s.ring.length - d + (k - 1)) = d - (k - 1) := by omega
    rw [back]
    have kept : (BitVec.ofNat 32 (d - (k - 1))).toNat = d - (k - 1) := by rw [BitVec.toNat_ofNat]; omega
    have total : (BitVec.ofNat 32 d).toNat = d := by rw [BitVec.toNat_ofNat]; omega
    have read : (BitVec.ofNat 32 k).toNat = k := by rw [BitVec.toNat_ofNat]; omega
    bv_omega
  next none =>
    rw [List.getLast?_eq_none_iff.mp none]
    simp

/-! ### READ CAPTURES -/

theorem readCaptures_state_sessions (s : State) (m : Master) (cursor : Serial) (n : Nat) :
    (s.readCaptures m cursor n).state.sessions =
      s.sessions.set m
        { s.sessions[m] with standing := .attached (cursorPast cursor ((s.unread cursor).take n)) } := by
  simp [State.readCaptures]

theorem readCaptures_freed (s : State) (m : Master) (cursor : Serial) (n : Nat) :
    RingFreed s (s.readCaptures m cursor n).state :=
  freeRing_freed
    (s.withSession m { s.sessions[m] with standing := .attached (cursorPast cursor ((s.unread cursor).take n)) })

theorem readCaptures_reply (s : State) (m : Master) (cursor : Serial) (n : Nat) :
    s.readCaptures m cursor n =
      (s.readCaptures m cursor n).state.reply
        (((s.unread cursor).take n).flatMap encodeCapture ++
          encodeSerial (cursorPast cursor ((s.unread cursor).take n)) ++ [byteOf ((s.unread cursor).drop n).length]) :=
  rfl

theorem OnlyPorts.sessions {u t : State} (h : OnlyPorts u t) : t.sessions = u.sessions := by rw [h]

theorem OnlyPorts.ring {u t : State} (h : OnlyPorts u t) : t.ring = u.ring := by rw [h]

theorem RingFreed.answered {s u t : State} (h : RingFreed s u) (k : OnlyPorts u t) : RingFreed s t := by
  rw [k]
  exact h

theorem readCaptures_answer_of_range {s : State} {m : Master} {n : Byte} {cursor : Serial}
    (here : s.sessions[m].standing = .attached cursor) (range : 1 ≤ n.toNat ∧ n.toNat ≤ 4) :
    answerOf .readCaptures m [n] s = s.readCaptures m cursor n.toNat := by
  have inside : ¬ (n.toNat < 1 ∨ 4 < n.toNat) := by omega
  simp only [answerOf, readCapturesAnswer, inside, if_false, here, Standing.cursor]

theorem readCaptures_answer_outside {s : State} {m : Master} {n : Byte} (range : ¬ (1 ≤ n.toNat ∧ n.toNat ≤ 4)) :
    answerOf .readCaptures m [n] s = s.refuse .range := by
  have outside : n.toNat < 1 ∨ 4 < n.toNat := by omega
  simp only [answerOf, readCapturesAnswer, outside, if_true]

/-- Settles O39: the unread records are the last of the ring by the law of the ring, and the cursor moves by as many as
are read. -/
theorem readCapturesMovesTheCursor : Obligations.ReadCapturesMovesTheCursor := by
  intro s m n cursor h here ring
  by_cases range : 1 ≤ n.toNat ∧ n.toNat ≤ 4
  · simp only [if_pos range]
    have answer := (readCaptures_answer_of_range here range).trans (readCaptures_reply s m cursor n.toNat)
    have frame := readCaptures_frame s m cursor n.toNat
    have sessions := readCaptures_state_sessions s m cursor n.toNat
    have freed := readCaptures_freed s m cursor n.toNat
    rw [cursorPast_eq_add ring.shape here] at answer sessions
    rw [← unread_eq_drop ring.shape here]
    generalize (s.readCaptures m cursor n.toNat).state = u at answer frame sessions freed
    generalize s.unread cursor = unread at answer sessions ⊢
    obtain ⟨t, ht, ports, answered⟩ :=
      exec_row_of_plain h rfl answer (by rw [frame]) (by rw [frame]) (by rw [frame])
    refine ⟨t, ht, by rw [ports, frame], fun k hk => ?_, ?_, freed.answered ports, ?_⟩
    · rw [ports.sessions, sessions, at_set_ne _ hk.symm]
    · rw [ports.sessions, sessions, at_set_self]
    · have left : (unread.drop n.toNat).length = unread.length - (unread.take n.toNat).length := by
        rw [List.length_drop, List.length_take]
        omega
      rwa [left] at answered
  · simp only [if_neg range]
    obtain ⟨t, ht, ports, answered, -⟩ := exec_row_of_plainRefuse h rfl (readCaptures_answer_outside range)
    exact ⟨t, ht, by rw [ports], fun k _ => by rw [ports.sessions], answered, ports.ring, ports.sessions⟩

end Sys2Proof.Machine


/-! PROOFS. The bytes of a zone configuration (R170, R177) and of a store image (R173) read back. -/

namespace Sys2Proof.Machine

/-! ### The items of a zone configuration -/

theorem masterOf_iff (b : Byte) (m : Master) : masterOf b = some m ↔ b = encodeMaster m := by
  unfold masterOf
  constructor
  · intro h
    split at h
    next inside =>
      cases h
      simp [encodeMaster, byteOf]
    next => cases h
  · rintro rfl
    have value : (encodeMaster m).toNat = m.val := by
      rw [encodeMaster, byteOf, BitVec.toNat_ofNat]
      omega
    simp only [value, m.isLt, dite_true]

theorem mapM_masterOf_iff (b : List Byte) (l : List Master) : b.mapM masterOf = some l ↔ b = l.map encodeMaster := by
  induction b generalizing l with
  | nil => cases l <;> simp
  | cons x b ih =>
    rw [List.mapM_cons]
    simp only [Option.pure_def, Option.bind_eq_bind, Option.bind_eq_some_iff, masterOf_iff, ih]
    constructor
    · rintro ⟨m, rfl, rest, rfl, h⟩
      cases h
      rfl
    · intro h
      cases l with
      | nil => cases h
      | cons m l =>
        obtain ⟨first, rest⟩ := List.cons.inj h
        exact ⟨m, first, l, rest, rfl⟩

theorem policyOf_iff (b : Byte) (p : HandoverPolicy) : policyOf b = some p ↔ b = p.code := by
  constructor
  · intro h
    unfold policyOf at h
    split_ifs at h with zero one
    all_goals cases h; assumption
  · rintro rfl
    cases p <;> rfl

theorem valueOf_iff (b : Byte) (v : Value) : valueOf b = some v ↔ b = encodeValue v := by
  constructor
  · intro h
    obtain ⟨small, rfl⟩ := valueOf_some h
    refine BitVec.eq_of_toNat_eq ?_
    simp only [encodeValue, BitVec.toNat_setWidth]
    omega
  · rintro rfl
    have small : (encodeValue v).toNat < 16 := by
      simp only [encodeValue, BitVec.toNat_setWidth]
      omega
    rw [valueOf, if_pos small]
    refine congrArg some (BitVec.eq_of_toNat_eq ?_)
    simp only [encodeValue, BitVec.toNat_setWidth]
    omega

/-! ### The succession list -/

/-- Three entries of which the first are the list's masters and the others FF hex. -/
theorem entries_of_counted {entries : List Byte} {k : Nat} {l : List Master} (three : entries.length = 3) (hk : k ≤ 3)
    (counted : entries.take k = l.map encodeMaster) (others : ∀ b ∈ entries.drop k, b = 0xFF) :
    l.length = k ∧ entries = (l.map encodeMaster ++ absent 3).take 3 := by
  have length : l.length = k := by
    have := congrArg List.length counted
    simp only [List.length_take, List.length_map, three] at this
    omega
  have rest : entries.drop k = absent (3 - k) := by
    refine List.eq_replicate_iff.mpr ⟨?_, others⟩
    rw [List.length_drop, three]
  refine ⟨length, ?_⟩
  rw [← List.take_append_drop k entries, counted, rest, List.take_append, List.length_map, length, List.take_of_length_le
    (by rw [List.length_map]; omega), absent, absent, List.take_replicate, Nat.min_eq_left (by omega)]

theorem successionOf_iff (count e0 e1 e2 : Byte) (l : List Master) :
    successionOf count e0 e1 e2 = some l ↔
      l.length ≤ 3 ∧ count = byteOf l.length ∧ [e0, e1, e2] = (l.map encodeMaster ++ absent 3).take 3 := by
  unfold successionOf
  have three : [e0, e1, e2].length = 3 := rfl
  generalize [e0, e1, e2] = entries at three
  constructor
  · intro h
    split at h
    next inside =>
      obtain ⟨hle, others⟩ := inside
      obtain ⟨length, whole⟩ := entries_of_counted three hle ((mapM_masterOf_iff _ _).mp h) (by simpa using others)
      exact ⟨by omega, by rw [length, byteOf, BitVec.ofNat_toNat, BitVec.setWidth_eq], whole⟩
    next => cases h
  · rintro ⟨short, rfl, rfl⟩
    have value : (byteOf l.length).toNat = l.length := by
      rw [byteOf, BitVec.toNat_ofNat]
      omega
    have counted : ((l.map encodeMaster ++ absent 3).take 3).take l.length = l.map encodeMaster := by
      rw [List.take_take, Nat.min_eq_left short]
      exact List.take_left' (by rw [List.length_map])
    have others : ((l.map encodeMaster ++ absent 3).take 3).drop l.length = absent (3 - l.length) := by
      rw [List.drop_take, List.drop_left' (by rw [List.length_map]), absent, absent, List.take_replicate,
        Nat.min_eq_left (by omega)]
    rw [value, counted, others, if_pos ⟨short, by simp [absent]⟩]
    exact (mapM_masterOf_iff _ _).mpr rfl

/-! ### A zone configuration -/

theorem narrow_wide (p : MasterSet) : (p.setWidth 8).setWidth 4 = p := by
  refine BitVec.eq_of_toNat_eq ?_
  simp only [BitVec.toNat_setWidth]
  omega

theorem wide_narrow {b : Byte} (h : b.toNat < 16) : (b.setWidth 4).setWidth 8 = b := by
  refine BitVec.eq_of_toNat_eq ?_
  simp only [BitVec.toNat_setWidth]
  omega

theorem wide_lt (p : MasterSet) : (p.setWidth 8).toNat < 16 := by
  simp only [BitVec.toNat_setWidth]
  omega

theorem succession_entries (l : List Master) :
    ∃ e0 e1 e2, (l.map encodeMaster ++ absent 3).take 3 = [e0, e1, e2] := by
  refine List.length_eq_three.mp ?_
  simp only [List.length_take, List.length_append, absent, List.length_replicate]
  omega

theorem zoneConfigOf_encode {c : ZoneConfig} (h : c.InRange) : zoneConfigOf (encodeZoneConfig c) = some c := by
  obtain ⟨e0, e1, e2, entries⟩ := succession_entries c.succession
  have list := (successionOf_iff (byteOf c.succession.length) e0 e1 e2 c.succession).mpr ⟨h.1, rfl, entries.symm⟩
  simp only [encodeZoneConfig, entries, List.cons_append, List.nil_append, zoneConfigOf, list, (valueOf_iff _ _).mpr rfl,
    (policyOf_iff _ _).mpr rfl, narrow_wide]
  rw [if_pos ⟨wide_lt _, h⟩]

theorem encode_zoneConfigOf {b : List Byte} {c : ZoneConfig} (h : zoneConfigOf b = some c) : encodeZoneConfig c = b := by
  unfold zoneConfigOf at h
  split at h
  next perm count e0 e1 e2 fb pol hto settle check =>
    split at h
    next list fallback policy hlist hfallback hpolicy =>
      dsimp only at h
      split at h
      next range =>
        cases h
        obtain ⟨-, hcount, entries⟩ := (successionOf_iff _ _ _ _ _).mp hlist
        rw [(valueOf_iff _ _).mp hfallback, (policyOf_iff _ _).mp hpolicy, hcount, encodeZoneConfig, ← entries,
          wide_narrow range.1]
        rfl
      next => cases h
    next => cases h
  next => cases h

theorem zoneConfigurationsEncodeAndDecode : Clauses.ZoneConfigurationsEncodeAndDecode :=
  ⟨fun _ range => zoneConfigOf_encode range, fun _ _ h => ⟨zoneConfigOf_inRange h, encode_zoneConfigOf h⟩⟩

/-! ### Items one after another -/

theorem readItems_flatMap {α : Type} {width : Nat} {f : List Byte → Option α} {enc : α → List Byte}
    (l : List α) (rest : List Byte) (h : ∀ x ∈ l, (enc x).length = width ∧ f (enc x) = some x) :
    readItems width f l.length (l.flatMap enc ++ rest) = some l := by
  induction l with
  | nil => rfl
  | cons x l ih =>
    obtain ⟨⟨width_eq, first⟩, others⟩ := List.forall_mem_cons.mp h
    rw [List.length_cons, readItems, List.flatMap_cons, List.append_assoc, List.take_left' width_eq,
      List.drop_left' width_eq, first, ih others]

theorem length_flatMap_of_width {α : Type} {width : Nat} {enc : α → List Byte} (l : List α)
    (h : ∀ x, (enc x).length = width) : (l.flatMap enc).length = l.length * width := by
  induction l with
  | nil => simp
  | cons x l ih => rw [List.flatMap_cons, List.length_append, h, ih, List.length_cons, Nat.succ_mul, Nat.add_comm]

/-- A vector's items in the order of its places are the vector. -/
theorem vectorOf_map {α : Type} {n : Nat} (v : Vector α n) {places : List (Fin n)} (all : places = List.finRange n) :
    vectorOf n (places.map fun i => v[i]) = some v := by
  subst all
  have length : ((List.finRange n).map fun i => v[i]).length = n := by simp
  rw [vectorOf, dif_pos length]
  refine congrArg some (Vector.ext fun i hi => ?_)
  simp

theorem allZones_eq : allZones = List.finRange 8 := by decide

theorem allInputs_eq : allInputs = List.finRange 8 := by decide

theorem allMasters_eq : allMasters = List.finRange 4 := by decide

/-! ### The store image -/

theorem length_encodeZoneConfig (c : ZoneConfig) : (encodeZoneConfig c).length = 10 := by
  obtain ⟨e0, e1, e2, entries⟩ := succession_entries c.succession
  rw [encodeZoneConfig, entries]
  rfl

theorem length_encodeInputConfig (c : InputConfig) : (encodeInputConfig c).length = 5 := rfl

/-- The three sections of the image body, each as the items of its part of the configuration. -/
def zoneBytes (c : WorkingConfig) : List Byte := (allZones.map fun z => c.zones[z]).flatMap encodeZoneConfig

def inputBytes (c : WorkingConfig) : List Byte := (allInputs.map fun i => c.inputs[i]).flatMap encodeInputConfig

def policyBytes (c : WorkingConfig) : List Byte :=
  (allMasters.map fun m => c.strictness[m]).flatMap fun mode => [mode.code]

theorem imageBody_eq (c : WorkingConfig) (marked : Bool) :
    imageBody c marked = zoneBytes c ++ (inputBytes c ++ (policyBytes c ++ [yesNo marked])) := by
  simp only [imageBody, zoneBytes, inputBytes, policyBytes, List.flatMap_map, List.append_assoc]
  rw [List.map_eq_flatMap]

theorem length_zoneBytes (c : WorkingConfig) : (zoneBytes c).length = 80 :=
  length_flatMap_of_width _ length_encodeZoneConfig

theorem length_inputBytes (c : WorkingConfig) : (inputBytes c).length = 40 :=
  length_flatMap_of_width _ length_encodeInputConfig

theorem length_policyBytes (c : WorkingConfig) : (policyBytes c).length = 4 :=
  length_flatMap_of_width (width := 1) (enc := fun mode : Mode => [mode.code]) _ fun _ => rfl

theorem length_imageBody (c : WorkingConfig) (marked : Bool) : (imageBody c marked).length = 125 := by
  simp only [imageBody_eq, List.length_append, length_zoneBytes, length_inputBytes, length_policyBytes,
    List.length_cons, List.length_nil]

theorem readBody_imageBody {c : WorkingConfig} (marked : Bool) (range : c.InRange) :
    readBody (imageBody c marked) = some (c, marked) := by
  have zones : ∀ rest, readItems 10 zoneConfigOf 8 (zoneBytes c ++ rest) = some (allZones.map fun z => c.zones[z]) :=
    fun rest => readItems_flatMap (allZones.map fun z => c.zones[z]) rest fun x hx => by
      obtain ⟨z, -, rfl⟩ := List.mem_map.mp hx
      exact ⟨length_encodeZoneConfig _, zoneConfigOf_encode (range z)⟩
  have inputs : ∀ rest, readItems 5 inputConfigOf 8 (inputBytes c ++ rest) = some (allInputs.map fun i => c.inputs[i]) :=
    fun rest => readItems_flatMap (allInputs.map fun i => c.inputs[i]) rest fun x _ => ⟨length_encodeInputConfig x, inputConfigOf_encode x⟩
  have policies : ∀ rest, readItems 1 strictnessOf 4 (policyBytes c ++ rest) =
      some (allMasters.map fun m => c.strictness[m]) :=
    fun rest => readItems_flatMap (allMasters.map fun m => c.strictness[m]) rest fun x _ => ⟨rfl, (modeOf_iff _ _).mpr rfl⟩
  have drop80 : (imageBody c marked).drop 80 = inputBytes c ++ (policyBytes c ++ [yesNo marked]) := by
    rw [imageBody_eq, List.drop_left' (length_zoneBytes c)]
  have drop120 : (imageBody c marked).drop 120 = policyBytes c ++ [yesNo marked] := by
    rw [← List.drop_drop (i := 40) (j := 80), drop80, List.drop_left' (length_inputBytes c)]
  have drop124 : (imageBody c marked).drop 124 = [yesNo marked] := by
    rw [← List.drop_drop (i := 4) (j := 120), drop120, List.drop_left' (length_policyBytes c)]
  have mark : boolOf (yesNo marked) = some marked := (boolOf_iff _ _).mpr rfl
  rw [readBody, drop80, drop120, drop124, imageBody_eq, zones, inputs, policies]
  simp only [Option.bind_some, List.head?_cons, mark, vectorOf_map c.zones allZones_eq,
    vectorOf_map c.inputs allInputs_eq, vectorOf_map c.strictness allMasters_eq]

/-- The commissioned mark tells an image from a BLANK store. -/
theorem imageOf_not_blank (c : WorkingConfig) (marked : Bool) : imageOf c marked ≠ List.replicate imageLength 0xFF := by
  intro blank
  have drop124 := congrArg (fun l => (l.drop 124).head?) blank
  have body : (imageOf c marked).drop 124 =
      yesNo marked :: bytesOf 2 (crc16 (imageBody c marked)).toNat := by
    have front : (zoneBytes c ++ (inputBytes c ++ policyBytes c)).length = 124 := by
      simp only [List.length_append, length_zoneBytes, length_inputBytes, length_policyBytes]
    have split_image : imageOf c marked =
        (zoneBytes c ++ (inputBytes c ++ policyBytes c)) ++
          (yesNo marked :: bytesOf 2 (crc16 (imageBody c marked)).toNat) := by
      simp only [imageOf, imageBody_eq, List.append_assoc, List.cons_append, List.nil_append]
    rw [split_image, List.drop_left' front]
  simp only [body, List.head?_cons, imageLength, List.drop_replicate] at drop124
  cases marked <;> revert drop124 <;> decide

theorem storeImageReadsBack : Clauses.StoreImageReadsBack := by
  intro c marked range
  have length : (imageOf c marked).length = imageLength := by
    rw [imageOf, List.length_append, length_imageBody, length_bytesOf]
    rfl
  have check : (imageOf c marked).drop 125 = bytesOf 2 (crc16 (imageBody c marked)).toNat :=
    List.drop_left' (length_imageBody c marked)
  have body : (imageOf c marked).take 125 = imageBody c marked := List.take_left' (length_imageBody c marked)
  rw [readImage, if_neg (imageOf_not_blank c marked), body, if_pos ⟨length, check⟩, readBody_imageBody marked range]

/-- Settles O59: each item of a configuration is read back from its bytes, and the items stand at their places in the
image. -/
theorem configurationsReadBack : Obligations.ConfigurationsReadBack :=
  ⟨zoneConfigurationsEncodeAndDecode, storeImageReadsBack⟩

end Sys2Proof.Machine


/-! PROOFS. What closes a microsecond (R86, R96): what its events can reach, and the inputs that it leaves (R135, R137). -/

namespace Sys2Proof.Machine

/-! ### What the closing events reach -/

/-- What the due event and the expiries of timers reach. -/
def AtExpiry (s t : State) : Prop :=
  t = { s with zones := t.zones, changeSets := t.changeSets, sessions := t.sessions, attention := t.attention,
               queue := t.queue, ring := t.ring }

/-- What the samples, the recognitions and the expiries of a microsecond reach. -/
def AtClose (s t : State) : Prop :=
  t = { s with zones := t.zones, changeSets := t.changeSets, sessions := t.sessions, attention := t.attention,
               queue := t.queue, ring := t.ring, inputs := t.inputs, nextSerial := t.nextSerial }

theorem AtExpiry.trans {s t u : State} (h : AtExpiry s t) (k : AtExpiry t u) : AtExpiry s u := by
  rw [AtExpiry, k, h]

theorem AtClose.trans {s t u : State} (h : AtClose s t) (k : AtClose t u) : AtClose s u := by
  rw [AtClose, k, h]

theorem AtClose.config {s t : State} (h : AtClose s t) : t.config = s.config := by rw [h]

theorem AtClose.timeCount {s t : State} (h : AtClose s t) : t.timeCount = s.timeCount := by rw [h]

theorem AtExpiry.close {s t : State} (h : AtExpiry s t) : AtClose s t := by
  rw [AtClose, h]

theorem AtExpiry.fold {α : Type} {f : State → α → State} (hf : ∀ s a, AtExpiry s (f s a)) (l : List α) (s : State) :
    AtExpiry s (l.foldl f s) := by
  induction l generalizing s with
  | nil => rfl
  | cons a l ih => exact (hf s a).trans (ih _)

theorem AtClose.fold {α : Type} {f : State → α → State} (hf : ∀ s a, AtClose s (f s a)) (l : List α) (s : State) :
    AtClose s (l.foldl f s) := by
  induction l generalizing s with
  | nil => rfl
  | cons a l ih => exact (hf s a).trans (ih _)

theorem handoverTimeout_atExpiry (s : State) (z : ZoneId) : AtExpiry s (s.handoverTimeout z) := by
  unfold State.handoverTimeout
  split
  · split
    · split
      · unfold AtExpiry State.preempt State.transferTo; ext1 <;> simp
      · unfold AtExpiry State.timeOutRequest State.endRequest; ext1 <;> simp
    · rfl
  · rfl

theorem settleExpiry_atExpiry (s : State) (z : ZoneId) : AtExpiry s (s.settleExpiry z) := by
  unfold State.settleExpiry
  split
  · split
    · unfold AtExpiry State.grant; ext1 <;> simp
    · rfl
  · rfl

theorem faultZone_atExpiry (s : State) (z : ZoneId) : AtExpiry s (s.faultZone z) := by
  unfold AtExpiry; ext1 <;> simp

theorem checkExpiry_atExpiry (s : State) (z : ZoneId) : AtExpiry s (s.checkExpiry z) := by
  unfold State.checkExpiry
  split
  · exact faultZone_atExpiry s z
  · rfl

theorem windowOpen_atExpiry (s : State) (m : Master) : AtExpiry s (s.windowOpen m) := by
  unfold State.windowOpen
  split
  · split <;> rfl
  · rfl

theorem revoke_atExpiry (s : State) (m : Master) (reason : RevokeReason) : AtExpiry s (s.revoke m reason) := by
  unfold AtExpiry
  rw [revoke_frame]

theorem recordStrike_atExpiry (s : State) (m : Master) : AtExpiry s (s.recordStrike m) := by
  unfold AtExpiry; ext1 <;> simp

theorem withTimer_atExpiry (s : State) (m : Master) (u : SupervisionTimer) : AtExpiry s (s.withTimer m u) := rfl

theorem supervisionExpiry_atExpiry (s : State) (m : Master) : AtExpiry s (s.supervisionExpiry m) := by
  unfold State.supervisionExpiry
  split
  · unfold State.supervisionFailure
    split
    · exact revoke_atExpiry s m _
    · exact revoke_atExpiry s m _
    · split
      · exact revoke_atExpiry s m _
      · exact (recordStrike_atExpiry s m).trans (withTimer_atExpiry _ m _)
    · rfl
  · rfl

theorem zoneTimersDue_atExpiry (s : State) (z : ZoneId) : AtExpiry s (s.zoneTimersDue z) :=
  ((handoverTimeout_atExpiry s z).trans (settleExpiry_atExpiry _ z)).trans (checkExpiry_atExpiry _ z)

theorem masterTimerDue_atExpiry (s : State) (m : Master) : AtExpiry s (s.masterTimerDue m) :=
  (windowOpen_atExpiry s m).trans (supervisionExpiry_atExpiry _ m)

theorem dueEvent_atExpiry (s : State) : AtExpiry s s.dueEvent := by
  unfold AtExpiry; ext1 <;> simp

/-- After the recognitions the closing events reach no input. -/
theorem takeDue_atExpiry (s : State) : AtExpiry (allInputs.foldl State.recogniseDue s) s.takeDue :=
  ((dueEvent_atExpiry _).trans (.fold zoneTimersDue_atExpiry _ _)).trans (.fold masterTimerDue_atExpiry _ _)

theorem recogniseDue_atClose (s : State) (i : InputId) : AtClose s (s.recogniseDue i) := by
  unfold State.recogniseDue AtClose
  split
  · rw [firstRecognition_frame]
  · rw [recognisedChange_frame]

theorem closeSampling_atClose (s : State) : AtClose s s.closeSampling :=
  (AtClose.fold (f := State.closingSample) (fun _ _ => rfl) allInputs s).trans
    (.fold (f := State.closingSense) (fun _ _ => rfl) allZones _)

theorem takeDue_atClose (s : State) : AtClose s s.takeDue :=
  (AtClose.fold recogniseDue_atClose allInputs s).trans (takeDue_atExpiry s).close

theorem close_atClose (s : State) : AtClose s s.closeSampling.takeDue :=
  (closeSampling_atClose s).trans (takeDue_atClose _)

/-! ### Folds that establish a property at one place and keep it at the others -/

theorem foldl_establishes {α : Type} {I P : State → Prop} {f : State → α → State} {l : List α} {a : α} (ha : a ∈ l)
    (inv : ∀ s x, I s → I (f s x)) (est : ∀ s, I s → P (f s a)) (keep : ∀ s x, P s → P (f s x)) {s : State} (h : I s) :
    P (l.foldl f s) := by
  induction l generalizing s with
  | nil => cases ha
  | cons x l ih =>
    by_cases later : a ∈ l
    · exact ih later (inv s x h)
    · obtain rfl : a = x := (List.mem_cons.mp ha).resolve_right later
      exact foldl_preserves keep l (est s h)

/-! ### The inputs -/

/-- The sample of the count value has been taken: another changes nothing. -/
def Sampled (s : State) (i : InputId) : Prop :=
  s.inputs[i].live.sample s.timeCount s.inputs[i].raw = s.inputs[i].live

theorem Sampled.congr {s t : State} {i : InputId} (h : Sampled s i) (hi : t.inputs = s.inputs)
    (ht : t.timeCount = s.timeCount) : Sampled t i := by
  rwa [Sampled, hi, ht]

theorem sample_twice (now : TimeCount) (raw : Level) (l : InputLive) :
    (l.sample now raw).sample now raw = l.sample now raw := by
  cases l with
  | disabled => rfl
  | establishing progress =>
    rw [sample_of_establishing, sample_of_establishing]
    simp only [stoodSince, if_true]
  | tracking recognised progress =>
    by_cases same : raw = recognised
    · subst same
      rw [sample_of_same, sample_of_same]
    · obtain rfl : raw = Level.other recognised := by
        revert same
        cases raw <;> cases recognised <;> decide
      rw [sample_of_other, sample_of_other]
      rfl

theorem closingSample_input (s : State) (i j : InputId) :
    (State.closingSample s i).inputs[j] =
      if i = j then ⟨s.inputs[i].raw, s.inputs[i].live.sample s.timeCount s.inputs[i].raw⟩ else s.inputs[j] :=
  at_set _ _ _ _

theorem closingSamples_sampled (s : State) (i : InputId) : Sampled (allInputs.foldl State.closingSample s) i := by
  have own : ∀ u : State, Sampled (State.closingSample u i) i := fun u => by
    rw [Sampled, closingSample_input, if_pos rfl]
    exact sample_twice _ _ _
  have kept : ∀ (u : State) (j : InputId), Sampled u i → Sampled (State.closingSample u j) i := fun u j h => by
    by_cases same : j = i
    · rw [same]; exact own u
    · rw [Sampled, closingSample_input, if_neg same]
      exact h
  exact foldl_establishes (I := fun _ => True) (P := fun u => Sampled u i) (mem_allInputs i) (fun _ _ h => h)
    (fun u _ => own u) kept trivial

theorem closeSampling_sampled (s : State) (i : InputId) : Sampled s.closeSampling i := by
  have sensed := AtClose.fold (f := State.closingSense) (fun _ _ => rfl) allZones (allInputs.foldl State.closingSample s)
  refine (closingSamples_sampled s i).congr ?_ sensed.timeCount
  exact foldl_keeps State.inputs State.closingSense (fun _ _ => rfl) allZones _

/-- No level of the input has stood for its filter time, and one has been sampled where it is ESTABLISHING. -/
def InputAhead (s : State) (i : InputId) : Prop :=
  s.inputs[i].live ≠ .establishing none ∧
    (∀ (level : Level) (since : TimeCount), s.inputs[i].live = .establishing (some (level, since)) →
      (s.timeCount - since).toNat < s.config.inputs[i].filterTime.toNat * 10) ∧
    ∀ (level : Level) (since : TimeCount), s.inputs[i].live = .tracking level (some since) →
      (s.timeCount - since).toNat < s.config.inputs[i].filterTime.toNat * 10

theorem InputAhead.congr {s t : State} {i : InputId} (h : InputAhead s i) (hi : t.inputs[i] = s.inputs[i])
    (hc : t.config = s.config) (ht : t.timeCount = s.timeCount) : InputAhead t i := by
  rwa [InputAhead, hi, hc, ht]

theorem InputAhead.of_recognised {s : State} {i : InputId} {level : Level} (h : s.inputs[i].live = .tracking level none) :
    InputAhead s i := by
  simp [-Fin.getElem_fin, InputAhead, h]

theorem InputAhead.of_disabled {s : State} {i : InputId} (h : s.inputs[i].live = .disabled) : InputAhead s i := by
  simp [-Fin.getElem_fin, InputAhead, h]

/-- A recognition sets one input. -/
theorem refresh_recognise_input (s : State) (i j : InputId) (level : Level) :
    ((s.recognise i level).refresh i).inputs[j] =
      if i = j then ⟨s.inputs[i].raw, .tracking level none⟩ else s.inputs[j] := by
  rw [State.refresh_inputs, recognise_inputs, at_set]

theorem recogniseChange_input (s : State) (i j : InputId) (level : Level) :
    (s.recogniseChange i level).inputs[j] =
      if i = j then ⟨s.inputs[i].raw, .tracking level none⟩ else s.inputs[j] := by
  have inputs : (s.recogniseChange i level).inputs = (s.recognise i level).inputs := by
    unfold State.recogniseChange
    dsimp only
    split
    · rw [State.refresh_inputs, State.appendCapture_inputs]
    · rw [State.refresh_inputs]
  rw [inputs, recognise_inputs, at_set]

/-- What a due recognition makes of a sampled input: nothing is due of it after that, and the other inputs are as they
were. -/
theorem recogniseDue_input {s : State} {i : InputId} (sampled : Sampled s i) :
    InputAhead (s.recogniseDue i) i ∧ Sampled (s.recogniseDue i) i ∧
      ∀ j, j ≠ i → (s.recogniseDue i).inputs[j] = s.inputs[j] := by
  unfold State.recogniseDue
  cases live : s.inputs[i].live with
  | disabled =>
    have idle : s.recognisedChange i = s := recognisedChange_of_untracked fun r p h => by rw [live] at h; cases h
    rw [idle]
    exact ⟨.of_disabled live, sampled, fun _ _ => rfl⟩
  | establishing progress =>
    have stood : progress = some (s.inputs[i].raw, stoodSince s.timeCount s.inputs[i].raw progress) := by
      rw [Sampled, live, sample_of_establishing] at sampled
      exact (InputLive.establishing.inj sampled).symm
    dsimp only
    rw [firstRecognition_of_establishing live]
    generalize stoodSince s.timeCount s.inputs[i].raw progress = since at stood
    subst stood
    split_ifs with due
    · have input := refresh_recognise_input s i i s.inputs[i].raw
      rw [if_pos rfl] at input
      refine ⟨.of_recognised (by rw [input]), ?_, fun j hj => by rw [refresh_recognise_input, if_neg hj.symm]⟩
      rw [Sampled, input]
      exact sample_of_same _ _ _
    · refine ⟨⟨by rw [live]; simp, fun level began h => ?_, fun level began h => ?_⟩, sampled, fun _ _ => rfl⟩
      · rw [live] at h
        cases h
        omega
      · rw [live] at h
        cases h
  | tracking recognised progress =>
    dsimp only
    by_cases same : s.inputs[i].raw = recognised
    · rw [recognisedChange_of_same_level live same]
      have none_stood : progress = none := by
        rw [Sampled, live, same, sample_of_same] at sampled
        exact (InputLive.tracking.inj sampled).2.symm
      exact ⟨.of_recognised (live.trans (by rw [none_stood])), sampled, fun _ _ => rfl⟩
    · have other : s.inputs[i].raw = Level.other recognised := by
        revert same
        cases s.inputs[i].raw <;> cases recognised <;> decide
      have stood : progress = some (progress.getD s.timeCount) := by
        rw [Sampled, live, other, sample_of_other] at sampled
        exact (InputLive.tracking.inj sampled).2.symm
      rw [recognisedChange_of_other_level live other]
      generalize progress.getD s.timeCount = since at stood
      subst stood
      split_ifs with due
      · have input := recogniseChange_input s i i (Level.other recognised)
        rw [if_pos rfl] at input
        refine ⟨.of_recognised (by rw [input]), ?_, fun j hj => by rw [recogniseChange_input, if_neg hj.symm]⟩
        rw [Sampled, input, other]
        exact sample_of_same _ _ _
      · refine ⟨⟨by rw [live]; simp, fun level began h => ?_, fun level began h => ?_⟩, sampled, fun _ _ => rfl⟩
        · rw [live] at h
          cases h
        · rw [live] at h
          cases h
          omega

/-- After the recognitions of a microsecond nothing is due of any input. -/
theorem recogniseAll_ahead {s : State} (sampled : ∀ i, Sampled s i) (i : InputId) :
    InputAhead (allInputs.foldl State.recogniseDue s) i := by
  have inv : ∀ u j, (∀ k, Sampled u k) → ∀ k, Sampled (State.recogniseDue u j) k := by
    intro u j hu k
    obtain ⟨-, own, others⟩ := recogniseDue_input (hu j)
    by_cases hk : k = j
    · rw [hk]; exact own
    · rw [Sampled, others k hk, (recogniseDue_atClose u j).timeCount]
      exact hu k
  have both : (∀ k, Sampled (allInputs.foldl State.recogniseDue s) k) ∧
      InputAhead (allInputs.foldl State.recogniseDue s) i := by
    refine foldl_establishes (I := fun u => ∀ k, Sampled u k) (P := fun u => (∀ k, Sampled u k) ∧ InputAhead u i)
      (mem_allInputs i) inv (fun u hu => ⟨inv u i hu, (recogniseDue_input (hu i)).1⟩) (fun u j h => ⟨inv u j h.1, ?_⟩)
      sampled
    obtain ⟨own, -, others⟩ := recogniseDue_input (h.1 j)
    by_cases hi : i = j
    · rw [hi]; exact own
    · exact h.2.congr (others i hi) (recogniseDue_atClose u j).config (recogniseDue_atClose u j).timeCount
  exact both.2

theorem AtExpiry.inputs {s t : State} (h : AtExpiry s t) : t.inputs = s.inputs := by rw [h]

/-- The closing of a microsecond leaves nothing due of any input. -/
theorem close_inputAhead (s : State) (i : InputId) : InputAhead s.closeSampling.takeDue i := by
  have recognised := recogniseAll_ahead (closeSampling_sampled s) i
  have reached := takeDue_atExpiry s.closeSampling
  exact recognised.congr (by rw [reached.inputs]) reached.close.config reached.close.timeCount

end Sys2Proof.Machine


/-! PROOFS. The handover and settle timers at the close of a microsecond (R47, R73): every one that an effect sets begins
at the present count value, so that one still running afterwards is short of its end. -/

namespace Sys2Proof.Machine

/-! ### Every timer of a zone that is set begins now -/

/-- The timer of the state, if it has one, began at this count value. -/
def BegunAt (now : TimeCount) : Authority → Prop
  | .settling c => c.since = now
  | .transfer _ p => p.since = now
  | _ => True

/-- The authority is as it was, or begins its timer now. -/
def Begins (s : State) (z : ZoneId) (a : Authority) : Prop := a = s.zones[z].authority ∨ BegunAt s.timeCount a

theorem settledBy_begunAt (s : State) (z : ZoneId) (k : Nat) : BegunAt s.timeCount (settledBy (s.choose z k)) := by
  unfold State.choose
  split
  · rfl
  · trivial

theorem endedAuthority_begins (s : State) (m : Master) (z : ZoneId) : Begins s z (s.endedAuthority m z) := by
  unfold Begins State.endedAuthority
  cases s.zones[z].authority with
  | held h =>
    dsimp only
    split_ifs
    · exact .inr (settledBy_begunAt s z 0)
    · exact .inl rfl
  | transfer h p =>
    dsimp only
    split_ifs
    · exact .inr rfl
    · exact .inr trivial
    · exact .inl rfl
  | settling c =>
    dsimp only
    split_ifs
    · exact .inr (settledBy_begunAt s z _)
    · exact .inl rfl
  | _ => exact .inl rfl

theorem struckAuthority_begins (s : State) (m : Master) (z : ZoneId) : Begins s z (s.struckAuthority m z) := by
  unfold Begins State.struckAuthority
  cases s.zones[z].authority with
  | transfer h p =>
    dsimp only
    split_ifs
    · exact .inr trivial
    · exact .inl rfl
  | settling c =>
    dsimp only
    split_ifs
    · exact .inr (settledBy_begunAt s z _)
    · exact .inl rfl
  | _ => exact .inl rfl

theorem change_begunAt {s : State} {z : ZoneId} {a : Authority} {v : Value} (c : Change s z a v) :
    BegunAt s.timeCount a := by
  cases c with
  | ask h p held fit other begun => exact begun
  | _ => trivial

/-- What an effect makes of a zone's authority: what it was, or one whose timer begins now. -/
theorem Effect.begins {s t : State} (made : Effect s t) (z : ZoneId) : Begins s z t.zones[z].authority := by
  have kept : ∀ {u : State}, u.zones = s.zones → Begins s z u.zones[z].authority := fun hu => .inl (by rw [hu])
  cases made with
  | follow _ f => exact kept f.zones
  | move y a v _ c f _ =>
    rw [f.zones, setAuthority_authority]
    split
    next same => exact .inr (change_begunAt c)
    next => exact .inl rfl
  | acknowledge m named _ => exact kept (by rw [acknowledge_frame])
  | readCaptures m c n _ => exact kept (by rw [readCaptures_frame])
  | detach m _ =>
    cases here : s.isAttached m with
    | true =>
      have ended := ((detach_ends here).1 z).1
      rw [ended]
      exact endedAuthority_begins (s.withSession m { s.sessions[m] with standing := .detached }) m z
    | false => exact kept (detach_away here).1
  | park m _ _ => exact kept (by rw [park_frame])
  | unpark m k _ => exact kept (by rw [unpark_frame])
  | revoke m r _ =>
    rw [((revoke_spec m r s).1.1 z).1]
    exact endedAuthority_begins (s.withRevoked m r) m z
  | strike m _ =>
    rw [recordStrike_authority]
    exact struckAuthority_begins (s.withStrike m) m z
  | expire m _ _ _ =>
    have zones : ((s.recordStrike m).withTimer m (.running s.timeCount)).zones = (s.recordStrike m).zones := by simp
    rw [zones, recordStrike_authority]
    exact struckAuthority_begins (s.withStrike m) m z
  | setOutput y m v _ _ => exact .inl (setCommanded_authority s y z v)
  | sense y v => exact .inl (sensedChange_authority s y z v)
  | due =>
    rw [dueEvent_zone, faultOvertaken_eq]
    split
    · rw [faultZone_authority]
      exact .inr trivial
    · exact .inl (takeDueEntries_authority s z)
  | establish i level _ _ => exact .inl (refresh_authority (s.recognise i level) i z)
  | change i level _ _ _ =>
    unfold State.recogniseChange
    rw [refresh_authority]
    refine .inl ?_
    split
    · simp [State.recognise]
    · rfl
  | writeZoneConfig y c _ _ => exact .inl (writeZoneConfig_authority s y z c)
  | writeInputConfig i c _ => exact .inl (refresh_authority ((s.withInputConfig i c).establish i) i z)
  | storeFailed m image _ => exact kept (by simp)
  | startUp device =>
    rw [startUp_of_starting device]
    split
    · exact .inl rfl
    · rw [enterService_authority]
      exact .inr trivial
  | _ =>
    refine kept ?_
    simp [State.setEnables, State.attach, State.supervise, State.writeSteps, State.withStrictness, State.commit]

/-! ### The timer short of its end -/

/-- The settle or handover timer of the state, if it has one of a length, is short of its end. -/
def TimerAhead (now : TimeCount) : Authority → Prop
  | .settling c => 0 < c.settle.toNat → (now - c.since).toNat < c.settle.toNat * 10000
  | .transfer _ p => 0 < p.timeout.toNat → (now - p.since).toNat < p.timeout.toNat * 10000
  | _ => True

theorem elapsed_now (now : TimeCount) : (now - now).toNat = 0 := by
  rw [BitVec.sub_self]
  rfl

theorem BegunAt.ahead {now : TimeCount} {a : Authority} (h : BegunAt now a) : TimerAhead now a := by
  cases a with
  | settling c =>
    intro long
    rw [show c.since = now from h, elapsed_now]
    omega
  | transfer _ p =>
    intro long
    rw [show p.since = now from h, elapsed_now]
    omega
  | _ => trivial

/-- At this count value the zone's timer is short of its end. -/
def ZoneAhead (now : TimeCount) (z : ZoneId) (s : State) : Prop :=
  s.timeCount = now ∧ TimerAhead now s.zones[z].authority

theorem zoneAhead_kept (now : TimeCount) (z : ZoneId) : KeptByEffects (ZoneAhead now z) := by
  rintro s t ⟨rfl, ahead⟩ made
  refine ⟨made.timeCount, ?_⟩
  obtain same | begun := made.begins z
  · rw [same]; exact ahead
  · exact begun.ahead

theorem preempt_authority (s : State) (z : ZoneId) (h r : Master) :
    (s.preempt z h r).zones[z].authority = .held r := by
  have zones : (s.preempt z h r).zones = (s.setAuthority z (.held r) s.zones[z].commanded).zones := by
    simp [State.preempt, State.transferTo]
  rw [zones, setAuthority_authority, if_pos rfl]

theorem timeOutRequest_authority (s : State) (z : ZoneId) (h r : Master) :
    (s.timeOutRequest z h r).zones[z].authority = .held h := by
  have zones : (s.timeOutRequest z h r).zones = (s.setAuthority z (.held h) s.zones[z].commanded).zones := by
    simp [State.timeOutRequest, State.endRequest]
  rw [zones, setAuthority_authority, if_pos rfl]

theorem grant_authority (s : State) (z : ZoneId) (m : Master) : (s.grant z m).zones[z].authority = .held m := by
  have zones : (s.grant z m).zones = (s.setAuthority z (.held m) (s.fallback z)).zones := by simp [State.grant]
  rw [zones, setAuthority_authority, if_pos rfl]

/-- A request at its timeout is ended: the zone is HELD. -/
theorem handoverTimeout_of_due {s : State} {z : ZoneId} {h : Master} {p : Pending}
    (asked : s.zones[z].authority = .transfer h p) (due : p.timeout.toNat * 10000 ≤ (s.timeCount - p.since).toNat) :
    ∃ m, (s.handoverTimeout z).zones[z].authority = .held m := by
  cases policy : s.config.zones[z].policy with
  | preempt => exact ⟨_, by rw [handoverTimeout_of_preempt asked due policy, preempt_authority]⟩
  | yieldOnly => exact ⟨_, by rw [handoverTimeout_of_yieldOnly asked due policy, timeOutRequest_authority]⟩

/-- After the events of a zone's handover and settle timers neither stands at its end. -/
theorem zoneTimers_ahead (s : State) (z : ZoneId) :
    TimerAhead s.timeCount ((s.handoverTimeout z).settleExpiry z).zones[z].authority := by
  cases authority : s.zones[z].authority with
  | transfer h p =>
    by_cases due : p.timeout.toNat * 10000 ≤ (s.timeCount - p.since).toNat
    · obtain ⟨m, held⟩ := handoverTimeout_of_due authority due
      rw [settleExpiry_of_not_settling (fun c => by rw [held]; simp), held]
      trivial
    · rw [handoverTimeout_of_early authority due,
        settleExpiry_of_not_settling (fun c => by rw [authority]; simp), authority]
      intro _
      omega
  | settling c =>
    rw [handoverTimeout_of_not_transfer (fun k p => by rw [authority]; simp)]
    by_cases due : c.settle.toNat * 10000 ≤ (s.timeCount - c.since).toNat
    · rw [settleExpiry_of_due authority due, grant_authority]
      trivial
    · rw [settleExpiry_of_early authority due, authority]
      intro _
      omega
  | _ =>
    rw [handoverTimeout_of_not_transfer (fun k p => by rw [authority]; simp),
      settleExpiry_of_not_settling (fun c => by rw [authority]; simp), authority]
    trivial

theorem zoneTimersDue_ahead (s : State) (z : ZoneId) : ZoneAhead s.timeCount z (s.zoneTimersDue z) :=
  zoneAhead_kept s.timeCount z _ _
    ⟨((handoverTimeout_atExpiry s z).trans (settleExpiry_atExpiry _ z)).close.timeCount, zoneTimers_ahead s z⟩
    (checkExpiry_effect _ z)

/-- What holds of a zone once its timers' events are taken, and is kept by the timers' events of the other zones and of
the masters, holds when all are taken. -/
theorem timersDue_zone {I P : State → Prop} (z : ZoneId) (inv : ∀ s y, I s → I (State.zoneTimersDue s y))
    (est : ∀ s, I s → P (State.zoneTimersDue s z)) (zones : ∀ s y, P s → P (State.zoneTimersDue s y))
    (masters : ∀ s m, P s → P (State.masterTimerDue s m)) {s : State} (h : I s) :
    P (allMasters.foldl State.masterTimerDue (allZones.foldl State.zoneTimersDue s)) :=
  foldl_preserves masters allMasters (foldl_establishes (mem_allZones z) inv est zones h)

theorem takeDue_eq (s : State) :
    s.takeDue =
      allMasters.foldl State.masterTimerDue
        (allZones.foldl State.zoneTimersDue (allInputs.foldl State.recogniseDue s).dueEvent) := rfl

/-- The state in which the timers' events of a microsecond are taken. -/
theorem atTimers_timeCount (s : State) :
    (allInputs.foldl State.recogniseDue s.closeSampling).dueEvent.timeCount = s.timeCount :=
  (((closeSampling_atClose s).trans (.fold recogniseDue_atClose allInputs _)).trans
    (dueEvent_atExpiry _).close).timeCount

theorem close_zoneAhead (s : State) (z : ZoneId) : ZoneAhead s.timeCount z s.closeSampling.takeDue := by
  rw [takeDue_eq]
  exact timersDue_zone (I := fun u => u.timeCount = s.timeCount) z
    (fun u y h => (zoneTimersDue_atExpiry u y).close.timeCount.trans h)
    (fun u h => by rw [← h]; exact zoneTimersDue_ahead u z)
    (fun _ y h => (zoneAhead_kept s.timeCount z).zoneTimersDue y h)
    (fun _ m h => (zoneAhead_kept s.timeCount z).masterTimerDue m h) (atTimers_timeCount s)

end Sys2Proof.Machine


/-! PROOFS. The supervision timers at the close of a microsecond (R25 to R28). -/

namespace Sys2Proof.Machine

/-! ### What an effect makes of a supervision timer -/

/-- The timer, if it runs, began its period at this count value. -/
def TimerBegun (now : TimeCount) : SupervisionTimer → Prop
  | .stopped => True
  | .running since => since = now
  | .closed since => since = now
  | .opened since => since = now

/-- From one session record to a later one: the master is away, its timer begins now, or the timer of its period runs
on, which may pass to OPEN. -/
def TimerRenewed (now : TimeCount) (r r' : Session) : Prop :=
  r'.standing.isAttached = false ∨ TimerBegun now r'.timer ∨
    (r.standing.isAttached = true ∧ r'.period = r.period ∧
      (r'.timer = r.timer ∨ ∃ since, r.timer = .closed since ∧ r'.timer = .opened since))

theorem TimerRenewed.refl (now : TimeCount) (r : Session) : TimerRenewed now r r := by
  cases here : r.standing.isAttached with
  | false => exact .inl here
  | true => exact .inr (.inr ⟨here, rfl, .inl rfl⟩)

theorem TimerRenewed.of_kept {now : TimeCount} {r r' : Session} (hs : r'.standing.isAttached = r.standing.isAttached)
    (hp : r'.period = r.period) (ht : r'.timer = r.timer) : TimerRenewed now r r' := by
  cases here : r.standing.isAttached with
  | false => exact .inl (hs.trans here)
  | true => exact .inr (.inr ⟨here, hp, .inl ht⟩)

theorem TimerRenewed.trans {now : TimeCount} {r r' r'' : Session} (h : TimerRenewed now r r')
    (k : TimerRenewed now r' r'') : TimerRenewed now r r'' := by
  obtain away | begun | ⟨here, period, runs⟩ := k
  · exact .inl away
  · exact .inr (.inl begun)
  · obtain away | begun | ⟨here', period', runs'⟩ := h
    · rw [away] at here; cases here
    · obtain same | ⟨since, closed, opened⟩ := runs
      · exact .inr (.inl (by rwa [same]))
      · rw [closed] at begun
        exact .inr (.inl (by rw [opened]; exact begun))
    · refine .inr (.inr ⟨here', period.trans period', ?_⟩)
      obtain same | ⟨since, closed, opened⟩ := runs
      · rw [same]; exact runs'
      · obtain same' | ⟨since', closed', opened'⟩ := runs'
        · exact .inr ⟨since, same'.symm.trans closed, opened⟩
        · rw [opened'] at closed; cases closed

/-- An AUTO timer starts or stops with the held-zone count (R28). -/
theorem counted_renewed (i j : Nat) (now : TimeCount) (r : Session) : TimerRenewed now r (r.counted i j now) := by
  by_cases auto : r.mode = .auto
  · rw [Session.counted_of_auto auto]
    split_ifs
    · exact .inr (.inl rfl)
    · exact .inr (.inl trivial)
    · exact .refl now r
  · rw [Session.counted_of_other auto]
    exact .refl now r

theorem idleTimer_begun (mode : Mode) (now : TimeCount) : TimerBegun now (idleTimer mode now) := by
  cases mode <;> simp [idleTimer, freshTimer, TimerBegun]

theorem supervisedTimer_begun (s : State) (m : Master) (mode : Mode) :
    TimerBegun s.timeCount (s.supervisedTimer m mode) := by
  unfold State.supervisedTimer
  split_ifs
  · trivial
  · cases mode <;> simp [freshTimer, TimerBegun]

/-- Every master's timer is renewed from one state to the other, at the same count value. -/
def TimersRenewed (s t : State) : Prop :=
  t.timeCount = s.timeCount ∧ ∀ n : Master, TimerRenewed s.timeCount s.sessions[n] t.sessions[n]

theorem TimersRenewed.of_sessions {s t : State} (ht : t.timeCount = s.timeCount) (hs : t.sessions = s.sessions) :
    TimersRenewed s t :=
  ⟨ht, fun n => by rw [hs]; exact .refl _ _⟩

theorem TimersRenewed.trans {s t u : State} (h : TimersRenewed s t) (k : TimersRenewed t u) : TimersRenewed s u :=
  ⟨k.1.trans h.1, fun n => (h.2 n).trans (h.1 ▸ k.2 n)⟩

theorem TimersRenewed.fold {α : Type} {f : State → α → State} (hf : ∀ s a, TimersRenewed s (f s a)) (l : List α)
    (s : State) : TimersRenewed s (l.foldl f s) := by
  induction l generalizing s with
  | nil => exact .of_sessions rfl rfl
  | cons a l ih => exact (hf s a).trans (ih _)

theorem setAuthority_timersRenewed (s : State) (z : ZoneId) (a : Authority) (v : Value) :
    TimersRenewed s (s.setAuthority z a v) :=
  ⟨State.setAuthority_timeCount .., fun n => by rw [State.setAuthority_sessions]; exact counted_renewed _ _ _ _⟩

/-- A change of one session record. -/
theorem withSession_timersRenewed {s t : State} {m : Master} {r : Session} (ht : t.timeCount = s.timeCount)
    (hs : t.sessions = s.sessions.set m r) (own : TimerRenewed s.timeCount s.sessions[m] r) : TimersRenewed s t := by
  refine ⟨ht, fun n => ?_⟩
  rw [hs, at_set]
  split
  next same => rw [← same]; exact own
  next => exact .refl _ _

theorem recordStrike_timersRenewed (s : State) (m : Master) : TimersRenewed s (s.recordStrike m) :=
  withSession_timersRenewed (by simp) (recordStrike_sessions m s) (.of_kept rfl rfl rfl)

theorem withTimer_begun {s : State} {m : Master} {u : SupervisionTimer} (begun : TimerBegun s.timeCount u) :
    TimersRenewed s (s.withTimer m u) :=
  withSession_timersRenewed (m := m) (r := { s.sessions[m] with timer := u }) rfl rfl (.inr (.inl begun))

/-- Where a session ends the master is away, and the others keep their sessions (R45). -/
theorem SessionEnds.timersRenewed {s r t : State} {m : Master} (h : SessionEnds r t m)
    (before : ∀ n : Master, n ≠ m → r.sessions[n] = s.sessions[n]) (away : t.isAttached m = false)
    (count : t.timeCount = s.timeCount) : TimersRenewed s t := by
  refine ⟨count, fun n => ?_⟩
  by_cases hn : n = m
  · rw [hn]; exact .inl away
  · rw [(h.2.2.2 n hn).1, before n hn]
    exact .refl _ _

theorem detach_timersRenewed (s : State) (m : Master) : TimersRenewed s (s.detach m) := by
  have count : (s.detach m).timeCount = s.timeCount := by rw [detach_frame]
  have away : (s.detach m).isAttached m = false := by
    rw [State.isAttached, (detach_self s m).1]
    rfl
  cases here : s.isAttached m with
  | true => exact (detach_ends here).timersRenewed (fun n hn => at_set_ne _ hn.symm _) away count
  | false =>
    refine ⟨count, fun n => ?_⟩
    by_cases hn : n = m
    · rw [hn]; exact .inl away
    · rw [((detach_away here).2.2.2 n hn).1]
      exact .refl _ _

theorem revoke_timersRenewed (s : State) (m : Master) (reason : RevokeReason) : TimersRenewed s (s.revoke m reason) := by
  obtain ⟨ends, own, -⟩ := revoke_spec m reason s
  refine ends.timersRenewed (fun n hn => at_set_ne _ hn.symm _) ?_ (by rw [revoke_frame])
  rw [State.isAttached, own]
  rfl

theorem dueEvent_timersRenewed (s : State) : TimersRenewed s s.dueEvent := by
  refine ⟨State.dueEvent_timeCount s, fun n => ?_⟩
  have faulted := (overtakenFaults_sessions s n allZones s.takeDueEntries).2
  rw [State.takeDueEntries_sessions, State.takeDueEntries_timeCount] at faulted
  rw [State.dueEvent, faulted]
  exact counted_renewed _ _ _ _

theorem recogniseChange_timersRenewed (s : State) (i : InputId) (level : Level) :
    TimersRenewed s (s.recogniseChange i level) := by
  refine ⟨by rw [recogniseChange_frame], fun n => ?_⟩
  by_cases captures : EdgeMode.captures level s.config.inputs[i].edge = true ∧ ∃ n, s.isAttached n = true
  · obtain ⟨-, -, -, -, masters⟩ := recogniseChange_captured s i level captures
    rw [(masters n).1]
    obtain same | ⟨here, c, moved⟩ := sessionAfterAppend_cases s n
    · rw [same]; exact .refl _ _
    · rw [moved]
      exact .of_kept here.symm rfl rfl
  · rw [recogniseChange_uncaptured s i level captures, State.refresh_sessions]
    exact .refl _ _

theorem enterService_timersRenewed (s : State) : TimersRenewed s s.enterService :=
  ((TimersRenewed.fold (fun u z => setAuthority_timersRenewed u z _ _) allZones s).trans
    (.fold (fun u i => .of_sessions (State.establish_timeCount u i) (State.establish_sessions u i)) allInputs _)).trans
    (.fold (fun u i => .of_sessions (State.refresh_timeCount u i) (State.refresh_sessions u i)) allInputs _)

theorem Effect.timersRenewed {s t : State} (made : Effect s t) : TimersRenewed s t := by
  have count := made.timeCount
  cases made with
  | follow _ f => exact .of_sessions count f.sessions
  | move z a v _ _ f _ => exact (setAuthority_timersRenewed s z a v).trans (.of_sessions f.timeCount f.sessions)
  | acknowledge m named _ =>
    unfold State.acknowledge at count ⊢
    dsimp only at count ⊢
    split
    · exact withSession_timersRenewed rfl rfl (.of_kept rfl rfl rfl)
    · exact .of_sessions rfl rfl
  | readCaptures m c n here =>
    exact withSession_timersRenewed count (readCaptures_state_sessions s m c n) (.of_kept (by rw [here]; rfl) rfl rfl)
  | attach m mode period _ _ _ _ =>
    exact withSession_timersRenewed rfl rfl (.inr (.inl (idleTimer_begun mode s.timeCount)))
  | detach m _ => exact detach_timersRenewed s m
  | park m _ _ => exact withSession_timersRenewed count (park_sessions s m) (.inl rfl)
  | unpark m k _ => exact withSession_timersRenewed count (unpark_sessions s m k) (.inr (.inl (idleTimer_begun _ _)))
  | revoke m r _ => exact revoke_timersRenewed s m r
  | strike m _ => exact recordStrike_timersRenewed s m
  | expire m _ _ _ =>
    refine (recordStrike_timersRenewed s m).trans (withTimer_begun ?_)
    exact (recordStrike_timersRenewed s m).1.symm
  | renewOpen m _ _ _ => exact withTimer_begun rfl
  | renewRunning m _ _ _ => exact withTimer_begun rfl
  | windowOpen m since timer =>
    refine withSession_timersRenewed (m := m) rfl rfl ?_
    cases here : s.sessions[m].standing.isAttached with
    | false => exact .inl here
    | true => exact .inr (.inr ⟨here, rfl, .inr ⟨since, timer, rfl⟩⟩)
  | supervise m mode period _ _ =>
    exact withSession_timersRenewed rfl rfl (.inr (.inl (supervisedTimer_begun s m mode)))
  | due => exact dueEvent_timersRenewed s
  | change i level _ _ _ => exact recogniseChange_timersRenewed s i level
  | startUp device =>
    rw [startUp_of_starting device]
    split
    · exact .of_sessions rfl rfl
    · exact (TimersRenewed.of_sessions (t := s.withDecision s.store.read) rfl rfl).trans (enterService_timersRenewed _)
  | _ =>
    refine .of_sessions count ?_
    simp [State.setEnables, State.sensedChange, State.writeSteps, State.writeZoneConfig, State.writeInputConfig,
      State.withStrictness, State.withZoneConfig, State.withInputConfig, State.commit]

/-! ### The timer short of its end -/

/-- An ATTACHED master's timer is short of its period, and of half of it while CLOSED. -/
def SessionAhead (now : TimeCount) (r : Session) : Prop :=
  ∀ since : TimeCount, r.standing.isAttached = true →
    (r.timer = .running since ∨ r.timer = .opened since → (now - since).toNat < r.period.micros) ∧
      (r.timer = .closed since → (now - since).toNat < r.period.micros / 2)

theorem Period.micros_half_pos (p : Period) : 0 < p.micros / 2 := by cases p <;> decide

theorem SessionAhead.of_away {now : TimeCount} {r : Session} (away : r.standing.isAttached = false) :
    SessionAhead now r := fun _ here => by rw [away] at here; cases here

theorem SessionAhead.of_begun {now : TimeCount} {r : Session} (begun : TimerBegun now r.timer) : SessionAhead now r := by
  have half := Period.micros_half_pos r.period
  have whole : 0 < r.period.micros := lt_of_lt_of_le half (Nat.div_le_self _ _)
  refine fun since _ => ⟨fun runs => ?_, fun closed => ?_⟩
  · have now_begun : since = now := by
      obtain running | opened := runs
      · rw [running] at begun; exact begun
      · rw [opened] at begun; exact begun
    rw [now_begun, elapsed_now]
    exact whole
  · rw [closed] at begun
    rw [show since = now from begun, elapsed_now]
    exact half

theorem SessionAhead.renewed {now : TimeCount} {r r' : Session} (h : SessionAhead now r) (k : TimerRenewed now r r') :
    SessionAhead now r' := by
  obtain away | begun | ⟨here, period, same | ⟨since, closed, opened⟩⟩ := k
  · exact .of_away away
  · exact .of_begun begun
  · intro began _
    rw [period, same]
    exact h began here
  · intro began _
    rw [period, opened]
    refine ⟨fun runs => ?_, fun x => by cases x⟩
    obtain x | x := runs
    · cases x
    · cases x
      exact lt_of_lt_of_le ((h since here).2 closed) (Nat.div_le_self _ _)

/-- At this count value the master's timer is short of its end. -/
def MasterAhead (now : TimeCount) (m : Master) (s : State) : Prop := s.timeCount = now ∧ SessionAhead now s.sessions[m]

theorem masterAhead_kept (now : TimeCount) (m : Master) : KeptByEffects (MasterAhead now m) := by
  rintro s t ⟨rfl, ahead⟩ made
  exact ⟨made.timeCount, ahead.renewed (made.timersRenewed.2 m)⟩

/-- After the passage to OPEN no CLOSED timer stands at its half. -/
theorem windowOpen_half (s : State) (m : Master) {since : TimeCount}
    (closed : (s.windowOpen m).sessions[m].timer = .closed since) :
    (s.timeCount - since).toNat < (s.windowOpen m).sessions[m].period.micros / 2 := by
  cases timer : s.sessions[m].timer with
  | closed began =>
    rw [windowOpen_of_closed timer] at closed ⊢
    by_cases half : s.sessions[m].period.micros / 2 ≤ (s.timeCount - began).toNat
    · rw [if_pos half] at closed
      simp only [State.withTimer, State.withSession_sessions, at_set_self] at closed
      cases closed
    · rw [if_neg half] at closed ⊢
      rw [timer] at closed
      cases closed
      exact Nat.lt_of_not_le half
  | _ =>
    rw [windowOpen_of_other (fun k => by rw [timer]; simp), timer] at closed
    cases closed

theorem withTimer_timer (s : State) (m : Master) (u : SupervisionTimer) : (s.withTimer m u).sessions[m].timer = u := by
  rw [State.withTimer, State.withSession_sessions, at_set_self]

/-- An expiry revokes the master, or strikes it and starts a new period. -/
theorem supervisionFailure_ahead {s : State} {m : Master} (runs : s.sessions[m].timer ≠ .stopped) :
    SessionAhead s.timeCount (s.supervisionFailure m).sessions[m] := by
  have revoked : ∀ reason, SessionAhead s.timeCount (s.revoke m reason).sessions[m] := fun reason => by
    rw [(revoke_spec m reason s).2.1]
    exact .of_away rfl
  unfold State.supervisionFailure
  split
  · exact revoked _
  · exact revoked _
  · split
    · exact revoked _
    · refine .of_begun ?_
      rw [withTimer_timer]
      exact rfl
  next stopped => exact absurd stopped runs

/-- A timer that has not run its period is left as it is. -/
theorem supervisionExpiry_ahead {s : State} {m : Master}
    (half : ∀ since, s.sessions[m].timer = .closed since → (s.timeCount - since).toNat < s.sessions[m].period.micros / 2) :
    SessionAhead s.timeCount (s.supervisionExpiry m).sessions[m] := by
  by_cases here : s.isAttached m = true
  · cases due : s.sessions[m].timer.hasRun s s.sessions[m].period.micros with
    | true =>
      rw [supervisionExpiry_of_due here due]
      exact supervisionFailure_ahead fun stopped => by rw [stopped] at due; cases due
    | false =>
      rw [supervisionExpiry_of_early due]
      refine fun since _ => ⟨fun runs => ?_, half since⟩
      obtain timer | timer := runs
      · rw [timer] at due
        exact Nat.lt_of_not_le (of_decide_eq_false due)
      · rw [timer] at due
        exact Nat.lt_of_not_le (of_decide_eq_false due)
  · rw [supervisionExpiry_of_away here]
    exact .of_away (Bool.eq_false_iff.mpr here)

theorem masterTimerDue_ahead (s : State) (m : Master) : MasterAhead s.timeCount m (s.masterTimerDue m) := by
  have count := (windowOpen_atExpiry s m).close.timeCount
  refine ⟨(masterTimerDue_atExpiry s m).close.timeCount, ?_⟩
  have ahead := supervisionExpiry_ahead (s := s.windowOpen m) (m := m) fun since closed => by
    rw [count]
    exact windowOpen_half s m closed
  rwa [count] at ahead

theorem close_masterAhead (s : State) (m : Master) : MasterAhead s.timeCount m s.closeSampling.takeDue := by
  rw [takeDue_eq]
  have count : (allZones.foldl State.zoneTimersDue
      (allInputs.foldl State.recogniseDue s.closeSampling).dueEvent).timeCount = s.timeCount :=
    (AtExpiry.fold zoneTimersDue_atExpiry allZones _).close.timeCount.trans (atTimers_timeCount s)
  exact foldl_establishes (I := fun u => u.timeCount = s.timeCount) (mem_allMasters m)
    (fun u n h => (masterTimerDue_atExpiry u n).close.timeCount.trans h)
    (fun u h => by rw [← h]; exact masterTimerDue_ahead u m)
    (fun _ n h => (masterAhead_kept s.timeCount m).masterTimerDue n h) count

end Sys2Proof.Machine


/-! PROOFS. The check timers at the close of a microsecond (R124, R125), and the advance of the time count (R86). -/

namespace Sys2Proof.Machine

/-! ### What the expiries make of a check timer -/

/-- A check timer that runs afterwards ran before, or begins now. -/
def MonitorRenewed (now : TimeCount) (m m' : Monitor) : Prop :=
  ∀ (since : TimeCount) (l : LineSet), m' = .checking since l → since = now ∨ ∃ l', m = .checking since l'

theorem MonitorRenewed.refl (now : TimeCount) (m : Monitor) : MonitorRenewed now m m := fun _ l h => .inr ⟨l, h⟩

theorem MonitorRenewed.trans {now : TimeCount} {m m' m'' : Monitor} (h : MonitorRenewed now m m')
    (k : MonitorRenewed now m' m'') : MonitorRenewed now m m'' := fun since l checks => by
  obtain begins | ⟨l', checks'⟩ := k since l checks
  · exact .inl begins
  · exact h since l' checks'

theorem freshMonitor_renewed (m : Monitor) (c : Byte) (now : TimeCount) (v sensed : Value) :
    MonitorRenewed now m (freshMonitor c now v sensed) := by
  intro since l checks
  unfold freshMonitor at checks
  split_ifs at checks
  cases checks
  exact .inl rfl

theorem driveChanged_renewed (now : TimeCount) (v sensed : Value) (m : Monitor) :
    MonitorRenewed now m (m.driveChanged now v sensed) := by
  unfold Monitor.driveChanged
  split
  · split
    · exact fun _ _ checks => by cases checks
    · exact fun _ _ checks => by cases checks; exact .inl rfl
  · exact .refl now _

theorem drive_renewed (f : Value) (c : Byte) (now : TimeCount) (r : Zone) :
    MonitorRenewed now r.monitor (r.drive f c now).monitor := by
  unfold Zone.drive
  split
  · exact .refl now _
  · exact freshMonitor_renewed _ c now _ _
  · exact fun _ _ checks => by cases checks
  · split
    · exact .refl now _
    · exact driveChanged_renewed now _ _ _

/-- Every zone's check timer is renewed from one state to the other, at the same count value. -/
def MonitorsRenewed (s t : State) : Prop :=
  t.timeCount = s.timeCount ∧ ∀ z : ZoneId, MonitorRenewed s.timeCount s.zones[z].monitor t.zones[z].monitor

theorem MonitorsRenewed.of_zones {s t : State} (ht : t.timeCount = s.timeCount) (hz : t.zones = s.zones) :
    MonitorsRenewed s t :=
  ⟨ht, fun z => by rw [hz]; exact .refl _ _⟩

theorem MonitorsRenewed.trans {s t u : State} (h : MonitorsRenewed s t) (k : MonitorsRenewed t u) :
    MonitorsRenewed s u :=
  ⟨k.1.trans h.1, fun z => (h.2 z).trans (h.1 ▸ k.2 z)⟩

theorem MonitorsRenewed.fold {α : Type} {f : State → α → State} (hf : ∀ s a, MonitorsRenewed s (f s a)) (l : List α)
    (s : State) : MonitorsRenewed s (l.foldl f s) := by
  induction l generalizing s with
  | nil => exact .of_zones rfl rfl
  | cons a l ih => exact (hf s a).trans (ih _)

theorem setAuthority_monitors (s : State) (z : ZoneId) (a : Authority) (v : Value) :
    MonitorsRenewed s (s.setAuthority z a v) := by
  refine ⟨State.setAuthority_timeCount .., fun y => ?_⟩
  by_cases hy : z = y
  · subst hy
    rw [State.setAuthority_zones_self]
    exact drive_renewed _ _ _ (s.zones[z].reassign a v)
  · rw [State.setAuthority_zones_ne s hy]
    exact .refl _ _

theorem Follows.monitors {s t : State} {z : ZoneId} {a : Authority} {v : Value}
    (f : Follows (s.setAuthority z a v) t) : MonitorsRenewed s t :=
  (setAuthority_monitors s z a v).trans (.of_zones f.timeCount f.zones)

theorem handoverTimeout_monitors (s : State) (z : ZoneId) : MonitorsRenewed s (s.handoverTimeout z) := by
  unfold State.handoverTimeout
  split
  next h p _ =>
    split
    · split
      · exact (setAuthority_monitors s z (.held p.requester) s.zones[z].commanded).trans
          (.of_zones (by simp [State.preempt, State.transferTo, State.tellGranted])
            (by simp [State.preempt, State.transferTo, State.tellGranted]))
      · exact (setAuthority_monitors s z (.held h) s.zones[z].commanded).trans
          (.of_zones (by simp [State.timeOutRequest, State.endRequest])
            (by simp [State.timeOutRequest, State.endRequest]))
    · exact .of_zones rfl rfl
  next => exact .of_zones rfl rfl

theorem settleExpiry_monitors (s : State) (z : ZoneId) : MonitorsRenewed s (s.settleExpiry z) := by
  unfold State.settleExpiry
  split
  · split
    · exact (setAuthority_monitors s z _ _).trans
        (.of_zones (State.signal_timeCount ..) (State.signal_zones ..))
    · exact .of_zones rfl rfl
  · exact .of_zones rfl rfl

theorem checkExpiry_monitors (s : State) (z : ZoneId) : MonitorsRenewed s (s.checkExpiry z) := by
  unfold State.checkExpiry
  split
  · exact (faultZone_follows s z).monitors
  · exact .of_zones rfl rfl

theorem loseEligibilityAt_monitors (m : Master) (s : State) (z : ZoneId) :
    MonitorsRenewed s (State.loseEligibilityAt m s z) := by
  unfold State.loseEligibilityAt
  split
  next h r _ =>
    split
    · exact (setAuthority_monitors s z (.held h) s.zones[z].commanded).trans
        (.of_zones (by simp [State.dropRequest]) (by simp [State.dropRequest]))
    · exact .of_zones rfl rfl
  next =>
    split
    · exact setAuthority_monitors s z _ _
    · exact .of_zones rfl rfl
  next => exact .of_zones rfl rfl

theorem lose_monitors (s : State) (z : ZoneId) (m : Master) (r : Option Pending) : MonitorsRenewed s (s.lose z m r) := by
  obtain ⟨c, follows⟩ := lose_follows s z m r
  exact follows.monitors

theorem endSessionAt_monitors (m : Master) (s : State) (z : ZoneId) : MonitorsRenewed s (State.endSessionAt m s z) := by
  unfold State.endSessionAt
  split
  · split
    · exact lose_monitors s z m none
    · exact .of_zones rfl rfl
  · split
    · exact lose_monitors s z m _
    · exact loseEligibilityAt_monitors m s z
  · exact loseEligibilityAt_monitors m s z
  · exact .of_zones rfl rfl

theorem endSession_monitors (s : State) (m : Master) : MonitorsRenewed s (s.endSession m) := by
  unfold State.endSession
  exact (MonitorsRenewed.fold (endSessionAt_monitors m) allZones s).trans (.of_zones (by simp) (by simp))

theorem revoke_monitors (s : State) (m : Master) (reason : RevokeReason) : MonitorsRenewed s (s.revoke m reason) :=
  (MonitorsRenewed.of_zones (by simp) (by simp)).trans (endSession_monitors _ m)

theorem recordStrike_monitors (s : State) (m : Master) : MonitorsRenewed s (s.recordStrike m) :=
  (MonitorsRenewed.of_zones (by simp) (by simp)).trans (.fold (loseEligibilityAt_monitors m) allZones _)

theorem windowOpen_monitors (s : State) (m : Master) : MonitorsRenewed s (s.windowOpen m) := by
  unfold State.windowOpen
  split
  · split <;> exact .of_zones rfl rfl
  · exact .of_zones rfl rfl

theorem withTimer_monitors (s : State) (m : Master) (t : SupervisionTimer) : MonitorsRenewed s (s.withTimer m t) :=
  .of_zones rfl rfl

theorem supervisionFailure_monitors (s : State) (m : Master) : MonitorsRenewed s (s.supervisionFailure m) := by
  unfold State.supervisionFailure
  split
  · exact revoke_monitors s m _
  · exact revoke_monitors s m _
  · split
    · exact revoke_monitors s m _
    · exact (recordStrike_monitors s m).trans (withTimer_monitors _ m _)
  · exact .of_zones rfl rfl

theorem supervisionExpiry_monitors (s : State) (m : Master) : MonitorsRenewed s (s.supervisionExpiry m) := by
  unfold State.supervisionExpiry
  split
  · exact supervisionFailure_monitors s m
  · exact .of_zones rfl rfl

theorem zoneTimersDue_monitors (s : State) (z : ZoneId) : MonitorsRenewed s (s.zoneTimersDue z) :=
  ((handoverTimeout_monitors s z).trans (settleExpiry_monitors _ z)).trans (checkExpiry_monitors _ z)

theorem masterTimerDue_monitors (s : State) (m : Master) : MonitorsRenewed s (s.masterTimerDue m) :=
  (windowOpen_monitors s m).trans (supervisionExpiry_monitors _ m)

/-! ### The check timer short of its end -/

/-- The zone's check timer, if it runs, is short of the check time. -/
def CheckAhead (now : TimeCount) (z : ZoneId) (s : State) : Prop :=
  ∀ (since : TimeCount) (l : LineSet), s.zones[z].monitor = .checking since l →
    (now - since).toNat < s.config.zones[z].checkTime.toNat * 1000

/-- By the law of driving a zone under check is driven and has a check time. -/
theorem LawOfDriving.checking {s : State} (h : LawOfDriving s) {z : ZoneId} {since : TimeCount} {l : LineSet}
    (checks : s.zones[z].monitor = .checking since l) :
    s.config.zones[z].checkTime ≠ 0 ∧ ∃ v, s.zones[z].driven = some v := by
  obtain ⟨⟨-, fits⟩, -⟩ := h z
  rw [checks] at fits
  obtain ⟨timed, v, driven, -⟩ := fits
  exact ⟨timed, v, driven⟩

/-- The law, the count value, and the zone's check timer short of its end. -/
def DrivenAhead (now : TimeCount) (z : ZoneId) (s : State) : Prop :=
  (LawOfDriving s ∧ s.timeCount = now) ∧ CheckAhead now z s

theorem DrivenAhead.renewed {now : TimeCount} {z : ZoneId} {s t : State} (h : DrivenAhead now z s)
    (law : LawOfDriving t) (reached : AtExpiry s t) (renewed : MonitorsRenewed s t) : DrivenAhead now z t := by
  obtain ⟨⟨-, count⟩, ahead⟩ := h
  have config := reached.close.config
  refine ⟨⟨law, renewed.1.trans count⟩, fun since l checks => ?_⟩
  obtain begins | ⟨l', ran⟩ := renewed.2 z since l checks
  · have timed := (law.checking checks).1
    rw [begins, count, elapsed_now]
    have positive : (t.config.zones[z].checkTime).toNat ≠ 0 := fun zero => timed (BitVec.eq_of_toNat_eq zero)
    omega
  · rw [config]
    exact ahead since l' ran

/-- After the event of a zone's check timer it does not stand at its end: a zone that has faulted is not driven. -/
theorem checkExpiry_ahead {s : State} {z : ZoneId} (law' : LawOfDriving (s.checkExpiry z)) :
    CheckAhead s.timeCount z (s.checkExpiry z) := by
  intro since l checks
  unfold State.checkExpiry at checks law' ⊢
  cases expired : s.checkExpired z with
  | true =>
    rw [if_pos expired] at checks law'
    obtain ⟨v, driven⟩ := (law'.checking checks).2
    have undriven := (law' z).1.driven_none.mpr (.inr (faultZone_authority s z))
    rw [driven] at undriven
    cases undriven
  | false =>
    simp only [expired, Bool.false_eq_true, if_false] at checks ⊢
    simp only [State.checkExpired, checks, State.checkDue, State.elapsed, microsPerMs] at expired
    exact Nat.lt_of_not_le (of_decide_eq_false expired)

theorem zoneTimersDue_checkAhead {s : State} (law : LawOfDriving s) (z : ZoneId) :
    DrivenAhead s.timeCount z (s.zoneTimersDue z) := by
  have after : LawOfDriving (s.zoneTimersDue z) := lawOfDriving_kept.zoneTimersDue z law
  have count := ((handoverTimeout_atExpiry s z).trans (settleExpiry_atExpiry _ z)).close.timeCount
  have ahead := checkExpiry_ahead after
  rw [count] at ahead
  exact ⟨⟨after, (zoneTimersDue_atExpiry s z).close.timeCount⟩, ahead⟩

theorem close_checkAhead {s : State} (law : LawOfDriving s) (z : ZoneId) :
    DrivenAhead s.timeCount z s.closeSampling.takeDue := by
  rw [takeDue_eq]
  have atTimers : LawOfDriving (allInputs.foldl State.recogniseDue s.closeSampling).dueEvent :=
    (lawOfDriving_kept.recogniseAll (lawOfDriving_kept.closeSampling law)).dueEvent
  exact timersDue_zone (I := fun u => LawOfDriving u ∧ u.timeCount = s.timeCount) z
    (fun u y h => ⟨lawOfDriving_kept.zoneTimersDue y h.1, (zoneTimersDue_atExpiry u y).close.timeCount.trans h.2⟩)
    (fun u h => by rw [← h.2]; exact zoneTimersDue_checkAhead h.1 z)
    (fun u y h => h.renewed (lawOfDriving_kept.zoneTimersDue y h.1.1) (zoneTimersDue_atExpiry u y)
      (zoneTimersDue_monitors u y))
    (fun u m h => h.renewed (lawOfDriving_kept.masterTimerDue m h.1.1) (masterTimerDue_atExpiry u m)
      (masterTimerDue_monitors u m))
    ⟨atTimers, atTimers_timeCount s⟩

/-! ### The advance -/

theorem tick_timeCount (s : State) : s.tick.timeCount = s.timeCount + 1 := rfl

theorem advance_timeCount (s : State) : s.closeSampling.takeDue.tick.timeCount = s.timeCount + 1 := by
  rw [tick_timeCount, (close_atClose s).timeCount]

theorem timeCountChangesAtResetsAndAdvances : Clauses.TimeCountChangesAtResetsAndAdvances := by
  intro c s t h
  refine ⟨fun advances => ?_, fun other => ?_⟩
  · subst advances
    rw [← Host.Outcome.next.inj h]
    exact advance_timeCount s
  · cases exec_does h with
    | effect u made answered => exact .inl (by rw [answered, made.timeCount])
    | advance advances _ => exact absurd advances other
    | restart u cause cfg resets restarted => exact .inr ⟨by rw [restarted]; rfl, by rw [restarted]; rfl, resets⟩

theorem AtClose.kept {s t : State} (h : AtClose s t) :
    t.banks = s.banks ∧ t.config = s.config ∧ t.ports = s.ports ∧ t.device = s.device ∧ t.store = s.store := by
  rw [h]
  exact ⟨rfl, rfl, rfl, rfl, rfl⟩

theorem ZoneAhead.timer {now : TimeCount} {z : ZoneId} {s : State} (h : ZoneAhead now z s) :
    TimerAhead now s.zones[z].authority :=
  h.2

theorem MasterAhead.session {now : TimeCount} {m : Master} {s : State} (h : MasterAhead now m s) :
    SessionAhead now s.sessions[m] :=
  h.2

theorem theAdvanceLeavesNothingDue : Clauses.TheAdvanceLeavesNothingDue := by
  intro s law
  have ahead := (queueAhead_takeDue (lawOfQueue_kept.closeSampling law)).2
  have zones := close_zoneAhead s
  have kept := (close_atClose s).kept
  have count := (close_atClose s).timeCount
  have advanced := advance_timeCount s
  refine ⟨s.closeSampling.takeDue.tick, rfl, advanced, ?_⟩
  rw [count] at ahead
  generalize s.closeSampling.takeDue = u at ahead zones kept
  refine ⟨ahead, fun z c settling long => ?_, fun z h p asked long => ?_, kept⟩
  · have timer := (zones z).timer
    rw [show u.zones[z].authority = .settling c from settling] at timer
    exact timer long
  · have timer := (zones z).timer
    rw [show u.zones[z].authority = .transfer h p from asked] at timer
    exact timer long

theorem theAdvanceLeavesNoTimerDue : Clauses.TheAdvanceLeavesNoTimerDue := by
  intro s
  have masters := close_masterAhead s
  have inputs := close_inputAhead s
  have checks := fun (law : LawOfDriving s) z => (close_checkAhead law z).2
  have count := (close_atClose s).timeCount
  refine ⟨s.closeSampling.takeDue.tick, rfl, ?_⟩
  generalize s.closeSampling.takeDue = u at masters inputs checks count
  refine ⟨fun m since => (masters m).session since, fun law z => checks law z, fun i => ?_⟩
  have input := inputs i
  rw [InputAhead, count] at input
  exact input

/-- Settles O60: the advance takes every event still due, each of which leaves its own timer short of its end and the
others as they were or beginning now. -/
theorem theTimeCountAdvances : Obligations.TheTimeCountAdvances :=
  ⟨timeCountChangesAtResetsAndAdvances, theAdvanceLeavesNothingDue, theAdvanceLeavesNoTimerDue⟩

end Sys2Proof.Machine
